-- ==== Sys2Proof/Word.lean ====
section
/-! DEFINITION. The word types of the A16 (R6, R7: binary capacities, little-endian fields, bit 0 least significant). -/

namespace Sys2Proof

abbrev Byte := BitVec 8
abbrev Half := BitVec 16
abbrev Word := BitVec 32
abbrev DWord := BitVec 64

/-- Bits [hi:lo] of a number, as the register tables write them. -/
abbrev field (hi lo : Nat) (n : Nat) : Nat := (n >>> lo) % 2 ^ (hi + 1 - lo)

/-- Bit `k` of a number. -/
abbrev bitAt (k : Nat) (n : Nat) : Bool := (n >>> k) % 2 == 1

/-- A saturating counter: adds `k`, stops at `top` (R31, R72, R379 and the other saturating counters). -/
abbrev satAdd (top : Nat) (n k : Nat) : Nat := min top (n + k)

/-- Division rounded up. -/
abbrev ceilDiv (a b : Nat) : Nat := (a + b - 1) / b

end Sys2Proof
end

