-- ==== Sys2Proof/Syntax.lean ====
section
/-! DEFINITION. The commands of the block: one constructor of `Instr` per row of the opcode table, with its operands. -/

namespace Sys2Proof

/-- Where an ACS command comes from (Table 4-1): a submission ring, or command `idx` of a program instance. -/
inductive Src where
  | ring (q : Nat)
  | inst (id idx : Nat)
  deriving DecidableEq, Repr

/-- How a device read ended (R387). -/
inductive ReadEnd where
  | ok | timeout | ur | ca
  /-- A poisoned completion; `last` when it carries the last bytes of the request (R388). -/
  | poison (last : Bool)
  deriving DecidableEq, Repr

/-- The fields of an ACS command, Table 4-10; the opcode is the constructor's. `rd` is no field: it says how the reads end
that bring the command's operands from host memory (R387). -/
structure Cmd where
  src   : Src
  flags : Byte := 0
  sub   : Byte := 0
  tag   : Word := 0
  w0    : Word := 0
  w1    : Word := 0
  w2    : Word := 0
  w3    : Word := 0
  w4    : Word := 0
  w5    : Word := 0
  rd    : ReadEnd := .ok
  deriving DecidableEq, Repr

/-- What an access unit is among the random access points of Table 11-5. -/
inductive AuKind where
  /-- IDR, IRAP, AV1 key unit, JPEG image: decoding may start and it creates an instance. -/
  | rap
  /-- H.264 recovery point SEI with its recovery_frame_cnt (R503). -/
  | recovery (cnt : Nat)
  /-- A RASL picture of the last CRA or BLA (Table 11-5). -/
  | rasl
  | plain
  deriving DecidableEq, Repr

/-- A tool or mode that Table 11-4 excludes, as a parameter set or header signals it. -/
inductive Tool where
  | field | paff | mbaff | fmo | aso | redundant | svc | mvc | rangeFlag | screen | scalable | multiview | largeTiles | tileList
  | progressive | lossless | hierarchical | arithmetic
  deriving DecidableEq, Repr

/-- What parameter sets signal (R303): the profile (profile_idc, general_profile_idc, seq_profile), H.265's compatibility flags
that are set, the constraint flags that Table 11-4 asks for, ten times the level, chroma_format_idc, excluded tools. -/
structure Params where
  profile : Nat
  compat  : List Nat := []
  flags   : Bool := false
  level   : Nat
  chroma  : Nat := 1
  tools   : List Tool := []
  deriving DecidableEq, Repr

/-- What the codec standard reads in an access unit's headers (R303, R304, R502, R503); the codec standards are
outside the manual, so a command brings it. -/
structure AuInfo where
  kind     : AuKind := .plain
  width    : Nat := 16
  height   : Nat := 16
  depth    : Nat := 8
  refs     : Nat := 0
  /-- A reason found at the parse: 1 SYNTAX, 3 BAD_PARAM, 4 UNSUPPORTED (Table 11-6). -/
  bad      : Option Nat := none
  frameNum : Nat := 0
  maxFrame : Nat := 65536
  isRef    : Bool := false
  /-- Decode-order numbers of the pictures that remain references after this one (R308). -/
  keeps    : List Nat := []
  poc      : Int := 0
  mono     : Bool := false
  full     : Option Bool := none
  matrix   : Nat := 2
  chroma   : Nat := 0
  ctus     : Nat := 1
  /-- What its parameter sets signal, where it carries any. -/
  params   : Option Params := none
  deriving DecidableEq, Repr

/-- An engine that runs steps (R18, R46, R183). A tiller has a vector unit, a mover and its matrix arrays, of which a chain
of `len` consecutive logical arrays from `first` takes a step, whole or in one quarter of each (R194, R197). Transfers between
DRAM and the granary take no tiller's mover; their steps run side by side, within the rates (R254, R290). -/
inductive Engine where
  | arrays (t first len : Nat) (quarter : Option Nat)
  | vector (t : Nat) | mover (t : Nat) | dec (d : Nat) | shp (n : Nat) | cle (n : Nat) | hostDma | link (p : Nat) | granary
  deriving DecidableEq, Repr

/-- Where an uncorrectable word lies (R441): partition, buffer number, copy (none shared, some k per binding; `inst` names the
instance of a per-instance one), line, and word of 8 bytes in the line. Buffer number 0, which no buffer has, stands for the replay cache `copy`, whose slot is `line` (R351); partition
16, which no partition has, for the emit buffer, whose held write number `line` it lies in (Table 19-1). -/
structure ErrAt where
  part : Nat
  buf  : Nat
  copy : Option Nat
  line : Nat
  word : Nat := 0
  inst : Option Nat := none
  deriving DecidableEq, Repr

/-- A store that a step reads (Table 19-1): internal memories are the accumulators' and codecs' line buffers, the clip
encoders' and the control memories (Table 1-3). -/
inductive Tier where
  | scratchpad | granary | dram | internal | register
  deriving DecidableEq, Repr

/-- Words that were read corrected during a step (R213, R439), by the counters of Table 19-7. -/
structure Fixed where
  sp    : Nat := 0
  grn   : Nat := 0
  inner : Nat := 0
  reg   : Nat := 0
  deriving DecidableEq, Repr

/-- What ended a step (R38, R40, R310, R341, R402): how it went, with what the bitstream or the memory showed. -/
inductive StepHow where
  | done
  /-- An uncorrectable error in a word that the step read (R213, R402, R439): the store, the tiller or DRAM channel or
  0xFF, and the place where a buffer copy holds the word. -/
  | dataLost (tier : Tier) (unit : Nat) (where_ : Option ErrAt)
  /-- A stationary block failed row parity in physical array `array` of a tiller (R193). -/
  | parity (tiller array : Nat)
  /-- A tag mismatch at the step (R137). -/
  | badTag
  /-- Decode steps: a stop reason of Table 11-6 at a byte offset (R310). -/
  | stop (reason offset : Nat)
  /-- Decode steps: coding tree units done in the step (R38). -/
  | ctus (n : Nat)
  /-- Clip steps: bits of the headers that the step codes, and of each unit at QUALITY, at the maximum QP and at its
  floor cost (R340, Table 13-4). -/
  | clip (hdr : Nat) (units : List (Nat × Nat × Nat))
  deriving DecidableEq, Repr

/-- The stage that placement moves where a cause of Table 9-8 leaves a choice: one of those on a tiller that the 10 µs limit delays, or a
stage that reads over a late cross-module seam, and the tiller to which this one goes (R266). -/
structure Migration where
  prog  : Nat
  stage : Nat
  to_   : Nat := 0
  deriving DecidableEq, Repr

/-- The stages of a program in a partition (R251): the first command of each after the first, and the tillers of each. -/
structure StageMap where
  part    : Nat
  prog    : Nat
  cuts    : List Nat := []
  tillers : List (List Nat) := []
  deriving DecidableEq, Repr

/-- A reading of a unit's meter over a mending step (R56, R61, R442): the cost entry, its work in the unit of Table 3-2, the grains,
whether the governor's level was above 0 while it ran (R68). -/
structure Metered where
  entry   : Nat
  work    : Nat
  grains  : Nat
  stalled : Bool := false
  deriving DecidableEq, Repr

/-- What a boundary measures (R55, R56, R68, R72, R266): input energy, lowest 1 ms VIN average of the tick just ended, and
the moves that placement decides there (partitions with what moves, streams with their new decoders). -/
structure Boundary where
  energy  : Nat := 0
  vbMv    : Nat := 12000
  moves   : List (Nat × Migration) := []
  /-- Copies that a retirement move could not read (R448). -/
  lost     : List ErrAt := []
  /-- Engines whose standby plan memory holds an uncorrectable word (Table 19-1). -/
  planLost : List Engine := []
  /-- Words that a migration move could not read: the move is dropped (R268). -/
  badMoves : List (Tier × ErrAt) := []
  /-- Windows that this module revokes (R424). -/
  revoke   : List Nat := []
  /-- The last 1 ms VIN average, in mV (Table 3-6). -/
  lastMv   : Nat := 12000
  /-- Meter readings of the darning steps of the tick. -/
  mended   : List Metered := []
  /-- Tillers whose tile sequencer has failed in the tick (R209). -/
  seqFail  : List Nat := []
  deriving DecidableEq, Repr

/-- What a step of a sheaf is for: command `seq` of an instance, command `n` of a queue's ring, the decode of a picture, the
frames of a clip, the products of a weight-sharing run whose first member is command `seq` of an instance (R168), the transfers
that bring a command its operands (R255), a migration (R267), step `n` of those that a lead has placed here for a tick (R270). -/
inductive Work where
  | inst (id seq : Nat) | ring (q n : Nat) | pic (ctx num : Nat) | clip (binding : Nat) | share (id seq : Nat)
  | seam (id seq : Nat) | move (n : Nat) | far (part tick n : Nat)
  deriving DecidableEq, Repr

/-- A partition's time on a shared engine in a tick: `len` ns from `start`, its own or lent (R46, R288, R289). -/
structure Slice where
  eng   : Engine
  part  : Nat
  start : Nat
  len   : Nat
  lent  : Bool := false
  deriving DecidableEq, Repr

/-- A chain of logical arrays of a tiller, whole or one quarter of each (R194, R197). -/
structure Chain where
  tiller  : Nat
  first   : Nat
  len     : Nat
  quarter : Option Nat := none
  deriving DecidableEq, Repr

/-- How the builder cuts the reduction of one array problem: quarter mode where it is free to choose it (R197), the lengths in
K-blocks of the segments, and whether each starts from the parked result of the one before (R195). -/
structure Prob where
  quarter : Bool := false
  cuts    : List Nat := []
  parked  : Bool := true
  deriving DecidableEq, Repr

/-- What the builder chooses for a command (R195, R197, R202, R238): the tillers among which its rows are divided, the chains
to which its tiles are dealt, its array problems. -/
structure Choice where
  work    : Work
  tillers : List Nat := []
  chains  : List Chain := []
  probs   : List Prob := []
  /-- Rate of its DRAM and host transfers in bytes per µs, up to that of the path (R256); 0 the partition's share of it. -/
  rate    : Nat := 0
  deriving DecidableEq, Repr

/-- When a step starts, in ns from the boundary, with its crossbar slots, and the deadline of its DRAM reads (R18, R32). A
picture's decode has one start, that of its window (R305). -/
structure Start where
  work     : Work
  step     : Nat := 0
  start    : Nat
  eng      : Option Engine := none
  deadline : Option Nat := none
  xbar     : List Nat := []
  /-- Accesses to scratchpad banks: tiller, ac from the start of the step, line (R184). -/
  banks    : List (Nat × Nat × Nat) := []
  deriving DecidableEq, Repr

/-- An item of pass 1 that no command asks for: a mending slot, or the refresh windows, `count` of them every `every` ns (Table 2-5):
cost entries with charges and work (R61). -/
structure Fixed1 where
  start : Nat
  dur   : Nat
  costs : List (Nat × Nat × Nat) := []
  count : Nat := 1
  every : Nat := 0
  deriving DecidableEq, Repr

/-- What a build brings that the manual leaves to placement and to the builders (R18, R265): mending slots, slices, choices, starts,
stage maps. -/
structure Build where
  fixed    : List Fixed1 := []
  slices   : List Slice := []
  choices  : List Choice := []
  starts   : List Start := []
  stages   : List StageMap := []
  /-- Lowest 1 ms VIN average from the release of MCP to the build, in mV: what the build during tick 0 takes (R55). -/
  vbMv     : Nat := 12000
  /-- The last 1 ms VIN average, in mV, where a reading is given (Table 3-6). -/
  lastMv   : Option Nat := none
  deriving DecidableEq, Repr

/-- A step that a lead places on a member (R270): its engine there, its offset, its length and when its seam comes in, in ns of the
tick, and its cost entries with charges and work. -/
structure MemberStep where
  eng   : Engine
  start : Nat
  dur   : Nat
  seam  : Nat := 0
  costs : List (Nat × Nat × Nat) := []
  deriving DecidableEq, Repr

/-- A DRAM request at a controller (R403 to R406). -/
structure DramReq where
  id       : Nat
  port     : Nat
  write    : Bool
  line     : Nat
  bank     : Nat
  deadline : Option Nat
  /-- Byte enables of a write, bit i for byte i. -/
  be       : DWord
  at_      : Nat
  run      : Option Nat
  deriving DecidableEq, Repr

/-- Outcome of the error check of one half line (R402). -/
inductive Ecc where
  | clean | corrected | uncorrectable | addrMismatch
  deriving DecidableEq, Repr

/-- A TICK_SET change (R29, R30). -/
structure TickChange where
  source  : Nat
  period  : Nat
  cutoff  : Nat
  hem     : Nat
  effTick : Nat
  deriving DecidableEq, Repr

/-- Payload of a TICK flit (R431). -/
structure TickPay where
  tick   : Nat
  period : Nat
  cutoff : Nat
  hem    : Nat
  master : Nat
  delay  : Nat
  change : Option TickChange
  deriving DecidableEq, Repr

/-- A flit, Table 18-1. A TICK flit's payload bytes have no layout in the manual; `pay` is what they say (R431). -/
structure Flit where
  dest   : Nat
  src    : Nat
  unit   : Nat
  cls    : Nat
  first  : Bool
  last   : Bool
  window : Nat
  epoch  : Nat
  seq    : Nat
  offset : Nat
  data   : List Byte
  pay    : Option TickPay := none
  deriving DecidableEq, Repr

/-- A message as its flits give it: source, unit, window, epoch, write position and bytes (R422, R424). -/
structure Msg where
  id     : Nat
  src    : Nat
  unit   : Nat
  window : Nat
  epoch  : Nat
  offset : Nat
  data   : List Byte
  deriving DecidableEq, Repr

/-- A HELLO message with the delay that the exchanges measured (R426). -/
structure Hello where
  id     : Nat
  strap  : Bool
  count  : Nat
  period : Nat
  cutoff : Nat
  hem    : Nat
  epoch  : Nat
  delay  : Nat
  deriving DecidableEq, Repr

/-- A grant request that a lead sends a member (R278), and a chain-wide activation notice (R467). -/
structure GrantReq where
  id      : Nat
  lead    : Nat
  part    : Nat
  tillers : Nat
  granary : Nat
  dram    : Nat
  deriving DecidableEq, Repr

structure ActNotice where
  id      : Nat
  origin  : Nat
  mask    : Nat
  effTick : Nat
  window  : Nat
  digests : List (Nat × Nat)
  deriving DecidableEq, Repr

/-- Where an SPDM request comes from (R397, R398): the DOE mailbox, MCTP over PCIe, MCTP over SMBus. -/
inductive Bus where
  | doe | vdm | smbus
  deriving DecidableEq, Repr

/-- Replies of Table 18-2's MGMT class that answer a message (R423, R278, R467). -/
inductive Reply where
  | done | roleChanged | granted | refused
  deriving DecidableEq, Repr

/-- Straps as read at the end of a module reset (R479). -/
structure Straps where
  pwrSel     : Nat := 3
  tickMaster : Bool := false
  recovery   : Bool := false
  deriving DecidableEq, Repr

/-- Stores that the SRAM patrol scrub reads (Table 19-2). -/
inductive Store where
  | scratchpad (t : Nat) | granary | internal
  deriving DecidableEq, Repr

/-- One constructor per row of the opcode table. -/
inductive Instr where
  /-- R74: Command that does nothing. -/
  | nop (c : Cmd)
  /-- R91: Later commands of the queue or instance start only after every earlier one has completed. -/
  | fence (c : Cmd)
  /-- R107: Adds an amount to one of the partition's 64-bit event counters. -/
  | signal (c : Cmd)
  /-- R107: Later commands are planned only once an event counter reaches a value. -/
  | wait (c : Cmd)
  /-- R107: No later command of the instance is planned before the sheaf of a given tick. -/
  | tickwait (c : Cmd)
  /-- R105: Jumps to a target command if a comparison of two values holds. -/
  | branch (c : Cmd)
  /-- R106: Runs a body of commands count times, bounded by a planned maximum. -/
  | loop (c : Cmd)
  /-- R106: Pushes a return point and jumps, with depth at most 8. -/
  | call (c : Cmd)
  /-- R104: Pops a return point, or ends the instance at depth 0. -/
  | return (c : Cmd)
  /-- R105: Computes a scalar of the instance from two values. -/
  | sets (c : Cmd)
  /-- R104: Ends the instance. -/
  | halt (c : Cmd)
  /-- R367: Generates one record from a committed source into the emit buffer for the result ring. -/
  | emit (c : Cmd)
  /-- R102: Creates one instance of a program when fetched. -/
  | invoke (c : Cmd)
  /-- R162: Multiplies a streaming operand by stationary weights on the arrays, with optional bias, ReLU and press. -/
  | matmul (c : Cmd)
  /-- R172: Convolution computed as a MATMUL over windows that the mover expands. -/
  | conv2d (c : Cmd)
  /-- R175: Depthwise convolution on the vector units. -/
  | dwconv (c : Cmd)
  /-- R177: Computes one attention head: scores, softmax and PV. -/
  | attend (c : Cmd)
  /-- R179: Mover command that permutes the dimensions of a tensor. -/
  | transpose (c : Cmd)
  /-- R180: Mover command that copies a tensor, or rows of it at an offset. -/
  | copy (c : Cmd)
  /-- R181: Mover command that writes one value to a tensor or to some of its rows. -/
  | fill (c : Cmd)
  /-- R222: Vector element-wise arithmetic, compare, select, bitwise or shift operation. -/
  | vew (c : Cmd)
  /-- R224: Vector reduction along an axis, optionally writing a scalar. -/
  | vred (c : Cmd)
  /-- R228: Winnow: packs active elements or rows and writes their count. -/
  | vwin (c : Cmd)
  /-- R229: Spread: writes packed items back to mapped positions. -/
  | vspread (c : Cmd)
  /-- R223: Computes a special function per element. -/
  | vsfn (c : Cmd)
  /-- R230: Selects the k largest or smallest active elements of each row. -/
  | vtopk (c : Cmd)
  /-- R231: Greedy non-maximum suppression of boxes. -/
  | vnms (c : Cmd)
  /-- R232: Optimal assignment of rows to columns of a cost matrix. -/
  | vassoc (c : Cmd)
  /-- R233: Window or global pooling on the vector units. -/
  | vpool (c : Cmd)
  /-- R234: Layer or RMS normalisation of each row. -/
  | vnorm (c : Cmd)
  /-- R235: Softmax along dimension 0 of each row. -/
  | vsoftmax (c : Cmd)
  /-- R236: Running sum, maximum or minimum along each row. -/
  | vscan (c : Cmd)
  /-- R149: Presses a floating tensor to UINT8 or UINT4 codes, or quantises it with stored scales. -/
  | quant (c : Cmd)
  /-- R154: Converts coded values to floating real values. -/
  | dequant (c : Cmd)
  /-- R154: Requantises UINT codes by a press or with stored scales. -/
  | rescale (c : Cmd)
  /-- R146: Converts between floating, MX and integer types. -/
  | convert (c : Cmd)
  /-- R298: Opens a stream context, reserves its DRAM and gives it a home decoder. -/
  | streamOpen (c : Cmd)
  /-- R300: Appends a bitstream chunk to a context's buffer, and may complete an access unit. -/
  | streamFeed (c : Cmd) (au : AuInfo)
  /-- R311: Discards data up to the next random access point and abandons undecoded instances. -/
  | streamResync (c : Cmd)
  /-- R312: Moves a context to DRAINING, and completes when it is CLOSED. -/
  | streamClose (c : Cmd)
  /-- R317: Scales, colour-converts and normalises a picture rectangle into a tensor. -/
  | shape (c : Cmd)
  /-- R328: Sets or clears the stream's pending region set. -/
  | roiSet (c : Cmd)
  /-- R314: Writes motion vectors and coding statistics of the instance's picture as tensors. -/
  | motionExport (c : Cmd)
  /-- R335: Opens an evidence clip for the binding in a clip context. -/
  | clipBegin (c : Cmd)
  /-- R336: Ends the binding's open clip. -/
  | clipEnd (c : Cmd)
  /-- R346: Puts a sample into a replay cache by reservoir or FIFO policy. -/
  | cachePut (c : Cmd)
  /-- R348: Configures a replay cache, opens a new epoch or destroys the cache. -/
  | epochBegin (c : Cmd)
  /-- R350: Draws a batch of samples from the open epoch in permuted order. -/
  | batchDraw (c : Cmd)
  /-- R352: Updates master weights by SGD or Adam and writes the BF16 copy. -/
  | optimStep (c : Cmd)
  /-- R355: Defines an adapter, commits a candidate, grafts a version or evaluates one. -/
  | graft (c : Cmd)
  /-- R244: Declares a buffer and returns its handle. -/
  | bufDeclare (c : Cmd)
  /-- R247: Releases a buffer, or frees pages of a PAGED copy, at the next boundary. -/
  | bufRelease (c : Cmd)
  /-- R263: Sets a non-binding tier and affinity hint for a buffer or program. -/
  | pinHint (c : Cmd)
  /-- R260: Copies host memory into a buffer and commits a new version. -/
  | hostRead (c : Cmd)
  /-- R260: Copies a buffer to host memory with posted writes. -/
  | hostWrite (c : Cmd)
  /-- R248: Reads a model image and declares and loads its WEIGHT buffers. -/
  | modelLoad (c : Cmd)
  /-- R249: Releases every buffer that MODEL_LOAD declared at the next boundary. -/
  | modelUnload (c : Cmd)
  /-- R98: Loads a program image into the partition, or unloads a program. -/
  | progLoad (c : Cmd)
  /-- R100: Binds a program to a stream context, or ends a binding. -/
  | bind (c : Cmd)
  /-- R276: Creates a partition with the grants of a descriptor. -/
  | partCreate (c : Cmd)
  /-- R281: Drains a partition and releases its grants when it reaches EMPTY. -/
  | partDestroy (c : Cmd)
  /-- R279: Replaces the grants of an existing partition from tick current + 2. -/
  | partLimits (c : Cmd)
  /-- R450: Requests an extra run of a mending activity on a target. -/
  | mendStart (c : Cmd)
  /-- R451: Returns the state and progress of a mending activity. -/
  | mendStatus (c : Cmd)
  /-- R464: Begins, writes, verifies or aborts the staging of a firmware image into a spare slot. -/
  | fwStage (c : Cmd)
  /-- R465: Schedules the switch of images at an effective tick, on this module or chain-wide. -/
  | fwActivate (c : Cmd)
  /-- R468: Confirms healthy images in TRIAL. -/
  | fwConfirm (c : Cmd)
  /-- R474: Writes a signed attestation report or the certificate chain to host memory. -/
  | attest (c : Cmd)
  /-- R122: Resumes or discards a frozen queue or link inbound master. -/
  | thaw (c : Cmd)
  /-- R69: Schedules a new contract, or restores the strap contract, from an effective tick. -/
  | ledgerSet (c : Cmd)
  /-- R29: Schedules a change of tick source, period, cut-off or hem. -/
  | tickSet (c : Cmd)
  /-- R427: Loads or empties the routing table and module ID from tick current + 2. -/
  | chainForm (c : Cmd)
  /-- R412: Enters QUIET with partial-array self-refresh, or leaves QUIET and brings DRAM up again. -/
  | quiet (c : Cmd)
  /-- R84: Write of a submission tail to HIF_DB_SQ. -/
  | doorbellSq (fn slot : Nat) (v : Word)
  /-- R87: Write of a completion head to HIF_DB_CQ, which returns completion slots. -/
  | doorbellCq (fn slot : Nat) (v : Word)
  /-- R362: Write of a result ring read position to HIF_DB_RR, which frees ring space. -/
  | doorbellRr (fn slot : Nat) (v : Word)
  /-- R79: Write of ENABLE = 1, accepted only if the queue configuration is valid. -/
  | queueEnable (fn slot : Nat) (v : Word)
  /-- R82: Write of ENABLE = 0, which stops fetching and starts draining the queue. -/
  | queueDisable (fn slot : Nat) (v : Word)
  /-- R80: Write of PAUSE, which stops or resumes fetching. -/
  | queuePause (fn slot : Nat) (p : Bool)
  /-- R78: Write of IV_EN, which turns MSI-X messages for the queue on or off. -/
  | ivEnWrite (fn slot : Nat) (b : Bool)
  /-- R82: The queue's last completion is written or dropped, and STATE reads DISABLED. -/
  | queueDrained (q : Nat)
  /-- R375: PF write that assigns a queue to a function and its VF queue map slot. -/
  | hifQownWrite (fn slot : Nat) (v : Word)
  /-- R31: Read of the low tick count, which latches the high word. -/
  | tckCountLoRead
  /-- R9: Host write to any register field with no row of its own, under its access code. -/
  | registerWrite (fn bar off size be : Nat) (v : DWord)
  /-- R86: The A16 fetches a pending submission entry once a completion slot is free, reserving the slot. -/
  | commandFetch (q : Nat) (r : ReadEnd)
  /-- R383: A message delayed by the sealed rate limiter is sent once 1 µs has passed. -/
  | msixRateLimitRelease (fn vec : Nat)
  /-- R383: Unmasking a vector with its pending bit set sends one message. -/
  | msixUnmask (fn vec : Nat)
  /-- R40: A tick ends and the next begins: the sealed sheaf takes effect, the counter increments and boundary actions run. -/
  | tickBoundary (m : Boundary)
  /-- R27: A rising TICK_IN edge, taken as the boundary inside its window or ignored if early. -/
  | tickInEdge (t : Nat)
  /-- R27: No edge arrived by the window's end, so the A16 makes the boundary itself. -/
  | tickInWindowExpiry
  /-- R28: After 8 good consecutive edges the A16 re-locks to the edges. -/
  | tickInRelock (t : Nat)
  /-- R32: The cut-off instant fixes the work considered for the next sheaf. -/
  | cutOff (b : Build)
  /-- R35: SBP0 seals the last complete sheaf, or a bare sheaf runs, and the standby plan memories are loaded; the last
  complete pass, 0 where none is. -/
  | sealDeadline (pass : Nat)
  /-- R39: An engine starts a planned step once its slot is open and every item is present, subject to the hem. -/
  | stepStart (run : Nat) (e : Engine) (t : Nat)
  /-- R40: A step ends and commits its outputs, and its command may complete; the run and the engine of the step. -/
  | stepEnd (run : Nat × Engine) (t : Nat) (grains : Nat) (how : StepHow) (fix : Fixed)
  /-- R37: A step still running at the 100 µs step bound is cut and its command abandoned. -/
  | stepCut (run : Nat × Engine)
  /-- R301: A waiting feed starts once decoding has freed enough buffer space. -/
  | streamFeedResume (ctx : Nat)
  /-- R66: The current limit is exceeded, or stays exceeded for 10 µs, and the stall level rises by one; the 1 ms rolling
  average and the largest 10 µs average of the input current, in mA. -/
  | governorRaise (ms1 : Nat := 0) (us10 : Nat := 0)
  /-- R66: After 100 µs below 95 % of the ceiling, the stall level falls by one; the largest 1 ms and 10 µs averages of
  those 100 µs, in mA. -/
  | governorLower (ms1 : Nat := 0) (us10 : Nat := 0)
  /-- R385: A completion for a device read arrives and its data lands. -/
  | hostReadCompletion (fn tag : Nat)
  /-- R386: A device read times out and its command completes with HOST_READ_TIMEOUT. -/
  | completionTimeout (fn tag : Nat)
  /-- R387: A read returns Unsupported Request, Completer Abort or poison, and fails its command. -/
  | hostReadErrorCompletion (fn tag : Nat) (r : ReadEnd)
  /-- R388: A completion for a quarantined tag is discarded and ends the quarantine. -/
  | lateCompletion (fn tag : Nat)
  /-- R388: A quarantined tag is freed twice the timeout after its request. -/
  | quarantineExpiry (fn tag : Nat)
  /-- R389: A function's bus-master enable is cleared, so its requests stop and its queues pause. -/
  | busMasterDisable (fn : Nat)
  /-- R391: Bus-master enable is set again, and held writes and owed messages are sent. -/
  | busMasterEnable (fn : Nat)
  /-- R373: A function enters D3hot and is treated as not bus mastering. -/
  | d3hotEntry (fn : Nat)
  /-- R373: A function returns to D0 without losing internal state. -/
  | d0Return (fn : Nat)
  /-- R393: A VF Function Level Reset stops, drains and resets the VF. -/
  | vfFlr (fn : Nat)
  /-- R393: 50 ms into an FLR, reads still outstanding are treated as timed out. -/
  | flrReadWaitExpiry (fn : Nat)
  /-- R394: A PF Function Level Reset resets every VF, the PF's queues and partitions and the window table. -/
  | pfFlr
  /-- R395: PERST# assertion acts as a PF FLR. -/
  | perstAssert
  /-- R395: A hot reset acts as a PF FLR. -/
  | hotReset
  /-- R395: Loss of the PCIe link acts as a PF FLR. -/
  | pcieLinkDown
  /-- R369: A retrain changes the generation or width, and the planning rate from the next build. -/
  | pcieRetrain (gen width : Nat)
  /-- R397: A data object request arrives at the PF DOE mailbox and is answered within 1 s. -/
  | doeRequest (proto : Nat) (obj : List Byte)
  /-- R397: A DOE Abort discards the object in progress and clears Busy. -/
  | doeAbort
  /-- R397: A DOE Discovery request is answered. -/
  | doeDiscovery (index : Nat)
  /-- R474: SPDM GET_VERSION request. -/
  | getVersion (b : Bus)
  /-- R474: SPDM GET_CAPABILITIES request. -/
  | getCapabilities (b : Bus)
  /-- R474: SPDM NEGOTIATE_ALGORITHMS request. -/
  | negotiateAlgorithms (b : Bus) (asym hash : Nat)
  /-- R474: SPDM GET_DIGESTS request. -/
  | getDigests (b : Bus)
  /-- R474: SPDM GET_CERTIFICATE request for slot 0. -/
  | getCertificate (b : Bus) (slot off len : Nat)
  /-- R474: SPDM CHALLENGE request, signed with the identity key. -/
  | challenge (b : Bus) (slot : Nat) (nonce : List Byte)
  /-- R474: SPDM GET_MEASUREMENTS request, reporting the measurements in force. -/
  | getMeasurements (b : Bus) (index : Nat) (nonce : List Byte)
  /-- R474: KEY_EXCHANGE, PSK or another session message, answered with ERROR UnsupportedRequest. -/
  | spdmSessionRequest (b : Bus) (code : Nat)
  /-- R398: MCTP Set Endpoint ID from the bus owner. -/
  | setEndpointId (b : Bus) (eid : Nat)
  /-- R398: Any other required MCTP control message. -/
  | mctpControl (b : Bus) (code : Nat)
  /-- R488: Vendor-defined message requesting telemetry, answered by SEC from the sensors. -/
  | telemetryRequest (b : Bus) (vinMv iinMa tj tdram : Nat)
  /-- R472: Vendor-defined MCTP message carrying a recovery operation. -/
  | recoveryDownloadMessage (b : Bus) (v : Word) (off : Nat) (data : List Byte)
  /-- R472: SEC_RCV_CMD BEGIN erases a slot for recovery download. -/
  | recoveryBegin (v : Word)
  /-- R472: SEC_RCV_CMD WRITE programs blocks from the data window. -/
  | recoveryWrite (v : Word)
  /-- R472: SEC_RCV_CMD VERIFY verifies the downloaded slot. -/
  | recoveryVerify (v : Word)
  /-- R472: SEC_RCV_CMD COMMIT puts the VALID slot in force. -/
  | recoveryCommit (v : Word)
  /-- R486: SMBus ARP assigns the module's address. -/
  | smbusArp (addr : Nat)
  /-- R487: The bus owner reads the Alert Response Address, which releases ALERT#. -/
  | alertResponse
  /-- R403: A request enters a controller queue, and is forwarded or merged if it hits its line. -/
  | dramRequestEntry (ch : Nat) (r : DramReq)
  /-- R404: An entry's urgency rises as its waiting time passes a threshold. -/
  | dramUrgencyRise (ch id t : Nat)
  /-- R405: A free bank takes its next entry by urgency, deadline and entry order. -/
  | dramBankIssue (ch bank t : Nat)
  /-- R402: Read data returns, checked and corrected by SEC-DED and the address check. -/
  | dramReadReturn (ch id t : Nat) (e0 e1 : Ecc) (where_ : Option ErrAt)
  /-- R408: A 380 ns all-bank refresh window begins on the grid. -/
  | refreshWindowStart
  /-- R408: The refresh window ends and bank commands resume. -/
  | refreshWindowEnd
  /-- R442: Per-tick scrub of scratchpad, granary and internal buffer words. -/
  | sramPatrolScrub (st : Store) (corrected bad : Nat) (where_ : Option ErrAt) (on : List Metered := [])
  /-- R443: Per-tick scrub reads of DRAM lines. -/
  | dramPatrolScrub (ch : Nat) (e : Ecc) (where_ : Option ErrAt) (on : List Metered := [])
  /-- R445: Self-test of one array, which finds row faults. -/
  | arraySelfTest (rows : List Nat) (on : List Metered := [])
  /-- R449: Per-tick CRC check of one flash block, with rewrite or invalidation on failure. -/
  | flashReadVerify (ok : Bool)
  /-- R452: A waiting mending activity starts once the excluding activity has finished. -/
  | deferredActivityStart (code target : Nat)
  /-- R426: A port trains once a partner is present after BOOT. -/
  | portTraining (p : Nat) (present : Bool) (lanes : Nat)
  /-- R426: HELLO message exchange and delay measurement, after which the port is up. -/
  | hello (p : Nat) (h : Hello)
  /-- R417: A flit arrives, has its CRC checked with replay on failure, and is routed, forwarded or delivered; `fec`
  codewords were corrected for it (R416). -/
  | flitReceive (p : Nat) (f : Flit) (crcOk : Bool) (fec : Nat)
  /-- R431: A TICK flit arrives, is forwarded, and locks the follower's boundary. -/
  | tickFlit (p : Nat) (k : TickPay) (t : Nat)
  /-- R424: A SEAM message is checked against its window and epoch and written. -/
  | seamMessage (p : Nat) (m : Msg)
  /-- R424: A BULK replica or migration message is checked and written. -/
  | bulkMessage (p : Nat) (m : Msg)
  /-- R423: A DONE or ROLE_CHANGED reply arrives for a sent message. -/
  | mgmtReply (id : Nat) (r : Reply)
  /-- R278: A member receives a spanned-partition grant request and replies. -/
  | grantRequest (p : Nat) (g : GrantReq)
  /-- R270: A member receives the steps that the lead placed on it. -/
  | memberStepList (p : Nat) (lead part : Nat) (steps : List MemberStep)
  /-- R467: A chain-wide firmware activation notice is received and accepted or refused. -/
  | activateNotice (p : Nat) (n : ActNotice)
  /-- R467: A cancel notice withdraws a chain-wide activation. -/
  | activateCancel (p : Nat) (origin mask : Nat)
  /-- R436: A LINK_DOWN notice makes ring modules reroute at the next sealed sheaf. -/
  | linkDownNotice (p : Nat) (a b : Nat)
  /-- R437: A LINK_UP notice returns affected routes to their primary ports. -/
  | linkUpNotice (p : Nat) (a b : Nat)
  /-- R417: The receiver has lost lock for 1 µs, so the port goes down. -/
  | laneLockLoss (p : Nat)
  /-- R417: A flit is replayed 8 times without a good CRC, so the port goes down. -/
  | replayLimit (p : Nat)
  /-- R417: No control word arrives for 10 µs, so the port goes down. -/
  | controlWordTimeout (p : Nat)
  /-- R423: A message still without a reply at the end of the next tick fails its command with DATA_LOST. -/
  | replyTimeout (id : Nat)
  /-- R278: No member reply within 10 ms fails PART_CREATE with OVER_BUDGET code 11. -/
  | grantTimeout (part : Nat)
  /-- R467: Not every module accepted within 10 ms, so the activation is cancelled. -/
  | activateTimeout
  /-- R433: After 4 boundaries without a TICK flit a new tick master is chosen. -/
  | masterLost
  /-- R469: An image not confirmed by the end of its trial window fails its trial. -/
  | trialWindowExpiry (kind : Nat)
  /-- R470: A control processor traps, causing reload, fall-back or RECOVERY. Processors are numbered as Table 1-2 lists
  them: 0 MCP, 1 SBP0, 2 SBP1, 3 MCC, 4 LKC, 5 SEC. -/
  | processorTrap (cpu : Nat)
  /-- R469: A processor watchdog fires during a trial, failing the image. -/
  | watchdogExpiry (cpu : Nat)
  /-- R480: VIN is applied and rises, so the module powers its rails. -/
  | vinRise (mv : Nat)
  /-- R481: All rails are in regulation and PWRGD is released. -/
  | pwrgdRelease
  /-- R481: VIN below 10.8 V for 20 µs turns off the rails and resets the module. -/
  | undervoltage
  /-- R482: RESET_N held low for 10 µs or longer puts the module in reset. -/
  | resetNAssert (ns : Nat)
  /-- R482: The reset ends at the later of PWRGD release and RESET_N deassertion, and boot starts. -/
  | moduleResetEnd (st : Straps) (dramOk : Bool)
  /-- R461: BOOT ends and READY begins, with the tick counter at 0; the lowest 1 ms VIN average since the release of MCP,
  in mV (R55). -/
  | bootEnd (vbMv : Nat := 12000)
  /-- R410: The sensors are read once per tick. -/
  | temperatureReading (tj tdram : Nat)
  /-- R484: At 115 °C junction the die rails turn off and THERMTRIP# is asserted. -/
  | thermalTrip
  /-- R484: THERMTRIP# is released after VIN has been below 2 V for 100 ms. -/
  | thermtripRelease
  /-- R392: PERST# is deasserted, the link trains and configuration space must answer within 100 ms. -/
  | perstDeassert (gen width : Nat)
  /-- R418: A link control word arrives carrying credits or acknowledgements, so a class held for lack of credit may send again and the 10 µs control-word timer restarts. -/
  | controlWordReceive (p : Nat) (credits : List Nat) (ack : Nat)
  deriving DecidableEq, Repr

end Sys2Proof
end

