-- ==== Sys2Proof/Decode.lean ====
section
/-! DEFINITION. Table words: no row of the opcode table gives its command any bits, so no word spells a command. -/

namespace Sys2Proof

/-- The command that a word spells by the table's bits: none for every word (the table gives bits to no row). -/
def decodeTableWord (_nbits _w : Nat) : Option Instr := none

end Sys2Proof
end

