-- ==== Sys2Proof/Config.lean ====
section
/-! DEFINITION. What an implementation fixes and the manual leaves open: constants without a body, so that no proof
can see what they are. -/

namespace Sys2Proof.Config

/-- Free values (log 8): value `i` of draw `k`; a draw of the state's counter is never used twice. -/
opaque freeNat (k i : Nat) : Nat

/-- Where the significands of a 16-bit float are split in quad mode, by type (R187; log 58). Cut to the widths that leave at most six
bits to each part where used. -/
opaque splitAt (t : Nat) : Nat

/-- Error in ULP of special function value `i` of draw `k` (R223; log 10). Cut to the bound of Table 8-4 where used. -/
opaque ulp (k i : Nat) : Int

/-- Error of a shaping value in 2^-20, for a sample (R323; log 11). Cut to 2^-10 where used. -/
opaque shapeErr (k c x y : Nat) : Int

/-- A decoded sample of a picture: context, decode-order number, plane (0 Y, 1 Cb, 2 Cr), column, row (log 12). -/
opaque sample (ctx pic plane x y : Nat) : Nat

/-- Channel `ch` of a motion export cell before units and saturation: context, picture, tensor (0 MV, 1 statistics),
cell size, column, row (R314; log 12). -/
opaque motion (ctx pic tensor g ch x y : Nat) : Int

/-- Compressed size ratio of the reference blocks a picture wrote, in 1/65,536 (R309; log 12). -/
opaque compressed (ctx pic : Nat) : Nat

/-- Bytes of a clip's bitstream (R333; log 13). -/
opaque clipByte (clip pos : Nat) : Byte

/-- Which of the qualifying assignments VASSOC takes: a preference among columns by cost bits and shape (R232; log 14). -/
opaque assocPick : List Nat → Nat

/-- RSASSA-PSS verification under a key: modulus bytes, message, signature (R458; log 15). -/
opaque sigOk (key msg sig : List Byte) : Bool

/-- The Carbevi firmware key in mask ROM (R458). -/
opaque carbeviKey : List Byte

/-- The identity signature over a message (R473, R474). -/
opaque idSign : List Byte → List Byte

/-- The certificate chain in the boot region (R473). -/
opaque certChain : List Byte

/-- Measurement 1, the mask ROM (Table 20-9). -/
opaque romDigest : List Byte

/-- Digest of the manifest and body of an image as supplied, by kind (Table 20-9; log 7). -/
opaque factoryDigest : Nat → List Byte

/-- Manifest block of an image as supplied, by kind (log 7). -/
opaque factoryManifest : Nat → List Byte

/-- The guard record of Table 20-9 from straps, contract ceiling, minimum SVNs and owner slots. -/
opaque guardRecord (straps ceiling : Nat) (svns owners : List Nat) : List Byte

/-- Module serial number, from fuses (Table 16-5). -/
opaque serial : DWord

/-- FIXED and PER_UNIT of each cost entry in the LEDGERTAB image of a number, by entry (R61, R64; log 4). -/
opaque costFixed (img entry : Nat) : Nat
opaque costUnit (img entry : Nat) : Nat

/-- Start floor of a LEDGERTAB image for a contract in watts (R57; log 4). -/
opaque startFloor (img watts : Nat) : Nat


/-- Which PASR segment a 2 MB segment of a partition's DRAM lies in (R413; log 16), by partition and number of the segment. -/
opaque segments (part unit : Nat) : Nat

/-- Reply bytes of a message whose content an external standard fixes (R397, R398, R474; log 17). -/
opaque spdmBytes (code : Nat) (req : List Nat) : List Byte
opaque mctpBytes (code : Nat) (req : List Nat) : List Byte

end Sys2Proof.Config
end

