-- ==== Sys2Proof/Machine/State.lean ====
section
/-! DEFINITION. The state of the block, plain data: everything the manual gives the A16 (INVENTORY.md lists it with
its rules), the queue of commands that wait, and the machine right after a module reset. -/

namespace Sys2Proof.Machine

/-- The block never stops: every error the manual names is a status, a counter, a frozen master or a module state. So
no meaning raises a fault, and the type has no constructor. Safe: nothing is hidden behind a stop. -/
inductive Fault where
  deriving DecidableEq, Repr

/-- Raised only by an arm of the dispatcher that has no meaning yet; safe, since it claims nothing. -/
inductive Refusal where
  /-- Not modelled yet, by its mnemonic (raised by the dispatcher alone; safe). -/
  | notModelled (mnemonic : String)
  deriving DecidableEq, Repr

/-- A sparse table in one canonical form: keys strictly rising, no entry equal to the default it is read with. -/
abbrev Tab (α : Type) := List (Nat × α)

/-- A byte-addressed memory: a list of cells, an unlisted address reading as 0 (log 2, log 6). -/
abbrev Memory := List Host.Cell

/-- Statuses of Table 4-16. -/
inductive Status where
  | ok | zeroShape | late | empty | malformed | state | shapeExceedsPlan | scaleMisaligned | dependency | dataLost
  | hostReadTimeout | streamDamaged | abandoned | roleChanged | deferred | overBudget | noSpace | authFailed | violation
  deriving DecidableEq, Repr

/-- Module states, Table 4-17. -/
inductive MState where
  | off | boot | recovery | ready | serving | quiet
  deriving DecidableEq, Repr

/-- Partition states, Table 4-18. -/
inductive PState where
  | empty | loading | resident | active | draining
  deriving DecidableEq, Repr

/-- Stream context states, Table 11-1. -/
inductive CState where
  | closed | opened | running | stopped | draining
  deriving DecidableEq, Repr

/-- Queue states, Table 4-3. -/
inductive QState where
  | disabled | enabled | paused | frozen
  deriving DecidableEq, Repr

/-- A tensor or declaration descriptor, Table 4-11. `dims` and `maxima` have five entries. -/
structure Desc where
  handle     : Nat := 0
  dtype      : Nat := 0
  rank       : Nat := 0
  transposed : Bool := false
  dynamic    : Bool := false
  scope      : Nat := 0
  dims       : List Nat := [0, 0, 0, 0, 0]
  maxima     : List Nat := [0, 0, 0, 0, 0]
  group      : Nat := 0
  scaleH     : Nat := 0
  rowH       : Nat := 0
  deriving DecidableEq, Repr

/-- A command of a ring, fetched and not started: its place in the ring order, opcode and fields. -/
structure Fetched where
  n   : Nat
  op  : Nat
  cmd : Cmd
  deriving DecidableEq, Repr

/-- A queue: its configuration entry (Tables 4-2 to 4-7), doorbell values, counters and fetched commands. -/
structure Queue where
  state     : QState := .disabled
  draining  : Bool := false
  cfgErr    : Bool := false
  part      : Nat := 0x1F
  ivEn      : Bool := false
  pause     : Bool := false
  enable    : Bool := false
  vector    : Nat := 0
  rrLog     : Nat := 0xF
  cqLog     : Nat := 0
  sqLog     : Nat := 0
  sqBase    : Nat := 0
  cqBase    : Nat := 0
  rrBase    : Nat := 0
  sqHead    : Nat := 0
  sqTail    : Nat := 0
  cqHead    : Nat := 0
  cqTail    : Nat := 0
  phase     : Bool := true
  cplDrop   : Nat := 0
  dbIgnored : Nat := 0
  func      : Nat := 0
  seq       : Nat := 0
  reserved  : Nat := 0
  /-- Completion slots written and not returned, result units written and not returned. -/
  occ       : Nat := 0
  rrUsed    : Nat := 0
  rrHead    : Nat := 0
  rrTail    : Nat := 0
  rseq      : Nat := 0
  fetched   : List Fetched := []
  /-- Commands that have taken effect and complete later: place in the ring order, opcode, tag. -/
  waiting   : List (Nat × Nat × Nat) := []
  nextN     : Nat := 0
  /-- Commands with a place below this one belong to an earlier enabling. -/
  base      : Nat := 0
  /-- A fetch has failed and is made again in the sheaf of the next boundary (R387). -/
  refetch   : Bool := false
  /-- The partition reached EMPTY while the queue was frozen (R122). -/
  partGone  : Bool := false
  deriving DecidableEq, Repr

/-- A host window entry, Table 16-8. `base` and `last` are byte addresses of 4 KB pages. -/
structure Window where
  base  : Nat := 0
  last  : Nat := 0
  valid : Bool := false
  read  : Bool := false
  write : Bool := false
  func  : Nat := 0
  deriving DecidableEq, Repr

/-- PCIe configuration of one function that the rules read (R370 to R391). -/
structure Fn where
  bme     : Bool := false
  mse     : Bool := false
  d3      : Bool := false
  /-- It has been in D3hot, and R391 has not applied since (R373). -/
  woken   : Bool := false
  msixEn  : Bool := false
  fnMask  : Bool := false
  tagBits : Nat := 8
  cto     : Nat := 0
  mps     : Nat := 128
  mrrs    : Nat := 512
  nextTag : Nat := 0
  flr     : Bool := false
  deriving DecidableEq, Repr

/-- One MSI-X vector of a function (R383, R389): its table entry, pending bit, the 1 µs hold of the sealed rate
limiter with a message it delays, the owed flag, and the number of messages sent. -/
structure Vec where
  addr    : Nat := 0
  data    : Nat := 0
  masked  : Bool := true
  pending : Bool := false
  hold    : Bool := false
  delayed : Bool := false
  owed    : Bool := false
  sent    : Nat := 0
  deriving DecidableEq, Repr

/-- A device read outstanding, or its tag in quarantine (R385 to R388). -/
structure Rd where
  fn         : Nat
  tag        : Nat
  run        : Nat
  quarantine : Bool := false
  /-- After a poisoned completion that was not the last: later ones do not count in LATE. -/
  poisoned   : Bool := false
  deriving DecidableEq, Repr

/-- A posted write held in the emit buffer (R390): its function and the queue that is its master, host address, bytes, and
the queue whose completion entry it is. -/
structure Held where
  fn   : Nat
  queue : Nat
  addr : Nat
  data : List Byte
  cpl  : Option Nat := none
  deriving DecidableEq, Repr

/-- Host memory as the A16 sees it, and the globals of the host interface (Tables 16-5 to 16-8). -/
structure HostIf where
  mem      : Memory := []
  windows  : Tab Window := []
  fns      : Tab Fn := []
  vecs     : Tab Vec := []
  vqmap    : Tab Nat := []
  intake   : Nat := 8
  errCause : Nat := 0
  errVec   : Nat := 0
  frzCount : Nat := 0
  frzLost  : Nat := 0
  frzLog   : Tab (List Byte) := []
  late     : Nat := 0
  poisoned : Nat := 0
  ca       : Nat := 0
  ur       : Nat := 0
  timeouts : Nat := 0
  reads    : List Rd := []
  held     : List Held := []
  chaff    : Nat := 0
  linkUp   : Bool := false
  gen      : Nat := 0
  width    : Nat := 0
  perst    : Bool := true
  vfEnable : Bool := false
  aer      : Nat := 0
  deriving DecidableEq, Repr

/-- Grants of a partition, Table 10-1 and Table 10-2. -/
structure Grants where
  tillers   : Nat := 0
  pfCopy    : Bool := false
  healthQ   : Nat := 0xFFFF
  resMw     : Nat := 0
  granary   : Nat := 0
  dram      : Nat := 0
  decode    : Nat := 0
  shaping   : Nat := 0
  clip      : Nat := 0
  dramShare : Nat := 0
  link      : Nat := 0
  hostDma   : Nat := 0
  glMw      : Nat := 0
  /-- Member entries: module ID, tillers, granary quota, DRAM quota. -/
  members   : List (Nat × Nat × Nat × Nat) := []
  deriving DecidableEq, Repr

/-- A sample slot of a replay cache (R345). -/
structure Slot where
  idx     : Nat
  codes   : Memory
  scales  : Memory
  label   : Memory
  ctx     : Nat
  dnum    : Nat
  tick    : Nat
  put     : Nat
  pseudo  : Bool
  labelled : Bool
  damaged : Bool
  /-- The slot's CRC-32C check fails (R351). -/
  bad     : Bool
  inst    : Nat
  /-- Slot that a pending put is to take at the close (R346). -/
  target  : Nat
  deriving DecidableEq, Repr

/-- A replay cache (Table 14-2, R344 to R351). -/
structure Cache where
  used      : Bool := false
  dtype     : Nat := 1
  rank      : Nat := 1
  labelB    : Nat := 0
  dims      : List Nat := []
  cap       : Nat := 0
  fifo      : Bool := false
  resultQ   : Nat := 0xFFFF
  seed      : Nat := 0
  t         : Nat := 0
  slots     : List Slot := []
  pend      : List Slot := []
  segs      : List Nat := []
  isOpen    : Bool := false
  epoch     : Nat := 0
  nextEpoch : Nat := 0
  n         : Nat := 0
  cursor    : Nat := 0
  drawn     : Nat := 0
  valid     : Nat := 0
  corrupt   : Nat := 0
  damaged   : Nat := 0
  pendLost  : Nat := 0
  discarded : Nat := 0
  deriving DecidableEq, Repr

/-- A swap of views that waits for its boundary (R358). -/
structure Swap where
  version : Nat
  byEval  : Option Nat
  op      : Nat
  src     : Src
  cmd     : Cmd
  deriving DecidableEq, Repr

/-- An adapter (R355 to R358): entries are the handles of the staged copy and of the three views in their present
roles. -/
structure Adapter where
  used       : Bool := false
  up         : Bool := false
  tau        : Nat := 0
  resultQ    : Nat := 0xFFFF
  entries    : List (Nat × Nat × Nat × Nat) := []
  /-- The handles by which the roles are named: those of the definition. -/
  names      : List (Nat × Nat × Nat × Nat) := []
  live       : Nat := 0
  cand       : Option Nat := none
  prev       : Option Nat := none
  top        : Nat := 0
  liveMetric : Option Nat := none
  candMetric : Option Nat := none
  prevMetric : Option Nat := none
  swap       : Option Swap := none
  deriving DecidableEq, Repr

/-- A PART_LIMITS not yet completed (R280, R499): its grants, the tick of its changes, tillers reserved for it and
tillers that leave, members whose grant it still waits for, and whether its changes are in effect. -/
structure PendLimits where
  grants  : Grants
  effTick : Nat
  /-- The PART_LIMITS to complete; none on a member, whose lead has it. -/
  cmd     : Option Cmd
  tillers : List Nat
  leaving : List Nat := []
  members : List Nat := []
  applied : Bool := false
  deriving DecidableEq, Repr

/-- Counters of PARTITION_HEALTH (Table 10-5). The first block describes the tick, the second counts since
PART_CREATE. -/
structure Health where
  limit      : Nat := 0
  /-- Scaling factor of R60 in 1/1,024. -/
  factor     : Nat := 1024
  resGrains  : Nat := 0
  lcPlanned  : Nat := 0
  lcMeasured : Nat := 0
  glPlanned  : Nat := 0
  glMeasured : Nat := 0
  throttled  : Nat := 0
  admitted   : Nat := 0
  carried    : Nat := 0
  refused    : Nat := 0
  late       : Nat := 0
  abandoned  : Nat := 0
  moves      : Nat := 0
  glSteps    : Nat := 0
  /-- T_meas and T_solo per engine class (R292). -/
  tMeas      : Tab Nat := []
  tSolo      : Tab Nat := []
  flat       : Nat := 0
  nonfinite  : Nat := 0
  scaleClamp : Nat := 0
  sat        : Nat := 0
  zeroVar    : Nat := 0
  skipped    : Nat := 0
  /-- A seam to another module has come late in the tick (Table 9-8). -/
  seamLate   : Bool := false
  deriving DecidableEq, Repr

/-- A partition (chapters 4 and 10). -/
structure Part where
  state    : PState := .empty
  owner    : Nat := 0
  grants   : Grants := {}
  tillers  : List Nat := []
  events   : Tab DWord := []
  nextBuf  : Nat := 1
  health   : Health := {}
  /-- What the build for the next sheaf reports. -/
  hNext    : Health := {}
  pend     : Option PendLimits := none
  /-- PART_CREATE waiting for its members (R278): command, member indices that have not granted yet. -/
  creating : Option (Cmd × List Nat) := none
  /-- The partition is a member's share of one that another module leads: lead and its partition number (R278). -/
  lead     : Option (Nat × Nat) := none
  /-- PART_DESTROY waiting for EMPTY (R281). -/
  destroying : Option Cmd := none
  modelRun : Bool := false
  unloading : Option Cmd := none
  caches   : Tab Cache := []
  adapters : Tab Adapter := []
  /-- Slice debts in ns by engine index of Table 10-5 (R47, R291). -/
  debts    : Tab Nat := []
  /-- Stage maps in force (R251), and when a stage last moved: program, stage, tick (R267). -/
  stages   : List StageMap := []
  stageMoved : List (Nat × Nat × Nat) := []
  /-- Ticks in a row with a tensor slow-down above 1.20; in which the 10 µs limit of R58 delayed steps of a tiller; in which a
  seam to another module came late (Table 9-8). -/
  slowRun  : Nat := 0
  hotRun   : Tab Nat := []
  seamRun  : Nat := 0
  /-- Array-ac of the stages of programs over those ticks with a slow-down: program, stage, ac (Table 9-8). -/
  stageAc  : List (Nat × Nat × Nat) := []
  deriving DecidableEq, Repr

/-- A declared buffer (R242 to R247). -/
structure Buffer where
  part      : Nat
  num       : Nat
  kind      : Nat
  page      : Nat
  desc      : Desc
  releasing : Bool := false
  model     : Bool := false
  tier      : Nat := 0
  group     : Nat := 0
  /-- OPTIM_STEP's step count of a master buffer (R352). -/
  steps     : Nat := 0
  deriving DecidableEq, Repr

/-- Which copy of a buffer (R110). -/
inductive CopyKey where
  | shared | binding (b : Nat) | inst (i : Nat)
  deriving DecidableEq, Repr

/-- Where a copy lies (R240): nowhere yet, from a line of a tiller's scratchpad, from a line of the granary, from a byte of the
partition's DRAM. -/
inductive Place where
  | nowhere | scratch (tiller line : Nat) | granary (line : Nat) | dram (addr : Nat)
  deriving DecidableEq, Repr

/-- One copy of a buffer: commit version, contents, 8-byte words in error or lost (R413, R440, R448), pages
allocated (R257). A per-binding copy also keeps what the instances of its binding have committed, newest first, by the
decode-order number of the picture: contents and lost words, for PREV (R112). -/
structure Copy where
  part    : Nat
  buf     : Nat
  key     : CopyKey
  version : Nat := 0
  data    : Memory := []
  lost    : List Nat := []
  pages   : List Nat := []
  log     : List (Nat × Memory × List Nat) := []
  /-- Pages that leave the copy at the next boundary (R247). -/
  freeing : List Nat := []
  place   : Place := .nowhere
  /-- Where its bytes are reserved in the partition's DRAM: the resting place of a shared or per-binding copy, and of the pages of
  a PAGED one (R245, R257). -/
  home    : Option Nat := none
  pageAt  : List (Nat × Nat) := []
  /-- The tiller that ran its producer (R252). -/
  maker   : Option Nat := none
  /-- The tick at whose boundary its last migration was decided (R267). -/
  movedAt : Option Nat := none
  deriving DecidableEq, Repr

/-- A migration under way (R267): the copy, its new place, the tiller whose mover carries it, the bytes still to move. -/
structure Moving where
  num    : Nat
  part   : Nat
  buf    : Nat
  key    : CopyKey
  to_    : Place
  tiller : Nat
  left   : Nat
  deriving DecidableEq, Repr

/-- A loaded program (Table 4-14). -/
structure Program where
  part   : Nat
  num    : Nat
  lc     : Bool
  allow  : Nat
  glw    : Nat
  entry  : Nat
  cmds   : List (Nat × Cmd)
  descs  : List Desc
  group  : Nat := 0
  deriving DecidableEq, Repr

/-- A binding (R100). -/
structure Binding where
  num    : Nat
  part   : Nat
  prog   : Nat
  ctx    : Nat
  allow  : Nat
  tag    : Word
  param  : Word
  queue  : Nat
  ending : Bool := false
  /-- The instance made last: that of the preceding frame for the next one (R112). -/
  last   : Option Nat := none
  deriving DecidableEq, Repr

/-- A stationary block: partition, buffer, copy, descriptor and version of the operand it comes from and version of its sparsity metadata,
its first column and reduction position, positions in a block, columns in it; the product that alone uses it where the operand is not
a committed version that others may share (R168, R191, R192). -/
structure Block where
  part : Nat
  buf  : Nat
  key  : CopyKey := .shared
  desc : Desc
  ver  : Nat
  mver : Option Nat := none
  own  : Option (Work × Nat) := none
  col  : Nat := 0
  pos  : Nat := 0
  kb   : Nat := 0
  side : Nat := 0
  deriving DecidableEq, Repr

/-- The stationary operand of a product: what its blocks are named after, bits of an element, whether they come from DRAM (R254). -/
structure Stat where
  blk  : Block
  bits : Nat
  dram : Bool
  deriving DecidableEq, Repr

/-- Geometry word, Table 6-5. -/
structure Geom where
  kh : Nat
  kw : Nat
  sy : Nat
  sx : Nat
  dy : Nat
  dx : Nat
  pt : Nat
  pl : Nat
  deriving DecidableEq, Repr

/-- Windows of a convolution as its rows read them (R172, R204): the geometry, the width, height, channels and bits of an element of X,
the channels of the reduction, the width of the output. -/
structure Expand where
  geom : Geom
  w    : Nat
  h    : Nat
  ch   : Nat
  bits : Nat
  cp   : Nat
  wo   : Nat
  deriving DecidableEq, Repr

/-- One product that the tile sequencer cuts (R200): the variant of its array mode (R493), rows, columns and reduction
positions, whether a rule forces quarter mode (R199), bytes of a whole stationary block with its position indices (R191),
positions between fold points where they follow groups, 0 where they follow blocks (R142). -/
structure Product where
  variant : Nat
  sparse  : Bool := false
  m       : Nat
  n       : Nat
  k       : Nat
  forced  : Bool := false
  block   : Nat := 1024
  fold    : Nat := 0
  /-- The windows that the mover expands (R204). -/
  window  : Option Expand := none
  stat    : Option Stat := none
  /-- Valid rows where they do not follow one another: first row and count (R168, R203). -/
  spans   : List (Nat × Nat) := []
  deriving DecidableEq, Repr

/-- The time of a vector command (Table 8-6, R158): for `rows` rows, or kept boxes, or search rows, `w` passes of the lanes over
`d0` elements of each, `per` ac each, `num` ac for every `den` of the `grp` groups of each row, and `head` ac; `tail` more on the
unit that combines. A command that rows do not divide runs on one unit (R238). -/
structure VecTime where
  entry : Nat
  split : Bool := true
  rows  : Nat
  w     : Nat := 0
  d0    : Nat := 0
  lanes : Nat := 256
  per   : Nat := 0
  num   : Nat := 0
  den   : Nat := 1
  grp   : Nat := 1
  head  : Nat := 0
  tail  : Nat := 0
  deriving DecidableEq, Repr

/-- A stage of the work of a command, whose steps start when those of the stage before have ended: products on the arrays,
vector work, mover transfers of so many bytes per ac with a fixed number of ac for each step (R182), or steps of equal length on
an engine of a class of Table 10-4 with the bytes that they move on a path of Table 10-3. -/
inductive Piece where
  | arrays (x : Product)
  | vector (x : VecTime)
  | move (bytes per extra : Nat) (costs : List (Nat × Nat))
  /-- The same transfers into every tiller of the command. -/
  | each (bytes per extra : Nat) (costs : List (Nat × Nat))
  | even (cls n ns solo : Nat) (costs : List (Nat × Nat)) (paths : List (Nat × Nat))
  deriving DecidableEq, Repr

/-- What a step covers. On the arrays (R198, R203): strip rows, the N-block's first column, the first reduction position and the
number of K-blocks, positions of a block. On a vector unit: rows, the first row of the unit, which of `len` parts of one row, and the
blocks of L elements of that row as planned (R238, R496). On a mover: bytes. In even steps: which step. -/
structure Tile where
  row  : Nat
  rows : Nat
  col  : Nat
  pos  : Nat
  len  : Nat
  kb   : Nat
  /-- Valid columns of the N-block and valid reduction positions of the segment: with `rows` the masks of an array step (R198). -/
  cols : Nat := 0
  ks   : Nat := 0
  deriving DecidableEq, Repr

/-- A step as the builder plans it: its place among the steps of its work, the engine, the duration in ns, what it would take
alone (R292), cost entries with charges and work (R61), the stage of the work that it belongs to, the ns that must lie between it
and what it follows (R195, R214), the step that it follows within its stage (R195), and the bytes that it moves by path (R290). -/
structure PStep where
  id    : Nat := 0
  eng   : Engine
  dur   : Nat
  solo  : Nat
  costs : List (Nat × Nat × Nat) := []
  stage : Nat := 0
  gap   : Nat := 0
  prev  : Option Nat := none
  tile  : Option Tile := none
  paths : List (Nat × Nat) := []
  /-- Bytes of a block in the registers and the operand that its blocks come from, for a step on the arrays (R191). -/
  block : Nat := 0
  stat  : Option Stat := none
  /-- 64-byte lines that it leaves in its scratchpad for a later step: parked rows, partial results of a row (R195, R496). -/
  park  : Nat := 0
  /-- When each array of the chain is taken, from the start of the step, and for how long, in ns (R189, R194). -/
  holds : List (Nat × Nat) := []
  /-- Block loads: the array of the chain, the ac of the tick, bytes per ac on the granary port (R497). -/
  loads : List (Nat × Nat × Nat) := []
  /-- DRAM reads of its blocks, which must have ended before its loads (R193, R254). -/
  needs : List (Work × Nat) := []
  /-- Crossbar slots, and scratchpad accesses: tiller, ac from its start, line (R18, R184). -/
  xbar  : List Nat := []
  banks : List (Nat × Nat × Nat) := []
  deriving DecidableEq, Repr

/-- A step that runs: its start in ns from the start of the current tick, how far behind its planned start it is (R292), its
planned cost by entry, in 2^-24 grain, at the coefficients of its build (R63), and whether it has met a governor stall (R68). -/
structure Active where
  eng     : Engine
  step    : PStep
  start   : Int
  late    : Nat := 0
  plan    : List (Nat × Nat) := []
  stalled : Bool := false
  /-- The end of the slice in which it runs (R46), in ns from the start of the current tick. -/
  due     : Option Int := none
  deriving DecidableEq, Repr

/-- A step in a sheaf (R18, R32): its work, planned start, partition and class, the pass that admitted it, its planned cost in
2^-24 grain, the deadline of its DRAM reads, its slice. -/
structure PSlot where
  work     : Work
  step     : PStep
  start    : Nat
  part     : Nat
  lc       : Bool
  pass     : Nat
  cost     : Nat
  deadline : Option Nat := none
  slice    : Option Nat := none
  /-- What the refresh grid adds to the average time of its DRAM leg, in ns, or takes off it (R409). -/
  leg      : Int := 0
  deriving DecidableEq, Repr

/-- A slice of the sheaf and where it lies after overruns and debits (R46, R47). -/
structure Open where
  plan  : Slice
  start : Nat
  len   : Nat
  deriving DecidableEq, Repr

/-- A block in a partition's weight staging area (R241, R254): bytes, from when and till when in ns of the tick, the step that reads it
from DRAM and that step's end. -/
structure Staged where
  part  : Nat
  blk   : Block
  bytes : Nat
  from_ : Nat
  till  : Nat
  read  : Work × Nat
  stop  : Nat
  deriving DecidableEq, Repr

/-- Room on chip: that of a copy, or what a work takes besides the copies of buffers, for transposed copies, copies for further tillers,
parked rows, pages of K and V (R166, R192, R195, R259, R496); from when and till when, in ns of the tick, or to its end and on. -/
structure Temp where
  part  : Nat
  place : Place
  bytes : Nat
  work  : Option Work := none
  step  : Option Nat := none
  from_ : Nat := 0
  till  : Option Nat := none
  deriving DecidableEq, Repr

/-- The plan of a tick (R18, R34): slots and slices; the works and instances that a pass admits, a work with what the builder
has chosen for it and its steps; instances that pass 3 refuses, with the code of Table 10-5's LIMIT (R43); debts taken from first slices (R47): partition, engine, ns. -/
structure Sheaf where
  fixed   : List Fixed1 := []
  slots   : List PSlot := []
  slices  : List Open := []
  works   : List (Work × Nat × Choice × List PStep) := []
  insts   : List (Nat × Nat) := []
  refused : List (Nat × Nat) := []
  paid    : List (Nat × Nat × Nat) := []
  /-- Weight-sharing runs: their members in admission order with the rows of each (R168). -/
  shares  : List (List (Work × Nat)) := []
  /-- Blocks in the weight staging areas (R254). -/
  staged  : List Staged := []
  /-- Room that steps take besides the copies of buffers. -/
  temps   : List Temp := []
  /-- Places that copies get with the sheaf (R253), and where seams and migrations take theirs (R255, R267): partition, buffer,
  copy, place. -/
  places  : List (Nat × Nat × CopyKey × Place) := []
  carries : List (Work × List (Nat × Nat × CopyKey × Place)) := []
  stages  : List StageMap := []
  /-- Tillers a step of which the 10 µs limit has delayed (R58, R266). -/
  hot     : List Nat := []
  /-- Tillers that lack lines for an instance that pass 3 refuses (R285). -/
  short   : List (Nat × Nat) := []
  deriving DecidableEq, Repr

/-- A command of an instance that the builder has reached and that has not started: its place in the order of the instance, its
index in the program, the scalars as they stand at that place, those of them that a command before it is still to write, with
that command's place, and those whose writer ended without committing (R105, R113, R218). -/
structure Todo where
  seq     : Nat
  idx     : Nat
  scalars : Tab DWord
  owed    : List (Nat × Nat) := []
  bad     : List Nat := []
  /-- The WAIT behind which it stands (R107). -/
  behind  : Option Nat := none
  /-- The sheaf in force plans it, with what the builder has chosen for it. -/
  inSheaf : Bool := false
  choice  : Option Choice := none
  plan    : List PStep := []
  deriving DecidableEq, Repr

/-- A program instance (R101 to R107, R41 to R45). `pc`, `scalars`, `owed`, `badBufs` and `badScal` are those at the first
command that the builder has not passed yet: a control command whose row evaluates it (R105). -/
structure Inst where
  id       : Nat
  part     : Nat
  prog     : Nat
  queue    : Nat
  binding  : Option Nat
  pic      : Option (Nat × Nat)
  tag      : Word
  lc       : Bool
  allow    : Nat
  glw      : Nat
  scalars  : Tab DWord
  pc       : Nat
  calls    : List Nat := []
  /-- Open loops: first body index, last body index, runs left. -/
  loops    : List (Nat × Nat × Nat) := []
  /-- Place of the next command in the order of the instance; commands reached and not started; the WAIT passed last. -/
  seq      : Nat := 0
  todo     : List Todo := []
  behind   : Option Nat := none
  owed     : List (Nat × Nat) := []
  /-- A command of it has started. -/
  begun    : Bool := false
  /-- The instance of the preceding frame of its binding (R112). -/
  prevInst : Option Nat := none
  home     : Option Nat := none
  refused  : Nat := 0
  waited   : Nat := 0
  /-- Buffers whose last producer did not commit (R113), and scalars likewise (R218). -/
  badBufs  : List Nat := []
  badScal  : List Nat := []
  /-- First failed command in program order: index, opcode, status, detail (R104). -/
  failed   : Option (Nat × Nat × Status × Nat) := none
  halted   : Bool := false
  tickWait : Option Nat := none
  planned  : Nat := 0
  measured : Nat := 0
  /-- Views of adapters resolved for the home tick (R358): handle named, handle read. -/
  views    : List (Nat × Nat) := []
  /-- A sealed sheaf has admitted it. -/
  admitted : Bool := false
  /-- The INVOKE asks for a completion (R92); its place in the ring. -/
  want     : Bool := true
  ringN    : Nat := 0
  /-- The INVOKE has flag bit 0 set: it follows the command before it in the ring (R91). -/
  chained  : Bool := false
  /-- The tick in which a step of it ended last (R96). -/
  lastEnd  : Option Nat := none
  deriving DecidableEq, Repr

/-- An output of a command, not yet committed: the copy, its new contents, the scale entry of it that changed. -/
structure Out where
  part : Nat
  buf  : Nat
  key  : CopyKey
  data : Memory
  /-- Every byte of the copy is written, so lost words are repaired; otherwise the words that are (R440). -/
  whole : Bool := false
  words : List Nat := []
  pages : List Nat := []
  /-- What a HOST_READ writes, from a byte of the copy (R260). -/
  patch : Option (Nat × List Byte) := none
  deriving DecidableEq, Repr

/-- What the commit of a command does besides its buffers. -/
inductive Post where
  | none
  /-- STREAM_FEED: bytes appended, and the access unit that AU_END completes (R300, R301). -/
  | feed (ctx len : Nat) (auEnd : Bool) (au : AuInfo)
  /-- EMIT: the record it generates (R367) with S0 as it stands at the command, and latent data with its host address. -/
  | record (rtype flags s0 : Nat) (payload : List Byte) (latent : Option (Nat × List Byte))
  /-- HOST_WRITE: bytes to a host address (R260). -/
  | hostWrite (addr : Nat) (data : List Byte)
  /-- MODEL_LOAD: the partition becomes RESIDENT (R248). -/
  | modelLoad (part : Nat)
  /-- ROI_SET: the pending set (R328). -/
  | regions (ctx dnum binding : Nat) (rs : List (Int × Int × Int × Int))
  | decode (ctx pic : Nat)
  | clip (binding pic : Nat)
  /-- A weight-sharing run: its members, each with its rows (R168). -/
  | share (members : List (Work × Nat))
  /-- A seam or a migration, with the copies that it takes to their places (R255, R267); a step that a lead has placed here (R270). -/
  | carry (work : Work) (l : List (Nat × Nat × CopyKey × Place))
  /-- CACHE_PUT: the sample, whose target slot is chosen when it commits (R346). -/
  | put (cache : Nat) (slot : Slot)
  /-- OPTIM_STEP: the master's step count (R352), or a skipped step. -/
  | optim (buf steps : Nat) (skipped : Bool)
  /-- GRAFT COMMIT: the candidate version (R355). -/
  | commitView (adapter version : Nat)
  deriving DecidableEq, Repr

/-- A command, decode or clip step sequence in flight: outputs are committed when its last step ends (R40). -/
structure Run where
  id       : Nat := 0
  src      : Src := .ring 0
  op       : Nat := 0
  cmd      : Cmd := { src := .ring 0 }
  queue    : Nat := 0
  part     : Nat := 0
  /-- Its command's place in the order of its queue or instance. -/
  n        : Nat := 0
  lc       : Bool := false
  status   : Status := .ok
  detail   : Nat := 0
  outs     : List Out := []
  scalar   : Option (Nat × DWord) := none
  post     : Post := .none
  counts   : Health := {}
  /-- Buffers read, for DATA_LOST and R111. -/
  ins      : List Nat := []
  /-- Stages of its work as resolved; cost entries of what no engine does in a step, with charges and work (R61). -/
  pieces   : List Piece := []
  costs    : List (Nat × Nat × Nat) := []
  /-- Steps left, steps that run, the ends of steps whose parked rows another takes and of the last stage, in ns from the start
  of the current tick. -/
  steps    : List PStep := []
  active   : List Active := []
  ends     : List (Nat × Int) := []
  stageEnd : Int := 0
  /-- It waits for a boundary; it has ended and a step of it still runs (R40). -/
  waits    : Bool := false
  dead     : Bool := false
  /-- A run of which it is a member, which does its products (R168). -/
  share    : Option Nat := none
  /-- Bytes of its host range. -/
  bytes    : Nat := 0
  /-- Planned cost in 2^-24 grain and measured grains (R61, R62). -/
  planned  : Nat := 0
  measured : Nat := 0
  /-- Memory read requests outstanding, and bytes of its host range for which requests have gone out (R372, R385). -/
  reads    : Nat := 0
  readPos  : Nat := 0
  /-- A sealed sheaf has planned steps of it (R34); a step of it has started. -/
  admitted : Bool := false
  begun    : Bool := false
  /-- Its place in its instance, and the versions of the copies that it has read: what another queue commits before its first step
  starts is read instead (R111). -/
  todo     : Option Todo := none
  seen     : List (Nat × CopyKey × Nat) := []
  /-- The tick in which it was prepared: a SHAPE of a region set reads the set of the tick of its first step (R330). -/
  readAt   : Nat := 0
  /-- Builds since a step of it was last admitted, of a gleaning command of a ring (R286, R343). -/
  waited   : Nat := 0
  deriving DecidableEq, Repr

/-- A buffered or decoded picture of a stream (R301, R308). -/
structure Pic where
  num     : Nat
  bytes   : Nat
  info    : AuInfo
  ready   : Nat
  parsed  : Bool := false
  made    : Bool := false
  refOnly : Bool := false
  started : Bool := false
  decoded : Bool := false
  carried : Bool := false
  left    : Nat := 0
  ns      : Nat := 0
  isRef   : Bool := false
  /-- The picture holds a slot of the reference store. -/
  slot    : Bool := false
  deriving DecidableEq, Repr

/-- A stream context (chapter 11, R327). -/
structure Ctx where
  state     : CState := .closed
  part      : Nat := 0
  queue     : Nat := 0
  codec     : Nat := 0
  live      : Bool := false
  periodic  : Bool := false
  depth     : Nat := 0
  refs      : Nat := 0
  maxW      : Nat := 0
  maxH      : Nat := 0
  rate      : Nat := 0
  bufUnits  : Nat := 0
  home      : Nat := 0
  next      : Nat := 0
  /-- Bytes of the access unit without AU_END yet. -/
  open_     : Nat := 0
  pics      : List Pic := []
  fill      : Nat := 0
  /-- Decoding has started at a random access point; the RASL or recovery rule in force (R503). -/
  synced    : Bool := false
  recover   : Option Nat := none
  raslSkip  : Bool := false
  ratio     : Rat := 1
  compress  : Rat := 1
  firstDone : Bool := false
  /-- A tick with reference blocks has ended (R309). -/
  comprDone : Bool := false
  wroteRef  : Bool := false
  slowTicks : Nat := 0
  movedAt   : Nat := 0
  reason    : Nat := 0
  errPic    : Nat := 0
  errOff    : Nat := 0xFFFFFFFF
  decoded   : Nat := 0
  refOnly   : Nat := 0
  discarded : Nat := 0
  lastW     : Nat := 0
  lastH     : Nat := 0
  lastD     : Nat := 0
  lastPic   : Nat := 0
  event     : Bool := false
  moved     : Bool := false
  carriedT  : Bool := false
  force     : List (Int × Int × Int × Int) := []
  pending   : Option (List (Int × Int × Int × Int)) := none
  pendKey   : Nat × Nat := (0, 0)
  /-- Draw of its free values, taken at STREAM_OPEN. -/
  key       : Nat := 0
  /-- The access unit without AU_END has lost its first bytes to a discard (R302); it begins at a random access point. -/
  cutAu     : Bool := false
  openRap   : Bool := false
  /-- A feed that waits for space (R301), a RESYNC or CLOSE that waits (R311, R312). -/
  waitFeed  : Option (Cmd × AuInfo) := none
  resync    : Option (Cmd × Nat) := none
  closing   : Option Cmd := none
  deriving DecidableEq, Repr

/-- Modes of a clip's rate control (R340). -/
inductive RMode where
  | normal | maxqp | floor
  deriving DecidableEq, Repr

/-- A clip context (chapter 13). -/
structure Clip where
  /-- Draw of its free values. -/
  key      : Nat := 0
  binding  : Nat
  /-- Program handle and class of the binding. -/
  prog     : Nat := 0
  lc       : Bool := false
  part     : Nat
  queue    : Nat
  ctx      : Nat
  codec    : Nat
  quality  : Nat
  frames   : Nat
  stride   : Nat
  x0       : Int
  y0       : Int
  w        : Nat
  h        : Nat
  addr     : Nat
  cap      : Nat
  event    : List Byte
  ten      : Bool
  mode     : RMode := .normal
  /-- Bits written, and bits when the last whole frame ended. -/
  written  : Nat := 0
  frameStart : Nat := 0
  coded    : Nat := 0
  missed   : Nat := 0
  skipped  : Nat := 0
  firstPic : Nat
  lastPoc  : Int
  /-- Decode-order number from which the next picture is considered, and pictures taken but not coded. -/
  nextCons : Nat
  taken    : List Nat
  cur      : Option Nat := none
  unit     : Nat := 0
  maxqp    : Option (Nat × Nat) := none
  floorAt  : Option (Nat × Nat) := none
  planned  : Nat := 0
  measured : Nat := 0
  ending   : Option Nat := none
  /-- It met its end because the stream was STOPPED (Table 13-5). -/
  stopped  : Bool := false
  /-- CLIP_END has named this picture as the last one (R336). -/
  lastPic  : Option Nat := none
  deriving DecidableEq, Repr

/-- The registers of an array, or of a quarter of one (R186, R190, R191): the block in the foreground and the one in the background,
with the codes of their elements and, where they are sparse, the position indices, column after column, row parity being that of what
they hold; the strip whose partial sums and accumulators its accumulator unit holds, and their values, 0 from reset on, else free ones
(log 55). -/
structure Cells where
  fg      : Option Block := none
  bg      : Option Block := none
  fgCodes : List (Nat × Nat) := []
  bgCodes : List (Nat × Nat) := []
  acc     : Option (Work × Tile) := none
  accs    : Nat := 0
  deriving DecidableEq, Repr

/-- Queues, host memory and everything that ACS commands act on. -/
structure Core where
  mstate   : MState := .boot
  /-- ALERT# is asserted (R487). -/
  alert    : Bool := false
  qs       : Tab Queue := []
  host     : HostIf := {}
  parts    : Tab Part := []
  buffers  : List Buffer := []
  copies   : List Copy := []
  programs : List Program := []
  bindings : List Binding := []
  insts    : List Inst := []
  nextInst : Nat := 0
  runs     : List Run := []
  nextRun  : Nat := 0
  ctxs     : Tab Ctx := []
  clips    : List Clip := []
  free     : Nat := 0
  /-- Counts of the tick for TICK_SUMMARY: records dropped, queues that dropped them, chaff. -/
  dropped  : Nat := 0
  dropQs   : List Nat := []
  chaffT   : Nat := 0
  /-- Tillers retired (R209). -/
  retired  : List Nat := []
  /-- Planned decode ns per decoder of the last 64 builds, newest first (R261). -/
  decPlan  : List (List Nat) := []
  /-- Registers of the arrays, by 4 × (64 × tiller + logical array) + quarter. -/
  cells    : Tab Cells := []
  /-- Migrations under way, and how many have been decided (R267). -/
  moving   : List Moving := []
  /-- Members of spanned partitions that are still to hear of grants released or taken back (R277, R278, R281, R500). -/
  untold   : List Nat := []
  nextMove : Nat := 0
  /-- V, M and K registers of the vector units (Table 8-1), by tiller: every word is a free value of this draw (R212). -/
  vregs    : Tab Nat := []
  /-- When array steps have last written rows of a buffer (R214): partition, buffer, ns from the start of the current tick. -/
  rows     : List (Nat × Nat × Int) := []
  deriving DecidableEq, Repr

/-- The tick, its schedule and the sheaf (chapter 2, R430 to R434). -/
structure Tick where
  count     : Nat := 0
  hiLatch   : Nat := 0
  period    : Nat := 16666667
  cutoff    : Nat := 1500
  hem       : Nat := 250
  inMissed  : Nat := 0
  bare      : Nat := 0
  stepCut   : Nat := 0
  locked    : Bool := true
  source    : Nat := 0
  change    : Option TickChange := none
  goodEdges : Nat := 0
  /-- Offset of the previous TICK_IN edge while edges are missing. -/
  lastEdge  : Option Int := none
  /-- An edge has arrived in this tick. -/
  edgeNow   : Bool := false
  /-- A boundary that a TICK_IN edge, or the end of its window, has fixed for the current tick. -/
  due       : Bool := false
  /-- Where that boundary lies, in ns from the start of the tick. -/
  dueAt     : Nat := 0
  length    : Bool := false
  missedT   : Bool := false
  cutPassed : Bool := false
  sealed    : Bool := false
  sealedBare : Bool := false
  runBare   : Bool := false
  stepCutT  : Nat := 0
  /-- Largest overrun of the tick in ns, by engine index: tillers 0-15, media 16-29. -/
  overruns  : Tab Nat := []
  outEdges  : Nat := 0
  follower  : Bool := false
  /-- The last TICK flit: a follower adopts from it (R432). -/
  heard     : Option TickPay := none
  heardNow  : Bool := false
  /-- Engines that start no step in this tick, their plan memory being lost (Table 19-1). -/
  noPlan    : List Engine := []
  /-- The sheaf in force, the one being built after each of its passes, the sealed one (R34, R35), and how far the offsets of each unit have shifted, in ns (R40,
  R193). -/
  sheaf     : Sheaf := {}
  plan      : List Sheaf := []
  /-- The row of the build for the next tick, and the numbers that instances and runs after its cut-off have from (R32, R270). -/
  made      : Option (Build × Nat × Nat) := none
  nextSheaf : Sheaf := {}
  shifts    : Tab Nat := []
  holdover  : Nat := 0
  deriving DecidableEq, Repr

/-- The ledger and the governor (chapter 3). -/
structure Ledger where
  strap     : Nat := 3
  contract  : Nat := 75
  pending   : Option (Nat × Nat) := none
  budget    : Nat := 0
  floorEst  : Nat := 0
  planned   : Nat := 0
  measured  : Nat := 0
  throttles : Nat := 0
  level     : Nat := 0
  levelMax  : Nat := 0
  /-- The last 1 ms VIN average, in mV (Table 3-6). -/
  vb        : Nat := 0
  /-- Lowest 1 ms VIN average since the release of MCP, known when BOOT ends (R55). -/
  vbBoot    : Nat := 12000
  /-- Lowest 1 ms VIN average of the last tick ended (R55). -/
  vbLast    : Option Nat := none
  floors    : List Nat := []
  /-- Coefficients that calibration or an activation has set, per entry; the image's otherwise (R61, R63). -/
  coef      : Tab (Option (Nat × Nat)) := []
  /-- Number of the LEDGERTAB image in force: 0 as supplied, one more at each switch (R64). -/
  img       : Nat := 0
  /-- Per cost entry: planned (2^-24 grain) and measured grains of the tick, steps ran while the level was above 0. -/
  ran       : Tab (Nat × Nat × Bool) := []
  nextBudget : Nat := 0
  nextFloor : Nat := 0
  /-- Vb of the sheaf in force and of the next (R55); their planned step costs in 2^-24 grain. -/
  vbNow     : Nat := 0
  nextVb    : Nat := 0
  nextPlan  : Nat := 0
  sheafPlan : Nat := 0
  /-- Coefficients and image of the build of the sheaf in force and of the next (R63). -/
  coefNow   : Tab (Option (Nat × Nat)) := []
  imgNow    : Nat := 0
  nextCoef  : Tab (Option (Nat × Nat)) := []
  nextImg   : Nat := 0
  /-- Meter readings of the steps of the tick (R56). -/
  metered   : Nat := 0
  floorShort : Bool := false
  nextShort : Bool := false
  deriving DecidableEq, Repr

/-- One DRAM controller (chapter 17). -/
structure Drc where
  readQ  : List DramReq := []
  writeQ : List DramReq := []
  /-- Urgency reached by an entry that is waiting. -/
  urg    : Tab Nat := []
  /-- Reads issued to a bank and not returned; a write is listed while the read of its partly enabled halves is out. -/
  issued : List DramReq := []
  /-- Write entries whose partly enabled halves are not completed yet (R406). -/
  fills  : List Nat := []
  ce     : Nat := 0
  ue     : Nat := 0
  addrErr : Nat := 0
  fwd    : Nat := 0
  merged : Nat := 0
  late   : Nat := 0
  deriving DecidableEq, Repr

structure Dram where
  drcs    : Tab Drc := []
  refresh : Bool := false
  windows : Nat := 0
  /-- ns from the start of the tick to the first window at or after it (DRC_GRID PHASE). -/
  phase   : Nat := 0
  over85  : Bool := false
  temp    : Nat := 0
  sr      : Bool := false
  /-- QUIET entry that waits for the engines and the controllers to drain (R412). -/
  entering : Option Cmd := none
  kept    : Nat := 0xFF
  up      : Bool := false
  deriving DecidableEq, Repr

/-- A physical matrix array, Table 7-4. -/
structure Arr where
  state  : Nat := 0
  skew   : Bool := false
  row    : Nat := 0
  srBad  : Bool := false
  slot   : Nat := 0
  faults : Nat := 0
  /-- Faulty rows found, or asked to be darned, and not yet repaired (R446). -/
  bad    : List Nat := []
  /-- A darning of the whole array has been asked for (R450); the sheaf sealed last leaves the array idle (R207). -/
  whole  : Bool := false
  idle   : Bool := false
  deriving DecidableEq, Repr

/-- A mending activity asked for with MEND_START (R450 to R453): waiting for its boundary, running or deferred; its
command while that has not completed; the reads it has made. -/
structure Act where
  code    : Nat
  target  : Nat
  running : Bool := false
  deferred : Bool := false
  cmd     : Option Cmd := none
  done    : Nat := 0
  deriving DecidableEq, Repr

/-- Mending (chapters 7 and 19). -/
structure Mend where
  arrs     : Tab Arr := []
  /-- Tillers whose retirement is decided (R209). -/
  retiring : List Nat := []
  cause    : Nat := 0
  vec      : Nat := 0
  logCount : Nat := 0
  logLost  : Nat := 0
  log      : Tab (List Byte) := []
  ceSp     : Nat := 0
  ceGrn    : Nat := 0
  ceInt    : Nat := 0
  ceReg    : Nat := 0
  ueSp     : Nat := 0
  ueGrn    : Nat := 0
  ueInt    : Nat := 0
  ueReg    : Nat := 0
  rotT     : Nat := 0
  rotA     : Nat := 0
  passes   : Nat := 0
  scrubSp  : Tab Nat := []
  scrubGrn : Nat := 0
  scrubInt : Nat := 0
  scrubDram : Nat := 0
  dramPasses : Nat := 0
  sramPasses : Nat := 0
  flashPos : Nat := 0
  acts     : List Act := []
  /-- Errors logged in this tick (R441). -/
  logged   : List ErrAt := []
  /-- Array under self-test in this tick, and the one that the sheaf sealed last tests (R444). -/
  testing  : Option (Nat × Nat) := none
  /-- The test of this tick has ended, with the row faults that it found: they count from the boundary on (R208). -/
  found    : Option (List Nat) := none
  nextTest : Option (Nat × Nat) := none
  /-- Arrays whose stationary block failed parity, until their test (R445). -/
  parity   : List (Nat × Nat) := []
  /-- Arrays tested ahead of the rotation (R445, R450). -/
  ahead    : List (Nat × Nat) := []
  deriving DecidableEq, Repr

/-- A port of Table 18-6 with its flow control (R417, R418). Credits are of TICK, SEAM, BULK, MGMT. -/
structure Port where
  state   : Nat := 0
  frozen  : Bool := false
  lanes   : Nat := 0
  neigh   : Nat := 0
  delay   : Nat := 0
  replays : Nat := 0
  fec     : Nat := 0
  frozenDrop : Nat := 0
  downDrop : Nat := 0
  credits : List Nat := [0, 0, 0, 0]
  expSeq  : Nat := 0
  sendSeq : Nat := 0
  /-- Flits sent and not acknowledged (1,024 at most), flits waiting for credit. -/
  replay  : List Flit := []
  held    : List Flit := []
  /-- Times the flit now expected has failed its CRC. -/
  fails   : Nat := 0
  upTicks : Nat := 0
  /-- Credits returned to the partner, by class (R418); TICK_MASTER strap and LKC epoch of its HELLO (R426). -/
  returned : List Nat := [0, 0, 0, 0]
  neighStrap : Bool := false
  /-- Tick count that the partner's HELLO carried (R26, R426). -/
  neighCount : Nat := 0
  neighEpoch : Nat := 0
  deriving DecidableEq, Repr

/-- A window that this module opens to another (R424), by its index. `from_` is the tick at whose boundary it is
granted, `until_` that of its revocation; `base` is a byte address of the unit, `len` in 8-byte units. -/
structure LWin where
  src    : Nat
  unit   : Nat
  base   : Nat
  len    : Nat
  seam   : Bool
  bulk   : Bool
  epoch  : Nat := 0
  from_  : Nat
  until_ : Option Nat := none
  deriving DecidableEq, Repr

/-- A routing table entry, Table 18-5. -/
structure Route where
  dest    : Nat
  prim    : Nat
  alt     : Nat
  hops    : Nat
  altHops : Nat
  ring    : Nat
  /-- The alternate route is in force (R436). -/
  onAlt   : Bool := false
  deriving DecidableEq, Repr

structure Table where
  id     : Nat := 0
  topo   : Nat := 0
  cw     : Nat := 0
  ccw    : Nat := 0
  size   : Nat := 0
  index  : Nat := 0
  routes : List Route := []
  deriving DecidableEq, Repr

/-- What waits for the answer to a message: the step of a run, a partition's grant at a member index (R278), the
chain-wide activation of a mask of images at a module (R467), or nothing. -/
inductive SentFor where
  | run (r : Nat)
  | grant (part member : Nat)
  | activate (module mask : Nat)
  | none
  deriving DecidableEq, Repr

/-- A message sent and not answered (R423). -/
structure Sent where
  id   : Nat
  port : Nat
  what : SentFor
  tick : Nat
  deriving DecidableEq, Repr

structure Link where
  table    : Table := {}
  formed   : Bool := false
  master   : Nat := 0
  isMaster : Bool := false
  strap    : Bool := false
  pending  : Option (Table × Nat × Cmd) := none
  lost     : Nat := 0
  hold     : Bool := false
  skewMax  : Nat := 0
  skewOff  : Int := 0
  dead     : Nat := 0
  noroute  : Nat := 0
  ports    : Tab Port := []
  windows  : Tab (Option LWin) := []
  /-- What windows have been written with, by unit (R424). -/
  store    : Tab Memory := []
  /-- Role epochs: tillers 0-15, LKC 0x20, MCP 0x21. -/
  epochs   : Tab Nat := []
  sent     : List Sent := []
  /-- Messages whose port's entries in the in-flight tracker are all in use (R21): destination, unit, what for. -/
  held     : List (Nat × Nat × SentFor) := []
  /-- Messages sent since module reset. -/
  nextMsg  : Nat := 0
  /-- Failed links known by the ring indices of their ends; those whose reroute waits (R436, R437). -/
  down     : List (Nat × Nat) := []
  notices  : List (Nat × Nat × Bool) := []
  /-- Notices that came before the last seal: their routes change at the boundary (R436). -/
  due      : List (Nat × Nat × Bool) := []
  /-- The last boundary changed routes; a change of master waits for the next one (R433). -/
  rerouted : Bool := false
  masterDue : Bool := false
  /-- Module IDs known to have their TICK_MASTER strap asserted (R430). -/
  strapped : List Nat := []
  /-- Owner of each tiller at the last boundary, plus 1 (R421). -/
  tOwner   : Tab Nat := []
  /-- Broadcast flits already forwarded, their SEQ taken as 0 (R429). -/
  seen     : List Flit := []
  /-- Replies that this module has sent, by the message they answer (R422, R423). -/
  replies  : List (Nat × Reply) := []
  /-- Steps received from a lead (R270): lead, its partition number, steps. -/
  steps    : List (Nat × Nat × List MemberStep) := []
  /-- Tick numbers of the TICK flits seen (R431). -/
  seenTicks : List Nat := []
  deriving DecidableEq, Repr

/-- Slot states, Table 20-4. -/
inductive SState where
  | invalid | staging | valid | active | trial | fallback | rejected
  deriving DecidableEq, Repr

/-- An image slot: its state, the blocks written with their stored CRC, and whether it is the image the module was
supplied with (log 7). -/
structure ISlot where
  state   : SState := .invalid
  blocks  : Tab (List Byte × Nat) := []
  factory : Bool := false
  /-- Number of the image that the slot holds, by which its tables are known (log 4): 0 as supplied. -/
  num     : Nat := 0
  deriving DecidableEq, Repr

/-- One image kind (Tables 20-4, 20-15). -/
structure Image where
  a        : ISlot := {}
  b        : ISlot := {}
  svnMin   : Nat := 0
  startedB : Bool := false
  tick     : Nat := 0
  sched    : Option (Nat × Nat) := none
  left     : Nat := 0
  /-- Counted trial ticks ended, and how many of the last ones in a row were healthy (R468). -/
  counted  : Nat := 0
  healthy  : Nat := 0
  /-- Set when the processor trapped or the watchdog fired, or the window ended (R469). -/
  failed   : Bool := false
  /-- Trial window; the trial begins at the next start (Table 20-7, R472). -/
  window   : Nat := 600
  nextStart : Bool := false
  deriving DecidableEq, Repr

structure Owner where
  used    : Bool := false
  revoked : Bool := false
  hash    : List Byte := []
  /-- Modulus and exponent, as the device records hold them. -/
  key     : List Byte := []
  deriving DecidableEq, Repr

/-- A FW_ACTIVATE that waits for its boundary, or for the chain's answers (R465 to R467). -/
structure Activate where
  /-- The FW_ACTIVATE, on the module that has one to complete. -/
  cmd     : Option Cmd
  /-- Module whose notice asked for it; 0 its own. -/
  origin  : Nat := 0
  mask    : Nat
  effTick : Nat
  window  : Nat
  chain   : Bool
  accepted : List Nat
  /-- Every module has accepted, or the activation is this module's alone: it is scheduled (R467). The preload has
  finished (R465). -/
  agreed  : Bool := true
  loaded  : Bool := false
  deriving DecidableEq, Repr

structure Fw where
  images  : Tab Image := []
  /-- The two directory copies: sequence number, none where its CRCs do not check (R457). -/
  dirA    : Option Nat := some 0
  dirB    : Option Nat := some 1
  cause   : Nat := 0
  vec     : Nat := 0
  owners  : Tab Owner := []
  sealed  : Bool := false
  reason  : Nat := 0
  result  : Nat := 0
  detail  : Nat := 0
  crcs    : Tab Nat := []
  window  : Memory := []
  ownerArea : Option (Tab (List Byte × Nat)) := none
  acts    : List Activate := []
  reload  : List Nat := []
  /-- Ports up at the switch of LINK; LOST_TICKS and uncorrectable DRAM errors at the start of the tick; kinds whose
  processor trapped in the tick (Table 20-8). -/
  upAt    : List Nat := []
  lostAt  : Nat := 0
  ueAt    : Nat := 0
  trapped : List Nat := []
  /-- Measurements of Table 20-9, by index. -/
  meas    : Tab (List Byte) := []
  deriving DecidableEq, Repr

/-- SPDM connection state of one transport (R474). -/
structure Spdm where
  version : Bool := false
  caps    : Bool := false
  algs    : Bool := false
  deriving DecidableEq, Repr

/-- Supply, resets, temperatures, management (chapters 16, 20, 21). -/
structure Mod where
  vin       : Bool := true
  pwrgd     : Bool := true
  /-- A module reset is in force (R482). -/
  inReset   : Bool := true
  thermtrip : Bool := false
  tempAlert : Bool := false
  coolTicks : Nat := 0
  smbus     : Option Nat := none
  eidVdm    : Option Nat := none
  eidSmbus  : Option Nat := none
  doeBusy   : Bool := false
  doeObj    : Option (Nat × List Byte) := none
  doeOut    : Option (List Byte) := none
  mctpOut   : List (Bus × List Byte) := []
  spdmDoe   : Spdm := {}
  spdmVdm   : Spdm := {}
  spdmSm    : Spdm := {}
  tj        : Nat := 0
  iinMa     : Nat := 0
  straps    : Straps := {}
  /-- The start sequence has released MCP and loaded the images (R461). -/
  started   : Bool := false
  rcvBytes  : Memory := []
  deriving DecidableEq, Repr

structure State where
  pending : List Instr := []
  core    : Core := {}
  tick    : Tick := {}
  led     : Ledger := {}
  dram    : Dram := {}
  mend    : Mend := {}
  link    : Link := {}
  fw      : Fw := {}
  mod     : Mod := {}
  deriving DecidableEq, Repr

/-- The images as supplied: slot A of every kind ACTIVE, slot B erased (log 7). -/
def State.factoryImages : Tab Image :=
  [1, 2, 3, 4, 5, 6].map fun k => (k, { a := { state := .active, factory := true } })

/-- The darning map as supplied: every array of every tiller in service in its own slot, arrays 64 and 65 spare
(log 3). Only the slots that differ from the default are listed. -/
def State.factoryArrays : Tab Arr :=
  (List.range 16).flatMap fun t => (List.range 66).filterMap fun p =>
    if p == 0 then none
    else if p < 64 then some (66 * t + p, { slot := p }) else some (66 * t + p, { state := 1 })

/-- The module right after a module reset: BOOT (R115), every register at its reset value, nothing fetched. -/
def State.reset : State :=
  { fw := { images := State.factoryImages }, mend := { arrs := State.factoryArrays } }

end Sys2Proof.Machine
end

