-- ==== Sys2Proof/Machine/Tab.lean ====
section
/-! DEFINITION. Sparse tables and memories in canonical form, little-endian bytes (R7), and small list helpers. -/

namespace Sys2Proof.Machine

/-- Entry `k` of a table whose unlisted entries are `d`. -/
def Tab.get {α : Type} (d : α) : Tab α → Nat → α
  | [], _ => d
  | (j, v) :: r, k => if j = k then v else Tab.get d r k

/-- Removes entry `k`. -/
def Tab.del {α : Type} (k : Nat) : Tab α → Tab α
  | [] => []
  | (j, v) :: r => if j = k then Tab.del k r else (j, v) :: Tab.del k r

/-- Inserts `v` at `k` before the first greater key. -/
def Tab.put {α : Type} (k : Nat) (v : α) : Tab α → Tab α
  | [] => [(k, v)]
  | (j, w) :: r => if k < j then (k, v) :: (j, w) :: r else (j, w) :: Tab.put k v r

/-- Puts `v` at `k`, keeping keys rising and no entry equal to `d`. -/
def Tab.set {α : Type} [DecidableEq α] (d : α) (t : Tab α) (k : Nat) (v : α) : Tab α :=
  if v = d then Tab.del k t else Tab.put k v (Tab.del k t)

def Tab.upd {α : Type} [DecidableEq α] (d : α) (t : Tab α) (k : Nat) (f : α → α) : Tab α :=
  Tab.set d t k (f (Tab.get d t k))

/-- Applies `f` to every listed entry. -/
def Tab.mapAll {α : Type} [DecidableEq α] (d : α) (t : Tab α) (f : Nat → α → α) : Tab α :=
  t.foldr (fun e r => Tab.set d r e.1 (f e.1 e.2)) []

/-- The canonical form: keys strictly rising, no entry equal to the default. -/
def Tab.wf {α : Type} [DecidableEq α] (d : α) : Tab α → Bool
  | [] => true
  | [(_, v)] => v != d
  | (j, v) :: (k, w) :: r => v != d && decide (j < k) && Tab.wf d ((k, w) :: r)

/-- Reads the byte at an address; an unlisted one is 0. -/
def Memory.byte (m : Memory) (a : Nat) : Byte := Tab.get 0 m a

def Memory.read (m : Memory) (a n : Nat) : List Byte := (List.range n).map fun i => Memory.byte m (a + i)

def Memory.write (m : Memory) (a : Nat) : List Byte → Memory
  | [] => m
  | b :: r => Memory.write (Tab.set 0 m a b) (a + 1) r

/-- The bytes at some addresses become 0. -/
def Memory.clear (m : Memory) (at_ : Nat → Bool) : Memory := Tab.mapAll 0 m fun a b => if at_ a then 0 else b

/-- The canonical form of a memory. -/
def Memory.wf (m : Memory) : Bool := Tab.wf (0 : Byte) m

/-- Little-endian bytes of a number (R7). -/
def leBytes : Nat → Nat → List Byte
  | 0, _ => []
  | n + 1, v => BitVec.ofNat 8 v :: leBytes n (v / 256)

/-- The number that little-endian bytes give. -/
def leNat : List Byte → Nat
  | [] => 0
  | b :: r => b.toNat + 256 * leNat r

def zeros (n : Nat) : List Byte := List.replicate n 0

/-- Bytes `a` to `a + n - 1` of a list, short reads filled with 0, as a little-endian number. -/
def leAt (l : List Byte) (a n : Nat) : Nat := leNat ((l.drop a).take n)

/-- All of bytes `a` to `b` (exclusive) are 0: a reserved range (R11). -/
def zeroAt (l : List Byte) (a b : Nat) : Bool := ((l.drop a).take (b - a)).all (· == 0)

def listSet {α : Type} (l : List α) (p : α → Bool) (f : α → α) : List α := l.map fun x => if p x then f x else x

/-- Inserts in an order given by `le`, after equal elements. -/
def insertBy {α : Type} (le : α → α → Bool) (x : α) : List α → List α
  | [] => [x]
  | y :: r => if le y x then y :: insertBy le x r else x :: y :: r

/-- Stable insertion sort. -/
def sortBy {α : Type} (le : α → α → Bool) (l : List α) : List α := l.foldl (fun r x => insertBy le x r) []

/-- Sign of a bit vector read as two's complement, in n bits. -/
def signed (n v : Nat) : Int := if v < 2 ^ (n - 1) then (v : Int) else (v : Int) - 2 ^ n

/-- Two's complement code of an integer in n bits. -/
def unsigned (n : Nat) (v : Int) : Nat := (v % (2 ^ n : Nat)).toNat

end Sys2Proof.Machine
end

