-- ==== Sys2Proof/Machine/Hash.lean ====
section
/-! DEFINITION. SHA-256 (R346, R349, R458) and CRC-32C (R456, R472). -/

namespace Sys2Proof.Machine

/-! ### SHA-256 -/

/-- `r` with the lower `n` bits added that keep its `k`th power at most `x`, highest bit first. -/
def rootFrom (k x : Nat) : Nat → Nat → Nat
  | 0, r => r
  | n + 1, r => rootFrom k x n (if (r + 2 ^ n) ^ k ≤ x then r + 2 ^ n else r)

/-- The first 32 bits of the fractional part of the `k`th root of a number below 4,096. -/
def rootFrac (k p : Nat) : Word := BitVec.ofNat 32 (rootFrom k (p * 2 ^ (32 * k)) 38 0)

/-- The primes below 312: 64 of them. -/
def primes64 : List Nat :=
  (List.range 312).filter fun p => decide (2 ≤ p) && (List.range 18).all fun d => decide (d < 2) || p == d || p % d != 0

/-- The round constants of SHA-256 are the cube roots' fractions of the first 64 primes, its starting words the square
roots' of the first 8. -/
def shaK : List Word := primes64.map (rootFrac 3)

/-- The eight working words. -/
structure Sha where
  a : Word
  b : Word
  c : Word
  d : Word
  e : Word
  f : Word
  g : Word
  h : Word
  deriving DecidableEq, Repr

def shaInit : Sha :=
  let r (i : Nat) : Word := rootFrac 2 (primes64.getD i 2)
  ⟨r 0, r 1, r 2, r 3, r 4, r 5, r 6, r 7⟩

def ror (x : Word) (n : Nat) : Word := x.rotateRight n

def shaRound (s : Sha) (k w : Word) : Sha :=
  let t1 := s.h + (ror s.e 6 ^^^ ror s.e 11 ^^^ ror s.e 25) + ((s.e &&& s.f) ^^^ (~~~s.e &&& s.g)) + k + w
  let t2 := (ror s.a 2 ^^^ ror s.a 13 ^^^ ror s.a 22) + ((s.a &&& s.b) ^^^ (s.a &&& s.c) ^^^ (s.b &&& s.c))
  ⟨t1 + t2, s.a, s.b, s.c, s.d + t1, s.e, s.f, s.g⟩

/-- Message schedule: the last 16 words, newest first; `n` more are made. -/
def shaSched : Nat → List Word → List Word
  | 0, l => l
  | n + 1, l =>
    let w15 := l.getD 14 0
    let w2 := l.getD 1 0
    let x := l.getD 15 0 + (ror w15 7 ^^^ ror w15 18 ^^^ (w15 >>> 3)) + l.getD 6 0 + (ror w2 17 ^^^ ror w2 19 ^^^ (w2 >>> 10))
    shaSched n (x :: l)

def beNat (l : List Byte) : Nat := l.foldl (fun n b => n * 256 + b.toNat) 0
def beBytes (n v : Nat) : List Byte := (leBytes n v).reverse

def shaBlock (s : Sha) (block : List Byte) : Sha :=
  let w := (List.range 16).map fun i => BitVec.ofNat 32 (beNat ((block.drop (4 * i)).take 4))
  let sched := (shaSched 48 w.reverse).reverse
  let r := (shaK.zip sched).foldl (fun x e => shaRound x e.1 e.2) s
  ⟨s.a + r.a, s.b + r.b, s.c + r.c, s.d + r.d, s.e + r.e, s.f + r.f, s.g + r.g, s.h + r.h⟩

def shaPad (m : List Byte) : List Byte :=
  let z := (119 - m.length % 64) % 64
  m ++ 0x80 :: zeros z ++ beBytes 8 (8 * m.length)

def sha256 (m : List Byte) : List Byte :=
  let p := shaPad m
  let r := (List.range (p.length / 64)).foldl (fun s i => shaBlock s ((p.drop (64 * i)).take 64)) shaInit
  [r.a, r.b, r.c, r.d, r.e, r.f, r.g, r.h].flatMap fun x => beBytes 4 x.toNat

/-! ### CRCs -/

/-- One byte of CRC-32C, reflected, polynomial 0x1EDC6F41. -/
def crcStep : Nat → Nat → Nat
  | 0, c => c
  | n + 1, c => crcStep n (if c % 2 == 1 then (c / 2) ^^^ 0x82F63B78 else c / 2)

def crc32c (m : List Byte) : Nat :=
  (m.foldl (fun c b => crcStep 8 (c ^^^ b.toNat)) 0xFFFFFFFF) ^^^ 0xFFFFFFFF

end Sys2Proof.Machine
end

