-- ==== Sys2Proof/Machine/Ops.lean ====
section
/-! DEFINITION. Shared operations: access to queues, functions, partitions and copies; host windows (R381, R494);
messages (R383, R388, R389); posted writes (R390); completions (R87, R92, R96); records (R360 to R364); the freeze
rule (R120, R121, R379). -/

namespace Sys2Proof.Machine

/-- Codes of Table 4-16. -/
def statusCode : Status → Nat
  | .ok => 0 | .zeroShape => 1 | .late => 2 | .empty => 3 | .malformed => 0x10 | .state => 0x11
  | .shapeExceedsPlan => 0x12 | .scaleMisaligned => 0x13 | .dependency => 0x14 | .dataLost => 0x15
  | .hostReadTimeout => 0x16 | .streamDamaged => 0x17 | .abandoned => 0x18 | .roleChanged => 0x19
  | .deferred => 0x1A | .overBudget => 0x1B | .noSpace => 0x1C | .authFailed => 0x1D | .violation => 0x20

/-- Statuses with which outputs are committed (R108). -/
def commits : Status → Bool
  | .ok | .zeroShape | .late | .empty => true
  | _ => false

/-- State codes of R119. -/
def mstateCode : MState → Nat
  | .off => 1 | .boot => 2 | .recovery => 3 | .ready => 4 | .serving => 5 | .quiet => 6
def pstateCode : PState → Nat
  | .empty => 0x11 | .loading => 0x12 | .resident => 0x13 | .active => 0x14 | .draining => 0x15
def cstateCode : CState → Nat
  | .closed => 0x21 | .opened => 0x22 | .running => 0x23 | .stopped => 0x24 | .draining => 0x25

/-- READY, SERVING or QUIET: BOOT is over and the module is not in RECOVERY. -/
def mlive : MState → Bool
  | .ready | .serving | .quiet => true
  | _ => false

/-- The module state changes: ALERT# is asserted (R115, R487). -/
def Core.setM (c : Core) (m : MState) : Core := if c.mstate == m then c else { c with mstate := m, alert := true }

/-- READY once no partition is ACTIVE (R115). -/
def Core.settleM (c : Core) : Core :=
  if c.mstate == .serving && !(c.parts.any fun e => e.2.state == .active) then c.setM .ready else c

/-! ### Access -/

def Core.q (c : Core) (k : Nat) : Queue := Tab.get {} c.qs k
def Core.setQ (c : Core) (k : Nat) (v : Queue) : Core := { c with qs := Tab.set {} c.qs k v }
def Core.updQ (c : Core) (k : Nat) (f : Queue → Queue) : Core := c.setQ k (f (c.q k))
def Core.fn (c : Core) (k : Nat) : Fn := Tab.get {} c.host.fns k
def Core.updFn (c : Core) (k : Nat) (f : Fn → Fn) : Core :=
  { c with host := { c.host with fns := Tab.upd {} c.host.fns k f } }
def Core.part (c : Core) (k : Nat) : Part := Tab.get {} c.parts k
def Core.updPart (c : Core) (k : Nat) (f : Part → Part) : Core := { c with parts := Tab.upd {} c.parts k f }
def Core.ctx (c : Core) (k : Nat) : Ctx := Tab.get {} c.ctxs k
def Core.updCtx (c : Core) (k : Nat) (f : Ctx → Ctx) : Core := { c with ctxs := Tab.upd {} c.ctxs k f }
def Core.updHost (c : Core) (f : HostIf → HostIf) : Core := { c with host := f c.host }
def Core.health (c : Core) (p : Nat) (f : Health → Health) : Core :=
  c.updPart p fun x => { x with health := f x.health }

def Core.inst? (c : Core) (i : Nat) : Option Inst := c.insts.find? (·.id == i)
def Core.updInst (c : Core) (i : Nat) (f : Inst → Inst) : Core :=
  { c with insts := listSet c.insts (·.id == i) f }
def Core.run? (c : Core) (r : Nat) : Option Run := c.runs.find? fun x => x.id == r && !x.dead
def Core.updRun (c : Core) (r : Nat) (f : Run → Run) : Core := { c with runs := listSet c.runs (·.id == r) f }
/-- A run that is over: a step of it that runs goes on to its end and no longer counts for it (R40). -/
def Run.over (r : Run) : Option Run :=
  if r.active.isEmpty then none
  else some { r with dead := true, steps := [], outs := [], ins := [], post := .none, scalar := none, reads := 0, share := none }
def Core.dropRun (c : Core) (r : Nat) : Core :=
  { c with runs := c.runs.filterMap fun x => if x.id == r then x.over else some x }
def Core.prog? (c : Core) (p n : Nat) : Option Program := c.programs.find? fun x => x.part == p && x.num == n
def Core.buf? (c : Core) (p n : Nat) : Option Buffer := c.buffers.find? fun x => x.part == p && x.num == n
def Core.binding? (c : Core) (b : Nat) : Option Binding := c.bindings.find? (·.num == b)

/-- A copy of a buffer; one that nothing has written holds version 0 (R108, R109). -/
def Core.copy (c : Core) (p n : Nat) (k : CopyKey) : Copy :=
  (c.copies.find? fun x => x.part == p && x.buf == n && x.key == k).getD { part := p, buf := n, key := k }

def Core.setCopy (c : Core) (v : Copy) : Core :=
  if c.copies.any fun x => x.part == v.part && x.buf == v.buf && x.key == v.key then
    { c with copies := c.copies.map fun x => if x.part == v.part && x.buf == v.buf && x.key == v.key then v else x }
  else { c with copies := c.copies ++ [v] }

/-- Draws a free value's number (log 8). -/
def Core.draw (c : Core) : Nat × Core := (c.free, { c with free := c.free + 1 })

/-- A handle (R95): partition in bits [31:28], number in bits [27:0]. -/
def handleOf (part num : Nat) : Nat := part * 2 ^ 28 + num
def handlePart (h : Nat) : Nat := h / 2 ^ 28
def handleNum (h : Nat) : Nat := h % 2 ^ 28

/-- A function masters the bus: bus-master enable set, not in D3hot and, until R391 has applied after it, with Memory Space Enable set
too (R373, R389), no FLR in progress (R393), its link up (R395). -/
def Core.mastering (c : Core) (f : Nat) : Bool :=
  (c.fn f).bme && !(c.fn f).d3 && ((c.fn f).mse || !(c.fn f).woken) && !(c.fn f).flr && c.host.linkUp

/-- Planning rate of the trained link in units of 100 MB/s, Table 16-1 (R369). -/
def hostRate (gen width : Nat) : Nat :=
  let row (a b d : Nat) : Nat := if width == 16 then a else if width == 8 then b else if width == 4 then d else 0
  match gen with
  | 6 => row 1210 605 302
  | 5 => row 590 295 147
  | 4 => row 295 147 73
  | 3 => row 147 73 36
  | 2 => row 75 37 18
  | 1 => row 37 18 9
  | _ => 0

def HostIf.rate (h : HostIf) : Nat := hostRate h.gen h.width

/-! ### Host windows -/

/-- An entry in force (R381). -/
def Window.inForce (w : Window) : Bool := w.valid && decide (w.base ≤ w.last) && decide (w.func ≤ 16)

/-- A page passes for a function and a direction. -/
def HostIf.pageOk (h : HostIf) (f : Nat) (wr : Bool) (page : Nat) : Bool :=
  h.windows.any fun e =>
    e.1 < 256 && e.2.inForce && e.2.func == f && (if wr then e.2.write else e.2.read) &&
      decide (e.2.base / 4096 ≤ page) && decide (page ≤ e.2.last / 4096)

/-- The lowest address of an access that no window in force covers (R494); none when all are covered. Addresses end
at 2^64. -/
def HostIf.uncovered (h : HostIf) (f : Nat) (wr : Bool) (addr len : Nat) : Option Nat :=
  if len == 0 then none else
  ((List.range ((addr + len - 1) / 4096 + 1 - addr / 4096)).find? fun i =>
      !h.pageOk f wr (addr / 4096 + i) || decide (2 ^ 52 ≤ addr / 4096 + i)).map
    fun i => max addr ((addr / 4096 + i) * 4096)

/-! ### Messages -/

/-- Number of vector `v` of function `f` in the vector table. -/
def vecKey (f v : Nat) : Nat := f * 4096 + v
def Core.vec (c : Core) (f v : Nat) : Vec := Tab.get {} c.host.vecs (vecKey f v)
def Core.updVec (c : Core) (f v : Nat) (g : Vec → Vec) : Core :=
  c.updHost fun h => { h with vecs := Tab.upd {} h.vecs (vecKey f v) g }

/-- Vectors of a function (Table 16-2). -/
def vecCount (f : Nat) : Nat := if f == 0 then 2048 else 64

/-- A message falls due on a vector: owed while the function does not master (R389), nothing with MSI-X Enable clear,
pending while masked, delayed inside the 1 µs of the rate limiter, otherwise sent (R383). -/
def Core.msg (c : Core) (f v : Nat) : Core :=
  if !c.mastering f then c.updVec f v fun x => { x with owed := true }
  else if !(c.fn f).msixEn then c
  else if (c.fn f).fnMask || (c.vec f v).masked then c.updVec f v fun x => { x with pending := true }
  else if (c.vec f v).hold then c.updVec f v fun x => { x with delayed := true }
  else c.updVec f v fun x => { x with sent := x.sent + 1, hold := true }

/-- Sets bit `b` of HIF_ERR_CAUSE; a bit that becomes 1 sends the error interrupt (R379). -/
def Core.errBit (c : Core) (b : Nat) : Core :=
  if bitAt b c.host.errCause then c
  else (c.updHost fun h => { h with errCause := h.errCause + 2 ^ b }).msg 0 c.host.errVec

/-! ### Freeze records -/

/-- A freeze record, Table 4-19. -/
def freezeBytes (kind num func part now value opidx : Nat) : List Byte :=
  leBytes 2 kind ++ leBytes 2 num ++ leBytes 1 func ++ leBytes 1 part ++ zeros 2 ++ leBytes 8 now ++
    leBytes 8 value ++ leBytes 4 opidx ++ zeros 4

/-- Writes a freeze record to the log (R379). -/
def Core.logFreeze (c : Core) (r : List Byte) : Core :=
  let full := decide (256 ≤ c.host.frzCount)
  let c := c.updHost fun h =>
    { h with
      frzLog := Tab.set [] h.frzLog (h.frzCount % 256) r
      frzCount := h.frzCount + 1
      frzLost := if full then satAdd 0xFFFF h.frzLost 1 else h.frzLost }
  (if full then c.errBit 1 else c).errBit 0

/-- Freezes a queue for a violation (R121). -/
def Core.freezeQ (c : Core) (now q kind value opidx : Nat) : Core :=
  let e := c.q q
  let pt := if e.part < 16 then e.part else 0xFF
  (c.updQ q fun x => if x.state == .disabled then x else { x with state := .frozen, draining := false }).logFreeze
    (freezeBytes kind q e.func pt now value opidx)

/-! ### Tags of device reads (R385) -/

def tagSpace (bits : Nat) : Nat := 2 ^ bits

/-- Reads outstanding, and quarantined tags, of a function. -/
def Core.outstanding (c : Core) (f : Nat) : Nat := (c.host.reads.filter fun r => r.fn == f && !r.quarantine).length
def Core.quarantined (c : Core) (f : Nat) : Nat := (c.host.reads.filter fun r => r.fn == f && r.quarantine).length

/-- Entries that the in-flight tracker gives host reads, over all functions (Table 1-5). -/
def hostReadEntries : Nat := 4096

/-- Reads of all functions that hold an entry of the tracker. -/
def Core.allReads (c : Core) : Nat := (c.host.reads.filter fun r => !r.quarantine).length

/-- Reads that a function may have outstanding: three quarters of its tags, at most 4,096, and no more than are free. -/
def Core.readLimit (c : Core) (f : Nat) : Nat :=
  let n := tagSpace (c.fn f).tagBits
  min (min 4096 (3 * n / 4)) (n - c.quarantined f)

/-- Sources of the in-flight tracker (Table 1-5). -/
inductive Source where
  | dram | hostReads | link (p : Nat) | mover (t : Nat) | granary (slice : Nat) | media (n : Nat) | control
  deriving DecidableEq, Repr

/-- Entries of a source. -/
def Source.entries : Source → Nat
  | .dram => 3072 | .hostReads => hostReadEntries | .link _ => 4096 | .mover _ => 1024 | .granary _ => 512 | .media _ => 512
  | .control => 2048

/-- All sources: 16 movers and granary slices, 14 media engines, 6 link engines. -/
def allSources : List Source :=
  [.dram, .hostReads, .control] ++ (List.range 6).map .link ++ (List.range 16).map .mover ++ (List.range 16).map .granary ++
    (List.range 14).map .media

/-- The next tag in rotation that no read holds. -/
def nextTag (used : Nat → Bool) (space : Nat) : Nat → Nat → Option Nat
  | 0, _ => none
  | k + 1, t => if used t then nextTag used space k ((t + 1) % space) else some t

def Core.newTag (c : Core) (f : Nat) : Option Nat :=
  if c.outstanding f < c.readLimit f && decide (c.allReads < hostReadEntries) then
    nextTag (fun t => c.host.reads.any fun r => r.fn == f && r.tag == t) (tagSpace (c.fn f).tagBits)
      (tagSpace (c.fn f).tagBits) ((c.fn f).nextTag % tagSpace (c.fn f).tagBits)
  else none

/-- A tag is taken: the rotation moves on. -/
def Core.useTag (c : Core) (f t : Nat) : Core :=
  c.updFn f fun x => { x with nextTag := (t + 1) % tagSpace x.tagBits }

/-- Counts a failed read, with HRD_ERR; a timeout is logged under AER (R387). -/
def Core.readFailed (c : Core) (r : ReadEnd) : Core :=
  let c := c.updHost fun h =>
    match r with
    | .ok => h
    | .timeout => { h with timeouts := satAdd 255 h.timeouts 1, aer := h.aer + 1 }
    | .ur => { h with ur := satAdd 255 h.ur 1 }
    | .ca => { h with ca := satAdd 255 h.ca 1 }
    | .poison _ => { h with poisoned := satAdd 255 h.poisoned 1 }
  c.errBit 3

/-- The tag of a failed read: quarantined after a timeout, or after poison that is not the last completion (R388). -/
def ReadEnd.quarantines : ReadEnd → Bool
  | .timeout | .poison false => true
  | _ => false

def ReadEnd.isPoison : ReadEnd → Bool
  | .poison _ => true
  | _ => false

/-- A read with tag `t` that belongs to no run has failed (R387, R388). -/
def Core.failTag (c : Core) (f t : Nat) (r : ReadEnd) : Core :=
  let c := c.readFailed r
  if ReadEnd.quarantines r then
    c.updHost fun h => { h with reads := h.reads ++
      [{ fn := f, tag := t, run := c.nextRun, quarantine := true, poisoned := ReadEnd.isPoison r }] }
  else c

/-! ### Posted writes -/

def heldSize (l : List Held) : Nat := l.foldl (fun n h => n + (h.data.length + 63) / 64 * 64) 0

/-- The emit buffer: 4 MB (R390). -/
def emitCap : Nat := 4194304

/-- A posted write is dropped: a completion entry counts in CPL_DROP and frees its slot (R390, Table 19-1); anything
else is chaff (R365). -/
def Core.dropPost (c : Core) (cpl : Option Nat) : Core :=
  match cpl with
  | some q => c.updQ q fun x => { x with cplDrop := satAdd 0xFFFF x.cplDrop 1, occ := x.occ - 1 }
  | none => { c with host := { c.host with chaff := c.host.chaff + 1 }, chaffT := c.chaffT + 1 }

/-- A posted write of a queue's function: written to host memory, or held while the function does not master, or
dropped when the emit buffer is full (R390). -/
def Core.post (c : Core) (f mq addr : Nat) (data : List Byte) (cpl : Option Nat) : Core :=
  if c.mastering f then c.updHost fun h => { h with mem := Memory.write h.mem addr data }
  else if heldSize c.host.held + (data.length + 63) / 64 * 64 ≤ emitCap then
    c.updHost fun h => { h with held := h.held ++ [{ fn := f, queue := mq, addr := addr, data := data, cpl := cpl }] }
  else (c.errBit 4).dropPost cpl

/-! ### Completions -/

/-- Sizes of the rings in entries and units (Table 4-4). -/
def Queue.sqSize (e : Queue) : Nat := 2 ^ e.sqLog
def Queue.cqSize (e : Queue) : Nat := 2 ^ e.cqLog
def Queue.rrUnits (e : Queue) : Nat := 2 ^ (16 + e.rrLog) / 64

/-- A completion record, Table 4-13. -/
def cplBytes (tag status q tick planned measured detail seq : Nat) (phase inst : Bool) : List Byte :=
  leBytes 4 tag ++ leBytes 2 status ++ leBytes 2 q ++ leBytes 8 tick ++ leBytes 4 planned ++ leBytes 4 measured ++
    leBytes 4 detail ++ leBytes 2 seq ++ leBytes 1 (phase.toNat + 2 * inst.toNat) ++ leBytes 1 0

/-- What a completion reports besides its queue. -/
structure Cpl where
  tag      : Nat
  status   : Status
  tick     : Nat
  planned  : Nat := 0
  measured : Nat := 0
  detail   : Nat := 0
  inst     : Bool := false
  deriving DecidableEq, Repr

/-- Writes a completion at CQ_TAIL, in a slot that is known to be free (R87, R96), and sends the queue's message
(R88). A ring that has left its windows makes it a violation (R382). -/
def Core.putCpl (c : Core) (q : Nat) (x : Cpl) : Core :=
  let e := c.q q
  let addr := e.cqBase + 32 * e.cqTail
  let b := cplBytes x.tag (statusCode x.status) q x.tick x.planned x.measured x.detail e.seq e.phase x.inst
  match c.host.uncovered e.func true addr 32 with
  | some a => (c.updQ q fun y => { y with seq := (y.seq + 1) % 65536 }).freezeQ x.tick q 2 a 0
  | none =>
    let tail := (e.cqTail + 1) % e.cqSize
    let c := c.updQ q fun y =>
      { y with
        cqTail := tail
        phase := if tail = 0 then !y.phase else y.phase
        seq := (y.seq + 1) % 65536
        occ := y.occ + 1 }
    let c := c.post e.func q addr b (some q)
    if e.ivEn then c.msg e.func e.vector else c

/-- A ring command completes: it gives back its reserved slot, and writes a completion when R92 asks for one. -/
def Core.complete (c : Core) (q : Nat) (want : Bool) (x : Cpl) : Core :=
  if (c.q q).state == .disabled then c else
  let c := c.updQ q fun y => { y with reserved := y.reserved - 1 }
  if want || !commits x.status then c.putCpl q x else c

/-- Takes the first waiting command of an opcode and tag off a list. -/
def dropWaiting (op tag : Nat) : List (Nat × Nat × Nat) → List (Nat × Nat × Nat)
  | [] => []
  | w :: r => if w.2.1 == op && w.2.2 == tag then r else w :: dropWaiting op tag r

/-- The completion of a ring command whose effect came earlier, if its queue still waits for it. -/
def Core.completeLate (c : Core) (q op : Nat) (want : Bool) (x : Cpl) : Core :=
  if (c.q q).waiting.any fun w => w.2.1 == op && w.2.2 == x.tag then
    (c.updQ q fun y => { y with waiting := dropWaiting op x.tag y.waiting }).complete q want x
  else c

/-- The completion of a bound instance has no reserved slot: with none free it is dropped and counted (R92). -/
def Core.completeBound (c : Core) (q : Nat) (x : Cpl) : Core :=
  let e := c.q q
  if e.state == .disabled then c
  else if e.occ + e.reserved < e.cqSize then c.putCpl q x
  else c.updQ q fun y => { y with cplDrop := satAdd 0xFFFF y.cplDrop 1, seq := (y.seq + 1) % 65536 }

/-- Detail word of a failed ring command (R97): opcode and 0xFFFF; a STATE carries its code alone (R119, log 18). -/
def ringDetail (op : Nat) : Nat := op * 65536 + 0xFFFF

/-! ### Records -/

/-- Header fields of a record that its writer gives, Table 15-1. -/
structure Rec where
  rtype    : Nat
  flags    : Nat := 0
  stream   : Nat := 0xFFFF
  part     : Nat := 0xFF
  late     : Nat := 0
  tick     : Nat
  prog     : Nat := 0
  inst     : Nat := 0xFFFFFFFF
  status   : Status := .ok
  payload  : List Byte
  deriving DecidableEq, Repr

/-- Record header, Table 15-1. -/
def recHeader (r : Rec) (seq : Nat) : List Byte :=
  leBytes 2 r.rtype ++ leBytes 1 1 ++ leBytes 1 r.flags ++ leBytes 4 r.payload.length ++ leBytes 2 r.stream ++
    leBytes 1 r.part ++ leBytes 1 r.late ++ leBytes 8 r.tick ++ leBytes 4 r.prog ++ leBytes 4 r.inst ++
    leBytes 8 seq ++ leBytes 2 (statusCode r.status) ++ zeros 26

/-- A wrap marker (R360): TYPE 0, VERSION 1, the SEQUENCE of the record that follows, everything else 0. -/
def wrapMarker (seq : Nat) : List Byte := zeros 2 ++ leBytes 1 1 ++ zeros 25 ++ leBytes 8 seq ++ zeros 28

/-- Payload padded to a whole unit with 0 (R360, R12). -/
def padUnit (l : List Byte) : List Byte := l ++ zeros ((64 - l.length % 64) % 64)

/-- The lower of two addresses that may be absent (R494). -/
def lowestOf (a b : Option Nat) : Option Nat :=
  match a, b with
  | some x, some y => some (min x y)
  | some x, none => some x
  | none, y => y

/-- Writes a record to a queue's result ring if it fits, with a wrap marker when it needs one; drops it otherwise; its
SEQUENCE is consumed either way (R360 to R362). A queue with no result ring, or disabled, gets none. `note` asks for
the message of R364. -/
def Core.putRec (c : Core) (q : Nat) (note : Bool) (r : Rec) : Core :=
  let e := c.q q
  if e.rrLog == 0xF || e.state == .disabled then c
  else
    let need := 1 + ceilDiv r.payload.length 64
    let size := e.rrUnits
    let wrap := decide (size < e.rrTail + need)
    let used := if wrap then size - e.rrTail + need else need
    let body := recHeader r e.rseq ++ padUnit r.payload
    if size - e.rrUsed < used then
      { (c.updQ q fun y => { y with rseq := y.rseq + 1 }) with
        dropped := c.dropped + 1
        dropQs := if c.dropQs.contains q then c.dropQs else c.dropQs ++ [q] }
    else
      let pos := if wrap then 0 else e.rrTail
      let addr := e.rrBase + 64 * pos
      let marker := if wrap && decide (e.rrTail < size) then c.host.uncovered e.func true (e.rrBase + 64 * e.rrTail) 64 else none
      match lowestOf marker (c.host.uncovered e.func true addr body.length) with
      | some a => (c.updQ q fun y => { y with rseq := y.rseq + 1 }).freezeQ r.tick q 2 a 0
      | none =>
        let c := c.updQ q fun y =>
          { y with rseq := y.rseq + 1, rrTail := (pos + need) % size, rrUsed := y.rrUsed + used }
        let c := if wrap && decide (e.rrTail < size) then
            c.post e.func q (e.rrBase + 64 * e.rrTail) (wrapMarker e.rseq) none else c
        let c := c.post e.func q addr body none
        if note && e.ivEn then c.msg e.func e.vector else c

/-! ### Grains -/

/-- Planned cost in grains of a sum at 2^-24 grain (R61, R62): nearest, halves up, saturating. -/
def toGrains (x : Nat) : Nat := min 0xFFFFFFFF ((x + 2 ^ 23) / 2 ^ 24)

/-- Folds an operation over a list of numbers. -/
def Core.each {α : Type} (c : Core) (l : List α) (f : Core → α → Core) : Core := l.foldl f c

/-- Lifts an operation on the core to the whole machine: nothing else changes. -/
def onCore (f : Core → Core) (s : State) : Host.Outcome State Fault Refusal := .next { s with core := f s.core }

/-- As `onCore`, with the tick count. -/
def onCoreT (f : Nat → Core → Core) (s : State) : Host.Outcome State Fault Refusal :=
  .next { s with core := f s.tick.count s.core }

/-- What of the rest of the machine a command sees: the tick count, and the cost coefficients of the build of the sheaf in force
(R61, R63). -/
structure Amb where
  tick : Nat
  coef : Tab (Option (Nat × Nat))
  img  : Nat
  deriving DecidableEq, Repr

/-- FIXED and PER_UNIT of an entry in a LEDGERTAB image, unsigned 32-bit numbers (R61). -/
def imageCost (img e : Nat) : Nat × Nat := (Config.costFixed img e % 2 ^ 32, Config.costUnit img e % 2 ^ 32)

/-- FIXED and PER_UNIT of a cost entry. -/
def Amb.cost (a : Amb) (e : Nat) : Nat × Nat := (Tab.get none a.coef e).getD (imageCost a.img e)

/-- Planned cost in 2^-24 grain of steps and work per entry (R61). -/
def Amb.plan (a : Amb) (l : List (Nat × Nat × Nat)) : Nat :=
  l.foldl (fun n x => n + (a.cost x.1).1 * 65536 * x.2.1 + (a.cost x.1).2 * x.2.2) 0

/-- The coefficients of the build for the next tick (R63). -/
def Ledger.ambNext (l : Ledger) : Amb := ⟨0, l.nextCoef, l.nextImg⟩

/-- Adds a step to what ran on an entry. -/
def Ledger.addRan (l : Ledger) (entry planned measured : Nat) : Ledger :=
  { l with ran := Tab.upd (0, 0, false) l.ran entry fun x => (x.1 + planned, x.2.1 + measured, x.2.2) }

/-- Marks the entries of steps that run while the level is above 0 (R68). -/
def Ledger.mark (l : Ledger) (es : List Nat) : Ledger :=
  { l with ran := es.foldl (fun t e => Tab.upd (0, 0, false) t e fun x => (x.1, x.2.1, true)) l.ran }

/-- One reading over a mending step: planned at the coefficients of the sheaf in force, measured (R56, R61, R63, R442), marked where
the level was above 0 while it ran (R68). -/
def Ledger.mended1 (l : Ledger) (x : Metered) : Ledger :=
  let a : Amb := ⟨0, l.coefNow, l.imgNow⟩
  let n := { (l.addRan x.entry (a.plan [(x.entry, 1, x.work)]) (x.grains * 2 ^ 24)) with metered := l.metered + x.grains }
  if l.level != 0 || (x.stalled && l.levelMax != 0) then n.mark [x.entry] else n

/-- Meter readings of mending steps. -/
def Ledger.mended (l : Ledger) (on : List Metered) : Ledger := on.foldl Ledger.mended1 l

/-- Blocks of buffers that go are no longer resident. -/
def Core.dropBlocks (c : Core) (gone : Nat → Nat → Bool) : Core :=
  { c with cells := Tab.mapAll {} c.cells fun _ x =>
    { x with fg := x.fg.filter fun b => !gone b.part b.buf, bg := x.bg.filter fun b => !gone b.part b.buf } }

end Sys2Proof.Machine
end

