-- ==== Sys2Proof/Machine/ClipOps.lean ====
section
/-! DEFINITION. Evidence clips: floor costs (Table 13-4), the summary (Table 13-6), and how a clip ends (R337, R338, R341,
R342). -/

namespace Sys2Proof.Machine


/-- Floor costs of Table 13-4 in bytes: units of the first and of later frames, rows. -/
def Clip.cols (k : Clip) : Nat := (k.w + 63) / 64
def Clip.rows (k : Clip) : Nat := (k.h + 63) / 64
def Clip.unitFloor (first : Bool) : Nat := if first then 2 else 1
def Clip.rowFloor (k : Clip) (first : Bool) : Nat := 24 + k.cols * Clip.unitFloor first
def Clip.frameFloor (k : Clip) (first : Bool) : Nat := 64 + k.rows * k.rowFloor first

/-- Floor total of a clip (R339). -/
def Clip.floorTotal (k : Clip) : Nat := 504 + 8 + k.frameFloor true + (k.frames - 1) * k.frameFloor false

/-- Clip summary and event bytes, Table 13-6. `len` is LENGTH. -/
def Clip.summary (k : Clip) (reason len : Nat) : List Byte :=
  let m := k.maxqp.getD (0xFFFF, 0xFFFF)
  let f := k.floorAt.getD (0xFFFF, 0xFFFF)
  leBytes 1 k.codec ++ leBytes 1 reason ++
    leBytes 1 (k.ten.toNat + 2 * k.maxqp.isSome.toNat + 4 * k.floorAt.isSome.toNat) ++ leBytes 1 k.quality ++
    leBytes 2 k.w ++ leBytes 2 k.h ++ leBytes 8 k.addr ++ leBytes 4 len ++ leBytes 4 k.cap ++ leBytes 8 k.firstPic ++
    leBytes 2 k.coded ++ leBytes 2 (min 0xFFFF k.missed) ++ leBytes 2 (min 0xFFFF k.skipped) ++ leBytes 2 m.1 ++
    leBytes 2 m.2 ++ leBytes 2 f.1 ++ leBytes 2 f.2 ++ leBytes 2 k.event.length ++ leBytes 4 (toGrains k.planned) ++
    leBytes 4 (min 0xFFFFFFFF k.measured) ++ leBytes 2 (unsigned 16 k.x0) ++ leBytes 2 (unsigned 16 k.y0) ++ zeros 4 ++
    k.event

/-- Status of the EVENT record for an end reason (Table 13-5). -/
def clipStatus (reason : Nat) (stopped : Bool) : Status :=
  if reason == 4 then .dataLost else if reason == 3 && stopped then .streamDamaged else .ok

/-- Ends a clip now: its end bytes, the free context, the EVENT record (R341, R342). The length of the end bytes is a
free value of at most 8 (Table 13-4, log 13). -/
def Core.endClip (c : Core) (now reason : Nat) (k : Clip) : Core :=
  let e := c.q k.queue
  let d := c.draw
  let n := Config.freeNat d.1 0 % 9
  let base := if reason == 4 then (k.frameStart + 7) / 8 else (k.written + 7) / 8
  let len := if reason == 4 then base else base + n
  let c := { d.2 with clips := d.2.clips.filter (·.binding != k.binding) }
  let c := if n == 0 then c else
    match c.host.uncovered e.func true (k.addr + base) n with
    | some a => c.freezeQ now k.queue 2 a 0
    | none => c.post e.func k.queue (k.addr + base) ((List.range n).map fun i => Config.clipByte k.key (base + i)) none
  if reason == 5 then c
  else
    c.putRec k.queue true
      { rtype := 0x03, stream := k.ctx, part := k.part, tick := now
        prog := k.prog
        status := clipStatus reason k.stopped
        payload := k.summary reason len }

/-- Runs of a clip. -/
def Core.dropClipRuns (c : Core) (binding : Nat) : Core :=
  { c with runs := c.runs.filterMap fun r =>
      match r.post with
      | .clip b _ => if b == binding then r.over else some r
      | _ => some r }

/-- The current frame of a clip has begun: a step of it has started (R337, R338). -/
def Core.clipBegun (c : Core) (k : Clip) : Bool :=
  k.cur.isSome && (k.unit != 0 || c.runs.any fun r => r.post == .clip k.binding (k.cur.getD 0) && !r.active.isEmpty)

/-- A clip meets an end: at once, or when the frame that has begun is finished (R338, R341). -/
def Core.finishClip (c : Core) (now reason : Nat) (k : Clip) : Core :=
  if c.clipBegun k && reason != 4 then
    { c with clips := listSet c.clips (·.binding == k.binding) fun x =>
        { x with ending := some (x.ending.getD reason) } }
  else (c.dropClipRuns k.binding).endClip now reason k

def Core.finishClips (c : Core) (now reason : Nat) (p : Clip → Bool) : Core :=
  (c.clips.filter p).foldl (fun c k => c.finishClip now reason k) c

/-- A taken picture whose instance completes before its first clip step is left out and counted (R337); a clip that
CLIP_END has bounded ends when nothing is left to code (R336). The first frame's picture stays (log 46): its steps come
after its instance (R338). -/
def Core.missClip (c : Core) (now : Nat) (binding pic : Nat) : Core :=
  match c.clips.find? (·.binding == binding) with
  | none => c
  | some k =>
    let head := k.cur == some pic && !c.clipBegun k
    if k.firstPic == pic || (!head && !k.taken.contains pic) then c
    else
      let k' := { k with
        taken := k.taken.filter (· != pic), cur := if head then none else k.cur, missed := satAdd 0xFFFF k.missed 1 }
      let c := if head then c.dropClipRuns binding else c
      let c := { c with clips := listSet c.clips (·.binding == binding) fun _ => k' }
      if k'.lastPic.isSome && k'.cur.isNone && k'.taken.isEmpty then c.endClip now 1 k' else c

end Sys2Proof.Machine
end

