-- ==== Sys2Proof/Machine/Float.lean ====
section
/-! DEFINITION. Real values as the A16 computes with them: exact values, the floating formats of Table 5-2, rounding in
the two modes of R145, conversion (R146, R148), and the special functions of Table 8-4. -/

namespace Sys2Proof.Machine

/-- A value: NaN, an infinity, or ±m · 2^e exactly. -/
inductive FVal where
  | nan
  | inf (neg : Bool)
  | fin (neg : Bool) (m : Nat) (e : Int)
  deriving DecidableEq, Repr

def FVal.zero : FVal := .fin false 0 0
def FVal.one : FVal := .fin false 1 0
def FVal.ofInt (i : Int) : FVal := .fin (decide (i < 0)) i.natAbs 0

/-- A floating format: exponent bits, mantissa bits, bias, and what its top exponent holds: 0 numbers only, 1 a NaN at
all ones (E4M3), 2 infinities and NaNs as IEEE 754 has them. -/
structure Fmt where
  eb   : Nat
  mb   : Nat
  bias : Nat
  kind : Nat
  deriving DecidableEq, Repr

def fE4M3 : Fmt := ⟨4, 3, 7, 1⟩
def fE5M2 : Fmt := ⟨5, 2, 15, 2⟩
def fE3M2 : Fmt := ⟨3, 2, 3, 0⟩
def fE2M3 : Fmt := ⟨2, 3, 1, 0⟩
def fE2M1 : Fmt := ⟨2, 1, 1, 0⟩
def fBF16 : Fmt := ⟨8, 7, 127, 2⟩
def fFP16 : Fmt := ⟨5, 10, 15, 2⟩
def fFP32 : Fmt := ⟨8, 23, 127, 2⟩

/-- Exponent of the lowest bit of a subnormal. -/
def Fmt.sub (f : Fmt) : Int := 1 - (f.bias : Int) - f.mb

/-- Largest finite: significand and exponent of its lowest bit (Table 5-2). -/
def Fmt.maxM (f : Fmt) : Nat := if f.kind == 1 then 2 ^ (f.mb + 1) - 2 else 2 ^ (f.mb + 1) - 1
def Fmt.maxE (f : Fmt) : Int :=
  (2 ^ f.eb - 1 - (if f.kind == 2 then 1 else 0) : Nat) - (f.bias : Int) - f.mb

/-- The value of a code (R123, R124). -/
def Fmt.decode (f : Fmt) (code : Nat) : FVal :=
  let m := code % 2 ^ f.mb
  let e := code / 2 ^ f.mb % 2 ^ f.eb
  let s := code / 2 ^ (f.mb + f.eb) % 2 == 1
  if f.kind == 2 && e == 2 ^ f.eb - 1 then (if m == 0 then .inf s else .nan)
  else if f.kind == 1 && e == 2 ^ f.eb - 1 && m == 2 ^ f.mb - 1 then .nan
  else if e == 0 then .fin s m f.sub
  else .fin s (m + 2 ^ f.mb) ((e : Int) - f.bias - f.mb)

/-- NaN as written (R125). -/
def Fmt.nanCode (f : Fmt) : Nat :=
  match f.kind with
  | 0 => 0
  | 1 => 2 ^ (f.mb + f.eb) - 1
  | _ => (2 ^ f.eb - 1) * 2 ^ f.mb + 2 ^ (f.mb - 1)

/-- num · 2^e as a numerator and denominator. -/
def scaleUp (n : Nat) (e : Int) : Nat := n * 2 ^ e.toNat
def scaleQ (n d : Nat) (e : Int) : Nat × Nat := (n * 2 ^ e.toNat, d * 2 ^ (-e).toNat)

/-- A quotient rounded to a natural number: mode 0 ties to even, mode 1 ties away from zero (R145). -/
def rndDiv (mode : Bool) (n d : Nat) : Nat :=
  let q := n / d
  let r := n % d
  if 2 * r < d then q else if d < 2 * r then q + 1 else if mode then q + 1 else q + q % 2

/-- floor(log2(n / d)) of a positive rational. -/
def log2Q (n d : Nat) : Int :=
  let k := (Nat.log2 n : Int) - Nat.log2 d
  let p := scaleQ n d (-k)
  if p.1 < p.2 then k - 1 else k

/-- Rounds ±(n / d) · 2^e to the precision of a format, as if its range had no top (R124, R146). -/
def Fmt.rnd (f : Fmt) (mode neg : Bool) (n d : Nat) (e : Int) : FVal :=
  if n == 0 then .fin neg 0 f.sub
  else
    let l := max (log2Q n d + e - f.mb) f.sub
    let p := scaleQ n d (e - l)
    .fin neg (rndDiv mode p.1 p.2) l

/-- Beyond the largest finite. -/
def Fmt.over (f : Fmt) (m : Nat) (e : Int) : Bool :=
  let b := min e f.maxE
  decide (f.maxM * 2 ^ (f.maxE - b).toNat < m * 2 ^ (e - b).toNat)

/-- Code of a finite value of the format. -/
def Fmt.encode (f : Fmt) (neg : Bool) (m : Nat) (e : Int) : Nat :=
  let s := if neg then 2 ^ (f.mb + f.eb) else 0
  if m == 0 then s
  else
    let l := max ((Nat.log2 m : Int) + e - f.mb) f.sub
    let q := m * 2 ^ (e - l).toNat / 2 ^ (l - e).toNat
    if q < 2 ^ f.mb then s + q else s + (l - f.sub).toNat * 2 ^ f.mb + q

def Fmt.infCode (f : Fmt) (neg : Bool) : Nat :=
  (if neg then 2 ^ (f.mb + f.eb) else 0) + (2 ^ f.eb - 1) * 2 ^ f.mb
def Fmt.maxCode (f : Fmt) (neg : Bool) : Nat := f.encode neg f.maxM f.maxE

/-- Code of ±(n / d) · 2^e in a format and whether it was too large after rounding (R146). FP32, BF16 and FP16 have
more than 2 mantissa bits and infinities; E5M2 saturates a finite value. -/
def Fmt.convQ (f : Fmt) (mode neg : Bool) (n d : Nat) (e : Int) : Nat × Bool :=
  match f.rnd mode neg n d e with
  | .fin s m k =>
    if f.over m k then ((if f.kind == 2 && f.mb != 2 then f.infCode s else f.maxCode s), true)
    else (f.encode s m k, false)
  | _ => (f.nanCode, false)

/-- Conversion of a value to a format (R146). -/
def Fmt.conv (f : Fmt) (mode : Bool) : FVal → Nat × Bool
  | .nan => (f.nanCode, false)
  | .inf s => ((if f.kind == 2 then f.infCode s else f.maxCode s), false)
  | .fin s m e => f.convQ mode s m 1 e

/-- Rounds a value to a format of arithmetic: an overflow is an infinity (R143, R145). -/
def Fmt.fix (f : Fmt) (mode : Bool) : FVal → FVal
  | .fin s m e =>
    match f.rnd mode s m 1 e with
    | .fin s m k => if f.over m k then .inf s else .fin s m k
    | v => v
  | v => v

def r32 (mode : Bool) (v : FVal) : FVal := fFP32.fix mode v

/-! ### Arithmetic -/

def FVal.neg : FVal → FVal
  | .nan => .nan
  | .inf s => .inf !s
  | .fin s m e => .fin (!s) m e

def FVal.abs : FVal → FVal
  | .nan => .nan
  | .inf _ => .inf false
  | .fin _ m e => .fin false m e

def FVal.isNan : FVal → Bool
  | .nan => true
  | _ => false
def FVal.isFin : FVal → Bool
  | .fin .. => true
  | _ => false
def FVal.isZero : FVal → Bool
  | .fin _ m _ => m == 0
  | _ => false
def FVal.isNeg : FVal → Bool
  | .nan => false
  | .inf s => s
  | .fin s _ _ => s

/-- Signed significand at a lower exponent. -/
def sig (s : Bool) (m : Nat) (e b : Int) : Int :=
  let v : Int := m * 2 ^ (e - b).toNat
  if s then -v else v

/-- Exact sum; an exact zero is +0 unless both are −0. -/
def FVal.add : FVal → FVal → FVal
  | .nan, _ => .nan
  | _, .nan => .nan
  | .inf a, .inf b => if a == b then .inf a else .nan
  | .inf a, _ => .inf a
  | _, .inf b => .inf b
  | .fin a m e, .fin b n k =>
    let l := min e k
    let v := sig a m e l + sig b n k l
    if v = 0 then .fin (a && b) 0 l else .fin (decide (v < 0)) v.natAbs l

def FVal.sub (x y : FVal) : FVal := x.add y.neg

def FVal.mul : FVal → FVal → FVal
  | .nan, _ => .nan
  | _, .nan => .nan
  | .inf a, .inf b => .inf (a != b)
  | .inf a, .fin b n _ => if n == 0 then .nan else .inf (a != b)
  | .fin a m _, .inf b => if m == 0 then .nan else .inf (a != b)
  | .fin a m e, .fin b n k => .fin (a != b) (m * n) (e + k)

/-- A quotient rounded to a format (R149, R352). -/
def FVal.divF (f : Fmt) (mode : Bool) : FVal → FVal → FVal
  | .nan, _ => .nan
  | _, .nan => .nan
  | .inf _, .inf _ => .nan
  | .inf a, .fin b _ _ => .inf (a != b)
  | .fin a _ _, .inf b => .fin (a != b) 0 0
  | .fin a m e, .fin b n k =>
    if n == 0 then (if m == 0 then .nan else .inf (a != b))
    else
      match f.rnd mode (a != b) m n (e - k) with
      | .fin s q l => if f.over q l then .inf s else .fin s q l
      | v => v

def add32 (mode : Bool) (a b : FVal) : FVal := r32 mode (a.add b)
def sub32 (mode : Bool) (a b : FVal) : FVal := r32 mode (a.sub b)
def mul32 (mode : Bool) (a b : FVal) : FVal := r32 mode (a.mul b)
def div32 (mode : Bool) (a b : FVal) : FVal := FVal.divF fFP32 mode a b

/-- Integer square root by halving the interval, `k` times. -/
def isqrtIn : Nat → Nat → Nat → Nat → Nat
  | 0, _, lo, _ => lo
  | k + 1, n, lo, hi =>
    let mid := (lo + hi) / 2
    if mid * mid ≤ n then isqrtIn k n mid hi else isqrtIn k n lo mid

def isqrt (n : Nat) : Nat := isqrtIn (Nat.log2 n + 2) n 0 (2 ^ (Nat.log2 n / 2 + 1))

/-- Square root rounded to FP32: the root to 64 bits beyond the precision, with a sticky bit. -/
def sqrt32 (mode : Bool) : FVal → FVal
  | .nan => .nan
  | .inf s => if s then .nan else .inf false
  | .fin s m e =>
    if m == 0 then .fin s 0 e
    else if s then .nan
    else
      let k : Int := if e % 2 = 0 then e else e - 1
      let n := m * 2 ^ (e - k).toNat * 2 ^ 160
      let r := isqrt n
      let q := 2 * r + (if r * r == n then 0 else 1)
      r32 mode (.fin false q (k / 2 - 81))

/-- 1 / √n rounded once to FP32 (R177): the root of 2^200 / n, with a sticky bit. -/
def rsqrt32 (mode : Bool) (n : Nat) : FVal :=
  let r := isqrt (2 ^ 200 / n)
  r32 mode (.fin false (2 * r + (if r * r * n == 2 ^ 200 then 0 else 1)) (-101))

/-- Order of values, NaN excluded; −0 and +0 are equal here. -/
def FVal.lt : FVal → FVal → Bool
  | .nan, _ => false
  | _, .nan => false
  | .inf a, .inf b => a && !b
  | .inf a, _ => a
  | _, .inf b => !b
  | .fin a m e, .fin b n k => let l := min e k; decide (sig a m e l < sig b n k l)

def FVal.le (x y : FVal) : Bool := !x.isNan && !y.isNan && !FVal.lt y x
def FVal.eqv (x y : FVal) : Bool := !x.isNan && !y.isNan && !FVal.lt x y && !FVal.lt y x

/-- Order with −0 below +0 (R222, R225). -/
def FVal.ltZ (x y : FVal) : Bool := FVal.lt x y || (FVal.eqv x y && x.isNeg && !y.isNeg)

def FVal.min (x y : FVal) : FVal := if x.isNan || y.isNan then .nan else if FVal.ltZ y x then y else x
def FVal.max (x y : FVal) : FVal := if x.isNan || y.isNan then .nan else if FVal.ltZ x y then y else x

/-- A value rounded to an integer in a mode; none for NaN and infinities. -/
def FVal.toInt (mode : Bool) : FVal → Option Int
  | .fin s m e =>
    let p := scaleQ m 1 e
    let q : Int := rndDiv mode p.1 p.2
    some (if s then -q else q)
  | _ => none

/-- floor of a finite value. -/
def FVal.floor : FVal → Int
  | .fin s m e => let p := scaleQ m 1 e; if s then -((p.1 + p.2 - 1) / p.2 : Nat) else (p.1 / p.2 : Nat)
  | _ => 0
def FVal.ceil (v : FVal) : Int := -(v.neg.floor)

/-- Saturates an integer to a range; true when it was outside. -/
def clampI (lo hi v : Int) : Int × Bool := if v < lo then (lo, true) else if hi < v then (hi, true) else (v, false)

/-- Conversion of a value to an integer in a range (R148); NaN gives `nanv`. -/
def FVal.toRange (mode : Bool) (lo hi nanv : Int) : FVal → Int × Bool
  | .nan => (nanv, false)
  | .inf s => (if s then lo else hi, true)
  | v => clampI lo hi ((v.toInt mode).getD 0)

/-- An FP32 pattern as a value and back. -/
def f32 (code : Nat) : FVal := fFP32.decode (code % 2 ^ 32)
def code32 (v : FVal) : Nat := (fFP32.conv false v).1

/-! ### Special functions (R223) -/

def fixP : Nat := 320
/-- ln 2 · 2^320. -/
def ln2Fix : Nat :=
  1480553391661173448385607439722553250922680800745876974795605978609098082859138712941075737848984
/-- log2(e) · 2^512. -/
def log2eFix : Nat :=
  19343378009719902942903021401932455642795157619099781112206266958471486723471885689150254724994041798571814804231958903428740156015579732605690696404202342

/-- Terms t^k / k! added while `n` of them are left. -/
def expTerms (t : Nat) : Nat → Nat → Nat → Nat
  | 0, _, _ => 0
  | n + 1, k, term => term + expTerms t n (k + 1) (term * t / 2 ^ fixP / (k + 1))

/-- 2^y for y in units of 2^-320: a significand in [2^320, 2^321) and an exponent of two. -/
def exp2Fix (y : Int) : Nat × Int :=
  let n := y / 2 ^ fixP
  let f := (y % 2 ^ fixP).toNat
  (expTerms (f * ln2Fix / 2 ^ fixP) 70 0 (2 ^ fixP), n)

/-- e^x for x = ±(n / d) · 2^e, |x| cut to 2^9. -/
def expVal (neg : Bool) (n d : Nat) (e : Int) : Nat × Int :=
  let p := scaleQ n d e
  let y := if 512 * p.2 < p.1 then 512 * 2 ^ fixP else p.1 * log2eFix / p.2 / 2 ^ (512 - fixP)
  exp2Fix (if neg then -(y : Int) else y)

/-- log2 of s / 2^160 in [1, 2), one bit a step: the bits in units of 2^-k. -/
def logBits : Nat → Nat → Nat → Nat
  | 0, _, acc => acc
  | k + 1, s, acc =>
    let q := s * s / 2 ^ 160
    if 2 ^ 161 ≤ q then logBits k (q / 2) (2 * acc + 1) else logBits k q (2 * acc)

/-- Moves a rounded FP32 result by a free error cut to `bound` units of its last place (R223; log 10). -/
def nudge (err : Int) (bound : Nat) : FVal → FVal
  | .fin s m e =>
    let k := max (-(bound : Int)) (min (bound : Int) err)
    let v := (if s then -(m : Int) else m) + k
    r32 false (.fin (if v = 0 then s else decide (v < 0)) (min v.natAbs (2 ^ 24)) e)
  | v => v

/-- Bound in units of the last place at exponent `l`, for `ulps` and an absolute bound of 2^-24 where |v| < 2^-top. -/
def ulpBound (ulps : Nat) (top : Option Nat) : FVal → Nat
  | .fin _ m e =>
    match top with
    | none => ulps
    | some t => if m == 0 || decide (log2Q m 1 + e < -(t : Int)) then max ulps (2 ^ (-24 - e).toNat) else ulps
  | _ => ulps

/-- 1 + 2^n s, with s in units of 2^-320, as a rational over 2^320 · 2^k. -/
def onePlus (g : Nat) (n : Int) : Nat × Nat := (2 ^ fixP * 2 ^ (-n).toNat + g * 2 ^ n.toNat, 2 ^ fixP * 2 ^ (-n).toNat)

/-- The functions of Table 8-4, with the special inputs it states, the exact value rounded to FP32 and moved by the
free error within its bound. -/
def vsfn (op : Nat) (err : Int) (a : FVal) : FVal :=
  let out (ulps : Nat) (top : Option Nat) (neg : Bool) (n d : Nat) (e : Int) : FVal :=
    match fFP32.rnd false neg n d e with
    | .fin s m k => if fFP32.over m k then .inf s else nudge err (ulpBound ulps top (.fin s m k)) (.fin s m k)
    | v => v
  match op, a with
  | _, .nan => .nan
  | 0, .inf s => if s then .zero else .inf false
  | 0, .fin s m e =>
    let p := scaleQ m 1 e
    if !s && decide (128 * p.2 ≤ p.1) then .inf false
    else
      let y := min (p.1 * 2 ^ fixP / p.2) (512 * 2 ^ fixP)
      let g := exp2Fix (if s then -(y : Int) else y)
      out 1 none false g.1 1 (g.2 - fixP)
  | 1, .inf s => if s then .nan else .inf false
  | 1, .fin s m e =>
    if m == 0 then .inf true
    else if s then .nan
    else
      let k := Nat.log2 m
      let b := logBits 70 (m * 2 ^ 160 / 2 ^ k) 0
      let v : Int := ((k : Int) + e) * 2 ^ 70 + b
      out 2 (some 2) (decide (v < 0)) v.natAbs 1 (-70)
  | 2, .inf s => .fin s 0 0
  | 2, .fin s m e => if m == 0 then .inf s else out 1 none s 1 m (-e)
  | 3, .inf s => if s then .nan else .zero
  | 3, .fin s m e =>
    if m == 0 then .inf s
    else if s then .nan
    else
      let k : Int := if e % 2 = 0 then e else e - 1
      let r := isqrt (m * 2 ^ (e - k).toNat * 2 ^ 320)
      out 2 none false (2 ^ 160) r (-(k / 2))
  | 4, .inf s => .fin s 1 0
  | 4, .fin s m e =>
    if m == 0 then .fin s 0 0
    else
      let g := expVal false (2 * m) 1 e
      let p := onePlus g.1 g.2
      out 3 none s (p.1 - 2 * p.2) p.1 0
  | 5, .inf s => if s then .zero else .one
  | 5, .fin s m e =>
    let g := expVal (!s) m 1 e
    let p := onePlus g.1 g.2
    out 3 none false p.2 p.1 0
  | _, .inf s => if s then .fin true 0 0 else .inf false
  | _, .fin s m e =>
    -- GELU: a / (1 + exp(-2 c (a + 0.044715 a^3))), with c = 0.7978845608
    let p := scaleQ m 1 e
    let u := 2 * 7978845608 * (p.1 * p.2 * p.2 * 1000000 + 44715 * p.1 * p.1 * p.1)
    let d := 10000000000 * 1000000 * p.2 * p.2 * p.2
    let g := expVal (!s) u d 0
    let q := onePlus g.1 g.2
    out 4 (some 20) s (p.1 * q.2) (p.2 * q.1) 0

end Sys2Proof.Machine
end

