-- ==== Sys2Proof/Machine/Operands.lean ====
section
/-! DEFINITION. Operand forms: the kinds of operand word of every opcode (R89, R90, and the operand tables), data types
(Table 4-12), descriptors (Table 4-11, R93, R130), and the elements, scales and rows of a tensor (R123 to R133). -/

namespace Sys2Proof.Machine

/-! ### Data types -/

/-- Bits per element, Table 4-12. -/
def bitsOf (t : Nat) : Nat :=
  if t == 0x02 || t == 0x09 then 4
  else if t == 0x07 || t == 0x08 then 6
  else if t == 0x0B || t == 0x0C || t == 0x0F then 16
  else if t == 0x0D || t == 0x0E then 32
  else 8

def isU (t : Nat) : Bool := t == 1 || t == 2
def isF8 (t : Nat) : Bool := t == 3 || t == 4
def isMX (t : Nat) : Bool := decide (5 ≤ t) && decide (t ≤ 0xA)
def isWide (t : Nat) : Bool := t == 0xB || t == 0xC || t == 0xD
def isI (t : Nat) : Bool := t == 0xE || t == 0xF
def isBytes (t : Nat) : Bool := t == 0x10
/-- F of Table 8-2: FP32, BF16, FP16 and UINT8. -/
def isF (t : Nat) : Bool := isWide t || t == 1

/-- Floating layout of an element type (Table 5-1). -/
def fmtOf (t : Nat) : Fmt :=
  if t == 0x03 || t == 0x05 then fE4M3
  else if t == 0x04 || t == 0x06 then fE5M2
  else if t == 0x07 then fE3M2
  else if t == 0x08 then fE2M3
  else if t == 0x09 then fE2M1
  else if t == 0x0B then fBF16
  else if t == 0x0C then fFP16
  else fFP32

/-- emax of R147. -/
def emaxOf (t : Nat) : Int :=
  if t == 5 then 8 else if t == 6 then 15 else if t == 7 then 4 else if t == 8 then 2 else if t == 9 then 2 else 0

/-- Group size of a group size code (Table 4-11). -/
def groupSize (g : Nat) : Nat := if g == 0 then 0 else 16 * 2 ^ g

/-- Row bytes (R127). -/
def rowBytes (t d0 : Nat) : Nat :=
  if bitsOf t == 4 then (d0 + 1) / 2 else if bitsOf t == 6 then 3 * ((d0 + 3) / 4) else d0 * (bitsOf t / 8)

def prod (l : List Nat) : Nat := l.foldl (· * ·) 1

/-- Rows of a tensor with the given dimensions (R123). -/
def rowsOf (dims : List Nat) : Nat := prod dims.tail
def dim (dims : List Nat) (k : Nat) : Nat := dims.getD k 0

/-! ### Descriptors -/

/-- A dimension word that names a scalar (R93). -/
def dynDim (d : Nat) : Bool := decide (0xFFFFFFF0 ≤ d)

/-- Type and scale arrangement (R130, Table 5-3). -/
def scaleOk (t g scale row : Nat) : Bool :=
  if isU t then (if g == 0 then scale == 0 && row != 0 else scale != 0 && row == 0)
  else if isF8 t then (if g == 0 then scale == 0 else scale != 0 && row == 0)
  else if isMX t then g == 1 && scale != 0 && row == 0
  else g == 0 && scale == 0 && row == 0

/-- The rules of R93 and Table 4-11, one per line. -/
def Desc.ok (d : Desc) : Bool :=
  decide (1 ≤ d.dtype) && decide (d.dtype ≤ 0x10) &&
  decide (1 ≤ d.rank) && decide (d.rank ≤ 5) &&
  ((List.range 5).all fun i =>
    let x := dim d.dims i
    let m := dim d.maxima i
    if d.rank ≤ i then x == 0 && m == 0
    else if dynDim x then decide (1 ≤ m) && decide (m ≤ 0xFFFFFFEF)
    else decide (1 ≤ x) && m == 0) &&
  d.dynamic == ((List.range d.rank).any fun i => dynDim (dim d.dims i)) &&
  decide (d.group ≤ 3) && scaleOk d.dtype d.group d.scaleH d.rowH

/-- A descriptor from its 64 bytes; none where a field is reserved and not 0, or the scope is 3. -/
def parseDesc (l : List Byte) : Option Desc :=
  let f := leAt l 6 2
  if f / 16 == 0 && f / 4 % 4 != 3 && zeroAt l 49 52 && zeroAt l 60 64 then
    some {
      handle := leAt l 0 4, dtype := leAt l 4 1, rank := leAt l 5 1
      transposed := bitAt 0 f, dynamic := bitAt 1 f, scope := f / 4 % 4
      dims := (List.range 5).map fun i => leAt l (8 + 4 * i) 4
      maxima := (List.range 5).map fun i => leAt l (28 + 4 * i) 4
      group := leAt l 48 1, scaleH := leAt l 52 4, rowH := leAt l 56 4 }
  else none

/-- Dimensions at the static values or the planned maxima. -/
def Desc.maxDims (d : Desc) : List Nat :=
  (List.range d.rank).map fun i => if dynDim (dim d.dims i) then dim d.maxima i else dim d.dims i

/-- Capacity of one copy (R244). -/
def Desc.capacity (d : Desc) : Nat :=
  (rowsOf d.maxDims * rowBytes d.dtype (dim d.maxDims 0) + 63) / 64 * 64

/-- Bytes of a scale stream (R132) and of a row-scale buffer (R133) for given dimensions. -/
def streamBytes (g : Nat) (dims : List Nat) : Nat :=
  64 * ((rowsOf dims * ceilDiv (dim dims 0) (groupSize g) + 15) / 16)
def rowScaleBytes (dims : List Nat) : Nat := 8 * rowsOf dims

/-! ### Operand words -/

/-- Kinds of operand word (R89): descriptor, value, raw with the bits it defines, unused. -/
inductive WK where
  | d | v | r (mask : Nat) | z
  deriving DecidableEq, Repr

def rAll : WK := .r 0xFFFFFFFF
def pad6 (l : List WK) : List WK := (l ++ List.replicate 6 WK.z).take 6

/-- The operand words of an opcode and sub-operation, given the flag bits that make operands present; none for a
sub-operation that the opcode does not define. `p` is set for a command of a program image. -/
def opWords (p : Bool) (op sub flags : Nat) : Option (List WK) :=
  let b4 := bitAt 4 flags
  let b5 := bitAt 5 flags
  let opt (b : Bool) (k : WK) : WK := if b then k else .z
  let only (n : Nat) (l : List WK) : Option (List WK) := if sub ≤ n then some (pad6 l) else none
  match op with
  | 0x0001 | 0x0002 | 0x0009 | 0x000C => only 0 []
  | 0x0003 | 0x0004 => only 0 [.r 0xFF, .v]
  | 0x0005 => if sub == 0 then only 0 [rAll, rAll] else only 1 [.v]
  | 0x0006 => only 6 [.v, .v, rAll]
  | 0x0007 => only 0 [.v, rAll, rAll]
  | 0x0008 => only 0 [rAll]
  | 0x000A => only 11 [.r 0x1F, .v, .v]
  | 0x000B =>
    if (1 ≤ sub && sub ≤ 7) || sub == 0xB then
      some (pad6 [.d, .v, .v, opt (sub == 7) .v, opt (sub == 7) .v])
    else none
  | 0x000D => only 0 [rAll, rAll, rAll, rAll, rAll]
  | 0x1001 => only 0 [.d, .d, .d, opt b5 .d, .v, opt (bitAt 3 flags) .d]
  | 0x1002 => only 0 [.d, .d, .d, opt b5 .d, rAll, opt (bitAt 3 flags) .d]
  | 0x1003 => only 0 [.d, .d, .d, opt b5 .d, rAll]
  | 0x1004 => only 0 [.d, .d, .d, .d, .v, opt b5 .d]
  | 0x1010 => only 0 [.d, .d, .r 0x7FFF]
  | 0x1011 => only 1 [.d, .d, opt (sub == 1) .v]
  | 0x1012 => only 1 [.d, .v, opt (sub == 1) .v, opt (sub == 1) .v]
  | 0x2001 =>
    let un := sub == 6 || sub == 7 || sub == 8 || sub == 19
    only 22 [.d, if un then .z else if b4 then .v else .d, .d, opt b5 .d, .z, opt (sub == 3) .d]
  | 0x2002 => only 7 [.d, .d, opt b5 .d, .z, .r 0x3F]
  | 0x2003 => only 1 [.d, .d, .d, opt b4 .d, .r 0x3F]
  | 0x2004 => only 1 [.d, .d, .d, .v]
  | 0x2005 => only 6 [.d, .d, opt b5 .d]
  | 0x2006 => only 1 [.d, .d, .d, .v, opt b5 .d]
  | 0x2007 => only 0 [.d, .d, .d, .v, .r 0x3F, opt b4 .d]
  | 0x2008 => only 0 [.d, .d, opt b4 .d, .v, .r 0x3F]
  | 0x2009 => only 4 [.d, .d, .z, .z, opt (sub < 3) rAll]
  | 0x200A => only 1 [.d, .d, opt b4 .d, opt b5 .d, .v]
  | 0x200B => only 0 [.d, .d, opt b5 .d, .z, opt b4 .v]
  | 0x200C => only 3 [.d, .d, opt b5 .d]
  | 0x3001 | 0x3003 => only 1 [.d, .d]
  | 0x3002 | 0x3004 => only 0 [.d, .d]
  | 0x4001 => only 0 [rAll, rAll, .r 0xFFF]
  | 0x4002 => only 0 [.r 0xFFF, rAll, rAll, rAll]
  | 0x4003 | 0x4004 => only 0 [.r 0xFFF]
  | 0x4005 =>
    only 2 [.d, .d, .r 0x1FF, if sub == 1 then rAll else opt (sub == 2) (.r 0x3F),
      if sub == 1 then rAll else opt (sub == 2) (.r 0x3F), opt (sub == 2 && b4) .d]
  | 0x4006 => only 1 [opt (sub == 0) .d, opt (sub == 0) .v]
  | 0x4007 => only 0 [.r 0x3FFFFF03, .v, .v, .v, .v, .d]
  | 0x4008 => only 0 []
  | 0x4009 => only 2 [.d, .d]
  | 0x5001 => only 0 [.r 3, .d, opt b4 .d]
  | 0x5002 => if sub == 0 then only 0 [.r 3, rAll, rAll] else if sub == 1 then only 1 [.r 3, .v] else only 2 [.r 3]
  | 0x5003 => only 0 [.r 3, .d, .d, .d, .r 0x3F, opt b4 .d]
  | 0x5004 => only 1 [.d, .d, .d, .v, .d, .d]
  | 0x5005 =>
    if sub == 0 then only 0 [.r 0x107, rAll, rAll, .r 0xFF, rAll, .r 0xFFFF]
    else if sub == 1 then only 1 [.r 7, .z, .z, .z, .r 0x3F]
    else if sub == 2 then only 2 [.r 7, .v]
    else only 3 [.r 7, .v, .v]
  | 0x6001 => only 0 [rAll, rAll, .r 0x73]
  | 0x6002 => if sub == 0 then only 0 [rAll] else only 1 [rAll, rAll, .r 0x80000FFF]
  | 0x6003 | 0x6004 => only 0 [if p then .d else rAll, rAll, rAll, .v, .v]
  | 0x6005 => only 0 [rAll, .r 0xF03]
  | 0x7001 | 0x7007 => only 0 [rAll, rAll, .r 0x1F0F]
  | 0x7002 => only 0 [.r 0xF]
  | 0x7003 => only 0 [rAll, rAll, rAll]
  | 0x7004 => only 0 []
  | 0x7005 => if sub == 0 then only 0 [rAll, rAll, rAll] else only 1 [rAll]
  | 0x7006 => if sub == 0 then only 0 [rAll, .r 0xFFF, .r 7, rAll, rAll] else only 1 [rAll]
  | 0x8001 | 0x8002 => only 255 [rAll]
  | 0x8003 => if sub == 1 then only 1 [.r 7, rAll, rAll, rAll, rAll] else only 3 [.r 7]
  | 0x8004 => only 1 [.r 0x7E, rAll, rAll, rAll]
  | 0x8005 => only 0 [.r 0x7E]
  | 0x8006 => if sub == 0 then only 0 [rAll, rAll] else only 1 [rAll, rAll, rAll]
  | 0x8007 => only 1 [rAll, rAll]
  | 0x8008 => only 1 [rAll, rAll, rAll]
  | 0x8009 => only 2 [rAll, rAll, rAll, rAll]
  | 0x800A => if sub == 0 then only 0 [rAll, rAll, rAll] else only 1 []
  | 0x800B => if sub == 0 then only 0 [.r 0xFF] else only 1 []
  | _ => none

/-- Flag bits that an opcode defines besides bits 0 and 1 (R90, R145, R159 and the operand tables). Bit 4 of SHAPE is taken as
defined under sub-operation 2 alone, where its effect lies (Table 12-1; DESIGN CHOICE, log 52). -/
def opFlags (op sub : Nat) : Nat :=
  match op with
  | 0x1001 | 0x1002 => 0xFC
  | 0x1003 => 0xF4
  | 0x1004 => 0x34
  | 0x2001 => 0x74
  | 0x2002 => 0xE4
  | 0x2003 | 0x2004 | 0x2007 | 0x2008 => 0x10
  | 0x2005 | 0x2006 => 0x20
  | 0x2009 => 0x04
  | 0x200A | 0x200B => 0x34
  | 0x200C => 0x24
  | 0x3001 | 0x3002 | 0x3003 | 0x3004 => 0x04
  | 0x4002 => 0x10
  | 0x4005 => if sub == 2 then 0x14 else 0x04
  | 0x5001 => 0x30
  | 0x5003 => 0x10
  | 0x5004 => 0x04
  | _ => 0

/-- Permitted sources of an opcode (Table 4-1): program, ring, queue 0 only. -/
structure Sources where
  p : Bool
  q : Bool
  a : Bool
  deriving DecidableEq, Repr

def opSources (op : Nat) : Sources :=
  if op ∈ [0x0001, 0x0002, 0x0003, 0x0004, 0x5002, 0x5005, 0x6003, 0x6004] then ⟨true, true, true⟩
  else if op ∈ [0x0005, 0x0006, 0x0007, 0x0008, 0x0009, 0x000A, 0x000B, 0x000C, 0x1001, 0x1002, 0x1003, 0x1004, 0x1010,
      0x1011, 0x1012, 0x2001, 0x2002, 0x2003, 0x2004, 0x2005, 0x2006, 0x2007, 0x2008, 0x2009, 0x200A, 0x200B, 0x200C,
      0x3001, 0x3002, 0x3003, 0x3004, 0x4005, 0x4006, 0x4007, 0x4008, 0x4009, 0x5001, 0x5003, 0x5004] then
    ⟨true, false, false⟩
  else if op ∈ [0x000D, 0x4001, 0x4002, 0x4003, 0x4004, 0x6001, 0x6002, 0x6005, 0x7003, 0x7004, 0x7005, 0x7006] then
    ⟨false, true, true⟩
  else if op ∈ [0x7001, 0x7002, 0x7007, 0x8001, 0x8002, 0x8003, 0x8004, 0x8005, 0x8006, 0x8007, 0x8008, 0x8009, 0x800A,
      0x800B] then ⟨false, false, true⟩
  else ⟨false, false, false⟩

def cmdWords (c : Cmd) : List Nat := [c.w0.toNat, c.w1.toNat, c.w2.toNat, c.w3.toNat, c.w4.toNat, c.w5.toNat]

/-- No reserved field of a command is set: sub-operation, flags, unused words, unused bits of raw words, the modifier
of a descriptor operand (R11, R89, R90); a program command also has no tag and no flag bit 1. -/
def cmdClean (p : Bool) (op : Nat) (c : Cmd) : Bool :=
  let f := c.flags.toNat
  match opWords p op c.sub.toNat f with
  | none => false
  | some l =>
    (f &&& (if p then 0x01 else 0x03) ||| f &&& opFlags op c.sub.toNat) == f && (!p || c.tag == 0) &&
    (l.zip (cmdWords c)).all fun e =>
      match e.1 with
      | .d => e.2 / 65536 == 0 || e.2 / 65536 == 0x8000
      | .v => true
      | .r m => e.2 &&& m == e.2
      | .z => e.2 == 0

/-- A value word names a scalar of the instance (R89). -/
def scalarRef (w : Nat) : Option Nat := if 0x80000000 ≤ w && w < 0x80000020 then some (w - 0x80000000) else none

/-- Some value word of a command refers to a scalar, which no ring command may do (R89). -/
def cmdHasScalar (p : Bool) (op : Nat) (c : Cmd) : Bool :=
  match opWords p op c.sub.toNat c.flags.toNat with
  | none => false
  | some l => (l.zip (cmdWords c)).any fun e => e.1 == .v && (scalarRef e.2).isSome

/-- Present descriptor words of a command, and which of them are outputs; word 0 and 2 of OPTIM_STEP are both. -/
def dWords (op sub flags : Nat) : List Nat :=
  match opWords true op sub flags with
  | none => []
  | some l => (List.range 6).filter fun i => l.getD i .z == .d

def outWords (op _sub flags : Nat) : List Nat :=
  match op with
  | 0x1001 | 0x1002 | 0x1003 | 0x2001 | 0x2004 | 0x2007 => [2]
  | 0x1004 => [3]
  | 0x1010 | 0x1011 | 0x2002 | 0x2005 | 0x2009 | 0x200A | 0x200B | 0x200C => [1]
  | 0x3001 | 0x3002 | 0x3003 | 0x3004 => [1]
  | 0x1012 | 0x6003 => [0]
  | 0x2003 => if bitAt 4 flags then [2, 3] else [2]
  | 0x2006 => [1, 2]
  | 0x2008 => if bitAt 4 flags then [1, 2] else [1]
  | 0x4005 => if bitAt 4 flags then [0, 5] else [0]
  | 0x4009 => [0, 1]
  | 0x5003 => if bitAt 4 flags then [1, 2, 3, 5] else [1, 2, 3]
  | 0x5004 => [0, 2, 4]
  | _ => []

def inWords (op sub flags : Nat) : List Nat :=
  (dWords op sub flags).filter fun w => !(outWords op sub flags).contains w || (op == 0x5004 && w != 4)

/-- The scalar that a command writes: its number, when its write enable is set (R218). -/
def scalarOut (op sub : Nat) (w4 : Nat) : Option Nat :=
  if (op ∈ [0x2002, 0x2003, 0x2007, 0x2008, 0x5003] || (op == 0x4005 && sub == 2) || (op == 0x5005 && sub == 1)) &&
      bitAt 5 w4 then some (w4 % 32) else none

/-! ### Elements, scales and rows -/

/-- A tensor as a command sees it: type, resolved dimensions, contents of its copy and of its scale copies. -/
structure View where
  dtype : Nat
  dims  : List Nat
  trans : Bool := false
  group : Nat := 0
  data  : Memory := []
  scale : Memory := []
  rowS  : Memory := []
  hasRow : Bool := false
  deriving DecidableEq, Repr

def View.d0 (v : View) : Nat := dim v.dims 0
def View.rows (v : View) : Nat := rowsOf v.dims

/-- Bits `pos` onward, `n` of them, of a row that starts at byte `base`. -/
def readBits (m : Memory) (base pos n : Nat) : Nat :=
  leNat (Memory.read m (base + pos / 8) ((pos % 8 + n + 7) / 8)) / 2 ^ (pos % 8) % 2 ^ n

/-- Code of element `j` of a stored row (R127). -/
def View.codeAt (v : View) (d0 row j : Nat) : Nat :=
  readBits v.data (row * rowBytes v.dtype d0) (j * bitsOf v.dtype) (bitsOf v.dtype)

/-- Code of element `j` of row `r` as the command uses the tensor; a TRANSPOSED one is stored with dimensions 0 and 1
exchanged (R166). -/
def View.code (v : View) (r j : Nat) : Nat :=
  if v.trans then
    let d1 := dim v.dims 1
    v.codeAt d1 (j + v.d0 * (r / d1)) (r % d1)
  else v.codeAt v.d0 r j

/-- Group index of R131. -/
def View.groupIx (v : View) (r j : Nat) : Nat :=
  r * ceilDiv v.d0 (groupSize v.group) + j / groupSize v.group

/-- Scale and zero point of a position (Table 5-4, R133); scale 1 and zero point 0 where there are none. -/
def View.scaleAt (v : View) (r j : Nat) : FVal × Nat :=
  if v.group != 0 then
    let g := v.groupIx r j
    let base := 64 * (g / 16)
    let k := g % 16
    if isMX v.dtype then
      let x := (Memory.byte v.scale (base + k)).toNat
      (if x == 0xFF then .nan else .fin false 1 ((x : Int) - 127), 0)
    else
      let s := fFP16.decode (leNat (Memory.read v.scale (base + 2 * k) 2))
      let z := if v.dtype == 1 then (Memory.byte v.scale (base + 32 + k)).toNat
        else if v.dtype == 2 then (Memory.byte v.scale (base + 32 + k / 2)).toNat / 16 ^ (k % 2) % 16 else 0
      (s, z)
  else if v.hasRow then
    let s := f32 (leNat (Memory.read v.rowS (8 * r) 4))
    let z := (Memory.byte v.rowS (8 * r + 4)).toNat
    (s, if v.dtype == 1 then z else if v.dtype == 2 then z % 16 else 0)
  else (.one, 0)

/-- Value of an element without its scale (Table 5-1, R128). -/
def elemVal (t z code : Nat) : FVal :=
  if isU t then .ofInt ((code : Int) - z)
  else if t == 0xA then
    let i := signed 8 code
    .fin (decide (i < 0)) i.natAbs (-6)
  else if t == 0xE then .ofInt (signed 32 code)
  else if t == 0xF then .ofInt (signed 16 code)
  else if isBytes t then .ofInt code
  else (fmtOf t).decode code

/-- Real value of Table 5-1. -/
def View.real (v : View) (r j : Nat) : FVal :=
  let s := v.scaleAt r j
  let e := elemVal v.dtype s.2 (v.code r j)
  if v.group != 0 || v.hasRow then e.mul s.1 else e

/-- Real value in FP32. -/
def View.val (v : View) (r j : Nat) : FVal := r32 false (v.real r j)

/-- The code that R129 synthesises at a position. -/
def View.synth (v : View) (r j : Nat) : Nat := if isU v.dtype then (v.scaleAt r j).2 else 0

/-- Some scale block that some rows use below position `len` carries a wrong tag (R136). -/
def View.badTagIn (v : View) (rows : List Nat) (len : Nat) : Bool :=
  v.group != 0 && len != 0 && rows.any fun r =>
    (List.range (ceilDiv (min len v.d0) (groupSize v.group))).any fun i =>
      let b := (r * ceilDiv v.d0 (groupSize v.group) + i) / 16
      leNat (Memory.read v.scale (64 * b + 62) 2) != b % 65536

/-- The same for every row. -/
def View.badTag (v : View) (len : Nat) : Bool := v.badTagIn (List.range v.rows) len

/-- Bytes of a row from its element codes, pad written as 0 (R127). -/
def packRow (t : Nat) (codes : List Nat) : List Byte :=
  leBytes (rowBytes t codes.length) (codes.foldr (fun c acc => c + acc * 2 ^ bitsOf t) 0)

/-- Contents of a tensor from the codes of its rows. -/
def packRows (t : Nat) (rows : List (List Nat)) : List Byte := rows.flatMap (packRow t)

/-- Bit `j` of row `i` of an element mask (R216), and bit `r` of a row mask. -/
def maskBit (m : Memory) (d0 i j : Nat) : Bool := bitAt (j % 8) (Memory.byte m (i * ((d0 + 7) / 8) + j / 8)).toNat
def rowMaskBit (m : Memory) (r : Nat) : Bool := bitAt (r % 8) (Memory.byte m (r / 8)).toNat

/-- Bytes of a row of bits, pad 0. -/
def packBits (l : List Bool) : List Byte :=
  leBytes ((l.length + 7) / 8) (l.foldr (fun b acc => b.toNat + 2 * acc) 0)

/-- Row-scale entry of R133. -/
def rowEntry (s : Nat) (z : Nat) (flat : Bool) : List Byte :=
  leBytes 4 s ++ leBytes 1 z ++ leBytes 1 flat.toNat ++ zeros 2

/-- The row-scale entry of a row as the A16 writes it on, reserved bits 0 (R133, R134). -/
def View.scaleEntry (v : View) (r : Nat) : List Byte :=
  let z := (Memory.byte v.rowS (8 * r + 4)).toNat
  rowEntry (leNat (Memory.read v.rowS (8 * r) 4)) (if v.dtype == 1 then z else if v.dtype == 2 then z % 16 else 0)
    (bitAt 0 (Memory.byte v.rowS (8 * r + 5)).toNat)

/-- A scale stream from the scales and zero points of its groups, tags included, reserved bytes 0 (R132, R134). -/
def packScales (t : Nat) (gs : List (Nat × Nat)) : List Byte :=
  (List.range ((gs.length + 15) / 16)).flatMap fun b =>
    let g := (gs.drop (16 * b)).take 16
    let g := g ++ List.replicate (16 - g.length) (0, 0)
    let sc := if isMX t then (g.flatMap fun x => leBytes 1 x.1) ++ zeros 16 else g.flatMap fun x => leBytes 2 x.1
    let zp := if t == 1 then g.flatMap fun x => leBytes 1 x.2
      else if t == 2 then (List.range 8).flatMap (fun k =>
        leBytes 1 ((g.getD (2 * k) (0, 0)).2 + 16 * (g.getD (2 * k + 1) (0, 0)).2)) ++ zeros 8
      else zeros 16
    sc ++ zp ++ zeros 14 ++ leBytes 2 (b % 65536)

end Sys2Proof.Machine
end

