-- ==== Sys2Proof/Machine/Insts.lean ====
section
/-! DEFINITION. The life of a program instance: late count (R41), its records (Table 15-1), its end and completion
(R92, R96, R97, R104), abandonment with a CHAFF record (R42, R82, R118, R311). -/

namespace Sys2Proof.Machine

/-- Decode and clip step sequences and weight-sharing runs belong to no command. -/
def Run.internal (r : Run) : Bool :=
  match r.post with
  | .decode .. | .clip .. | .share .. | .carry .. => true
  | _ => false

/-- A run of an instance. -/
def Run.ofInst (r : Run) (id : Nat) : Bool :=
  !r.dead && !r.internal && match r.src with
  | .inst i _ => i == id
  | .ring _ => false

def Run.ofRing (r : Run) (q : Nat) : Bool :=
  !r.dead && !r.internal && match r.src with
  | .ring k => k == q
  | .inst .. => false

/-- Late count: boundaries between the home tick and `now` (R41); gleaning work has none (R45). -/
def Inst.late (i : Inst) (now : Nat) : Nat := if i.lc then now - i.home.getD now else 0

/-- The low 32 bits of S0. -/
def Inst.s0 (i : Inst) : Nat := (Tab.get 0 i.scalars 0).toNat % 2 ^ 32

/-- Header of a record of an instance (Table 15-1). -/
def Inst.record (i : Inst) (now rtype flags : Nat) (status : Option Status) (payload : List Byte) : Rec :=
  { rtype := rtype, flags := flags
    stream := match i.pic with
      | some p => p.1
      | none => 0xFFFF
    part := i.part, late := i.late now % 256, tick := now
    prog := handleOf i.part i.prog
    inst := if i.binding.isSome then i.s0 else i.tag.toNat
    status := status.getD (if i.late now == 0 then .ok else .late)
    payload := payload }

/-- The grains of an instance with those of its commands in flight (R492). -/
def Core.withRuns (c : Core) (i : Inst) : Inst :=
  (c.runs.filter fun r => r.ofInst i.id).foldl (fun i r =>
    { i with planned := i.planned + r.planned, measured := i.measured + r.measured }) i

/-- Grains that the running steps of a run have drawn when its command stops: free values (R492). -/
def Core.drawn (c : Core) (r : Run) : Core × Run :=
  if r.active.isEmpty then (c, r)
  else
    let d := c.draw
    (d.2, { r with measured := r.measured + (List.range r.active.length).foldl (fun n k => n + Config.freeNat d.1 k) 0 })

/-- A CHAFF record, Table 15-5. A completion always follows it. -/
def Core.chaff (c : Core) (now cause : Nat) (i : Inst) : Core :=
  let i := c.withRuns i
  c.putRec i.queue false (i.record now 0x08 0 (some .abandoned)
    (leBytes 1 cause ++ zeros 1 ++ leBytes 2 ((i.binding.map (· % 4096)).getD 0xFFFF) ++ zeros 4 ++ leBytes 8 (i.home.getD now) ++
      leBytes 4 (toGrains i.planned) ++ leBytes 4 (min 0xFFFFFFFF i.measured) ++ zeros 8))

/-- DAMAGED in the slots that an instance's puts still hold (R347). -/
def Core.damagePuts (c : Core) (i : Inst) : Core :=
  c.updPart i.part fun p =>
    { p with caches := Tab.mapAll {} p.caches fun _ k =>
        { k with
          slots := listSet k.slots (·.inst == i.id) fun s => { s with damaged := true }
          pend := listSet k.pend (·.inst == i.id) fun s => { s with damaged := true } } }

/-- Releases what lives as long as an instance: its copies (R110), and those of a binding that has ended. -/
def Core.dropInst (c : Core) (i : Inst) : Core :=
  let insts := c.insts.filter (·.id != i.id)
  let runs := c.runs.filterMap fun r => if r.ofInst i.id then r.over else some r
  let gone (k : CopyKey) : Bool :=
    match k with
    | .inst x => x == i.id
    | .binding b => i.binding == some b && !(c.bindings.any (·.num == b)) && !(insts.any (·.binding == some b))
    | .shared => false
  { c with insts := insts, runs := runs, copies := c.copies.filter fun x => !(x.part == i.part && gone x.key) }

/-- An instance ends with a status and a detail word: its one completion (R92), with the tick in which its last step has ended, or,
where none ran, this one (R96). -/
def Core.endInst (c : Core) (now : Nat) (i : Inst) (st : Status) (detail : Nat) : Core :=
  let i := c.withRuns i
  let c := if st == .ok || st == .late then c else c.damagePuts i
  let c := match i.binding, i.pic with
    | some b, some p => c.missClip now b p.2
    | _, _ => c
  let c := c.dropInst i
  let c := if i.lc then c.health i.part fun h =>
      { h with
        late := if st == .late then h.late + 1 else h.late
        abandoned := if st == .abandoned then h.abandoned + 1 else h.abandoned } else c
  let x : Cpl := { tag := i.tag.toNat, status := st, tick := i.lastEnd.getD now, planned := toGrains i.planned
                   measured := min 0xFFFFFFFF i.measured, detail := detail, inst := true }
  match i.binding with
  | some _ => c.completeBound i.queue x
  | none => c.completeLate i.queue 0x000D i.want x

/-- Ends an instance with the first failure in program order, when there is one (R104), or else with a status whose
failing command the manual does not name: its detail is a free value (R97, log 18). -/
def Core.failInst (c : Core) (now : Nat) (i : Inst) (st : Status) : Core :=
  match i.failed with
  | some (ix, op, s, _) => c.endInst now i s (op * 65536 + ix)
  | none => let d := c.draw; d.2.endInst now i st (Config.freeNat d.1 0 % 2 ^ 32)

/-- Abandons an instance with a CHAFF record of the given cause; what its running steps have drawn counts (R492). -/
def Core.abandon (c : Core) (now cause : Nat) (i : Inst) : Core :=
  let c := (c.runs.filter fun r => r.ofInst i.id && !r.dead).foldl (fun c r => let d := c.drawn r; d.1.updRun r.id fun _ => d.2) c
  (c.chaff now cause i).failInst now i .abandoned

/-- An instance that has reached its end and has no command left completes (R104). -/
def Core.settle (c : Core) (now id : Nat) : Core :=
  match c.inst? id with
  | none => c
  | some i =>
    if !i.halted || !i.todo.isEmpty || c.runs.any (·.ofInst id) then c
    else
      match i.failed with
      | some (ix, op, s, _) => c.endInst now i s (op * 65536 + ix)
      | none => c.endInst now i (if i.late now == 0 then .ok else .late) (i.late now % 256)

/-- Records the failure of command `idx`, keeping the first in program order (R104). -/
def Inst.noteFail (i : Inst) (idx op : Nat) (st : Status) (detail : Nat) : Inst :=
  { i with
    failed := match i.failed with
      | some (ix, o, s, d) => if ix ≤ idx then some (ix, o, s, d) else some (idx, op, st, detail)
      | none => some (idx, op, st, detail) }

/-- A binding is in force for a stream context: one that ends is so until the next build (R100). -/
def Core.bound (c : Core) (ctx : Nat) : Bool := c.bindings.any fun b => b.ctx == ctx

end Sys2Proof.Machine
end

