-- ==== Sys2Proof/Machine/StreamOps.lean ====
section
/-! DEFINITION. Stream contexts: feeding, random access points, parsing, stops and draining (R295 to R313, R502,
R503). -/

namespace Sys2Proof.Machine

/-! ### Pictures -/

/-- Capacity of the bitstream buffer in bytes. -/
def Ctx.cap (x : Ctx) : Nat := x.bufUnits * 65536
/-- Bytes of complete access units still in the buffer. -/
def Ctx.held (x : Ctx) : Nat := x.fill - x.open_

/-- DRAM segments of a context (R299). -/
def streamSegs (maxW maxH depth refs units : Nat) : Nat :=
  let w := (maxW + 63) / 64 * 64
  let h := (maxH + 63) / 64 * 64
  let bps := if depth > 8 then 2 else 1
  let slot := w * h * bps * 3 / 2 + w * h / 4
  (slot * (refs + 2) + units * 65536 + 2097151) / 2097152
def Ctx.segs (x : Ctx) : Nat := streamSegs x.maxW x.maxH x.depth x.refs x.bufUnits

/-- Counts discarded bytes (R302, R311); STREAM_STATUS reports the tick (R313). -/
def Ctx.discard (x : Ctx) (n : Nat) : Ctx :=
  if n == 0 then x else { x with discarded := satAdd 0xFFFFFFFF x.discarded n, fill := x.fill - n, event := true }

def Ctx.updPic (x : Ctx) (n : Nat) (f : Pic → Pic) : Ctx := { x with pics := listSet x.pics (·.num == n) f }

/-- A picture still matters: buffered, a reference, or in use by an instance or a clip (R308). -/
def Core.picUsed (c : Core) (k : Nat) (p : Pic) : Bool :=
  !p.decoded || p.isRef || c.insts.any (·.pic == some (k, p.num)) ||
    c.clips.any fun x => x.ctx == k && (x.taken.contains p.num || x.cur == some p.num)

/-- An instance has a SHAPE or MOTION_EXPORT of its picture in flight, waiting or still to reach: one of the commands from the first
that is not passed on, or of its whole program where a jump may lead back. -/
def Core.readsPic (c : Core) (i : Inst) : Bool :=
  let reads (op : Nat) : Bool := op == 0x4005 || op == 0x4009
  let cmds := (c.prog? i.part i.prog).elim [] (·.cmds)
  let rest := cmds.drop i.pc
  let back := !i.loops.isEmpty || !i.calls.isEmpty || rest.any fun x => x.1 == 0x0006 || x.1 == 0x0008
  (c.runs.any fun r => reads r.op && r.ofInst i.id) ||
    (i.todo.any fun t => cmds[t.idx]?.any fun x => reads x.1) ||
    (!i.halted && (if back then cmds else rest).any fun x => reads x.1)

/-- A picture holds a slot of the reference store (R308): from its first decode step until it is no reference and no command of its
instances reads it any more; a clip that takes it reads it too (R338). -/
def Core.holdsSlot (c : Core) (k : Nat) (p : Pic) : Bool :=
  p.slot && (!p.decoded || p.isRef || (c.insts.any fun i => i.pic == some (k, p.num) && c.readsPic i) ||
    c.clips.any fun x => x.ctx == k && (x.taken.contains p.num || x.cur == some p.num))

/-- Drops the pictures that matter no more; these hold no slot (R308). -/
def Core.prunePics (c : Core) (k : Nat) : Core :=
  c.updCtx k fun x => { x with pics := x.pics.filter fun p => c.picUsed k p }

/-- Windows of decode (R305): steps, nominal ns, and the window in µs for a ratio. -/
def decSteps (s : Nat) : Nat := (s + 92999) / 93000
def decNom (s : Nat) : Nat := s + 250 * decSteps s
def decWindow (s : Nat) (r : Rat) : Nat := (Rat.floor (((decNom s : Rat) * max 1 r + 999) / 1000)).toNat

/-- A value in 1/256, cut down (log 20). -/
def in256 (r : Rat) : Nat := min 0xFFFF (Rat.floor (r * 256)).toNat

/-! ### Stops -/

/-- A waiting feed completes with STATE when its context leaves OPEN and RUNNING (R301). -/
def Core.failFeed (c : Core) (now k : Nat) : Core :=
  let x := c.ctx k
  match x.waitFeed with
  | none => c
  | some (cmd, _) =>
    ((c.updCtx k fun y => { y with waitFeed := none }).updQ x.queue fun y =>
      { y with fetched := y.fetched.filter fun f => !(f.op == 0x4002 && f.cmd == { cmd with rd := .ok }) }).complete x.queue true
      { tag := cmd.tag.toNat, status := .state, tick := now, detail := cstateCode x.state }

/-- Instances of a stream whose picture is not fully decoded. -/
def Core.undecoded (c : Core) (k : Nat) : List Inst :=
  c.insts.filter fun i =>
    match i.pic with
    | some p => p.1 == k && !((c.ctx k).pics.any fun x => x.num == p.2 && x.decoded) &&
        (c.ctx k).pics.any fun x => x.num == p.2
    | none => false

/-- Ends the decode runs of a stream that `p` selects. -/
def Core.dropDecodes (c : Core) (k : Nat) (p : Run → Bool) : Core :=
  { c with runs := c.runs.filterMap fun r =>
      match r.post with
      | .decode x _ => if x == k && p r then r.over else some r
      | _ => some r }

/-- A stop reason is found (R310): STOPPED from OPEN and RUNNING (Table 11-1), the undecoded instances end, the bytes before the stop point leave the
buffer, clips of the stream end. The offset of a stop at a parse is a free value (log 19): no rule states it. -/
def Core.stopStream (c : Core) (now k reason pic : Nat) (off : Option Nat) : Core :=
  let d := c.draw
  let c := d.2.updCtx k fun x =>
    { x with
      state := if x.state == .opened || x.state == .running then .stopped else x.state
      reason := reason, errPic := pic, event := true
      errOff := off.getD (Config.freeNat d.1 0 % 0xFFFFFFFF)
      fill := x.fill - (off.getD 0)
      pics := listSet x.pics (·.num == pic) fun p => { p with bytes := p.bytes - off.getD 0 } }
  let c := c.dropDecodes k fun _ => true
  let c := (c.undecoded k).foldl (fun c i =>
    c.endInst now i (if reason == 7 then .dataLost else .streamDamaged) 0x4002FFFF) c
  let c := { c with clips := c.clips.map fun (x : Clip) => if x.ctx == k && x.ending.isNone then { x with stopped := true } else x }
  (c.finishClips now 3 fun x => x.ctx == k).failFeed now k

/-- Limits declared at STREAM_OPEN (R304). -/
def Ctx.within (x : Ctx) (a : AuInfo) : Bool :=
  decide (a.width ≤ x.maxW) && decide (a.height ≤ x.maxH) && decide (a.depth ≤ x.depth) && decide (a.refs ≤ x.refs)

/-- Sample formats of a codec (Table 11-4): 4:2:0 or monochrome, 8 bit, in H.265 and AV1 10 bit too. -/
def depthOk (codec depth : Nat) : Bool := depth == 8 || (depth == 10 && (codec == 2 || codec == 3))

/-- Parameter sets that Table 11-4 supports, by codec. An excluded tool is supported in none; those of H.264's Baseline profile are
among them, so a Baseline stream that uses none is like a Constrained one. -/
def paramsOk (p : Params) (codec : Nat) : Bool :=
  p.tools.isEmpty &&
    match codec with
    | 1 => p.profile ∈ [66, 77, 100] && decide (p.level ≤ 52) && decide (p.chroma ≤ 1)
    | 2 => decide (p.level ≤ 61) &&
        (((p.profile ∈ [1, 2] || p.compat.any (· ∈ [1, 2])) && p.chroma == 1) || (p.profile == 4 && p.flags && p.chroma == 0))
    | 3 => p.profile == 0 && decide (p.level ≤ 61) && decide (p.chroma ≤ 1)
    | _ => decide (p.chroma ≤ 1)

/-- A format, profile, level or tool outside Table 11-4 (R303). -/
def Ctx.unsupported (x : Ctx) (a : AuInfo) : Bool := !depthOk x.codec a.depth || a.params.any fun p => !paramsOk p x.codec

/-- The parse of an access unit (R502): its reason to stop, if any. Where several apply, a reason of the syntax stands before
UNSUPPORTED, and that before LIMIT (DESIGN CHOICE, log 52). -/
def Ctx.parseBad (x : Ctx) (a : AuInfo) : Option Nat :=
  match a.bad with
  | some r => some r
  | none => if x.unsupported a then some 4 else if x.within a then none else some 5

/-- Parses the buffered access units of a bound stream that are not parsed yet, in decode order, until one stops it. -/
def Core.parsePics (c : Core) (now k : Nat) : List Pic → Core
  | [] => c
  | p :: r =>
    if p.parsed then Core.parsePics c now k r
    else
      match (c.ctx k).parseBad p.info with
      | some why => (c.updCtx k fun x => x.updPic p.num fun q => { q with parsed := true }).stopStream now k why p.num none
      | none => Core.parsePics (c.updCtx k fun x => x.updPic p.num fun q => { q with parsed := true }) now k r

def Core.parseCtx (c : Core) (now k : Nat) : Core :=
  let x := c.ctx k
  if (x.state == .opened || x.state == .running) && c.bound k then c.parsePics now k x.pics else c

/-! ### Random access -/

/-- What an access unit can be in a codec (Table 11-5): a recovery point only in H.264, a RASL picture only in H.265, and every JPEG
image is a random access point. -/
def AuKind.under (k : AuKind) (codec : Nat) : AuKind :=
  match k with
  | .recovery n => if codec == 1 then .recovery n else if codec == 4 then .rap else .plain
  | .rasl => if codec == 2 then .rasl else if codec == 4 then .rap else .plain
  | k => if codec == 4 then .rap else k

def AuKind.isRap (k : AuKind) : Bool :=
  match k with
  | .rap | .recovery _ => true
  | _ => false

/-- In OPEN, before decoding has started: data ahead of the first random access point goes; with no binding in force,
only the data from the latest one onward stays (R302). -/
def Ctx.scan (x : Ctx) (bound : Bool) : Ctx :=
  if x.state != .opened || x.synced then x
  else
    let mine (p : Pic) : Bool := p.made || p.started || p.decoded
    let cut := (x.pics.filter fun p => !mine p).dropWhile fun p => !AuKind.isRap p.info.kind
    let cut := if bound then cut else
      match (cut.reverse.takeWhile fun p => !AuKind.isRap p.info.kind),
            (cut.reverse.dropWhile fun p => !AuKind.isRap p.info.kind) with
      | tail, r :: _ => r :: tail.reverse
      | _, [] => []
    let kept := cut.map (·.num)
    let gone := (x.pics.filter fun p => !mine p && !kept.contains p.num).foldl (fun n p => n + p.bytes) 0
    { (x.discard gone) with pics := x.pics.filter mine ++ cut }

/-! ### Feeding -/

/-- How a feed of `len` bytes meets the buffer: it fits; it fills an OPEN context with no binding, so all is discarded
(R302); one access unit alone fills it (R301); or it waits. -/
inductive Fit where
  | fits | flush | oversize | waits
  deriving DecidableEq, Repr

def Core.feedFit (c : Core) (k len : Nat) : Fit :=
  let x := c.ctx k
  if x.fill + len ≤ x.cap then .fits
  else if x.state == .opened && !x.synced && !c.bound k then .flush
  else if x.open_ == x.fill then .oversize
  else .waits

/-- All buffered data is discarded; an access unit in the middle of its chunks loses its first bytes (R302). -/
def Ctx.flush (x : Ctx) : Ctx :=
  let mine (p : Pic) : Bool := p.made || p.started || p.decoded
  let n := (x.pics.filter fun p => !mine p).foldl (fun n p => n + p.bytes) 0
  { (x.discard (n + x.open_)) with
    pics := x.pics.filter mine, open_ := 0, cutAu := x.cutAu || decide (x.open_ ≠ 0), openRap := false }

/-- Kinds of access unit that a codec has (Table 11-5): recovery points are H.264's, RASL pictures H.265's, and every JPEG image
is a random access point. -/
def kindUnder (codec : Nat) (k : AuKind) : AuKind :=
  if codec == 4 then .rap
  else
    match k with
    | .recovery n => if codec == 1 then .recovery n else .plain
    | .rasl => if codec == 2 then .rasl else .plain
    | k => k

/-- The chunk's last byte has arrived (R300 to R302): bytes appended, an access unit completed, parsed and scanned. The
second result is the detail word of the STREAM_FEED. In DRAINING the bytes are discarded as they arrive (R312). -/
def Core.feedLand (c : Core) (now k len : Nat) (auEnd : Bool) (au : AuInfo) : Core × Nat :=
  let x := c.ctx k
  if x.state == .closed then (c, 0xFFFFFFFF)
  else if x.state == .draining then
    (c.updCtx k fun y => { (({ y with fill := y.fill + len } : Ctx).discard len) with
      next := if auEnd then y.next + 1 else y.next }, if auEnd then x.next % 2 ^ 32 else 0xFFFFFFFF)
  else
  let au := { au with kind := kindUnder x.codec au.kind }
  let first := x.open_ == 0 && !x.cutAu
  let x := { x with fill := x.fill + len, open_ := x.open_ + len
                    openRap := if first then AuKind.isRap au.kind else x.openRap }
  if auEnd then
    let p : Pic :=
      { num := x.next, bytes := x.open_, info := if x.cutAu then { au with kind := .plain } else au, ready := now }
    let x := { x with next := x.next + 1, open_ := 0, cutAu := false, openRap := false, pics := x.pics ++ [p] }
    let c := c.updCtx k fun _ => x.scan (c.bound k)
    let y := c.ctx k
    let c := if y.fill == y.cap && y.state == .opened && !y.synced && !c.bound k then c.updCtx k Ctx.flush else c
    (c.parseCtx now k, p.num % 2 ^ 32)
  else
    let c := c.updCtx k fun _ => x
    if x.fill == x.cap && x.state == .opened && !x.synced && !c.bound k then (c.updCtx k Ctx.flush, 0xFFFFFFFF)
    else if x.open_ == x.cap then (c.stopStream now k 6 x.next none, 0xFFFFFFFF)
    else (c, 0xFFFFFFFF)

/-! ### Decoding ends -/

/-- A picture's decode has ended (R52, R308, R302): ratio, counts, references, its bytes leave the buffer. -/
def Core.decodeDone (c : Core) (k pic : Nat) : Core :=
  let x := c.ctx k
  match x.pics.find? (·.num == pic) with
  | none => c
  | some p =>
    let r : Rat := (p.ns : Rat) / (decNom (p.info.width * p.info.height) : Rat)
    let x := { x with
      ratio := if x.firstDone then x.ratio + (r - x.ratio) / 64 else r
      firstDone := true
      decoded := x.decoded + 1
      refOnly := if p.refOnly then satAdd 0xFFFFFFFF x.refOnly 1 else x.refOnly
      fill := x.fill - p.bytes
      lastW := p.info.width, lastH := p.info.height, lastD := p.info.depth, lastPic := pic
      wroteRef := x.wroteRef || p.info.isRef
      pics := x.pics.map fun q =>
        if q.num == pic then { q with decoded := true, isRef := p.info.isRef && x.codec != 4, left := 0, bytes := 0 }
        else { q with isRef := q.isRef && p.info.keeps.contains q.num } }
    (c.updCtx k fun _ => x).prunePics k

/-- A context starts DRAINING (R296, R312): its bindings end at the next build, pictures without an instance go. -/
def Core.drainCtx (c : Core) (now k : Nat) : Core :=
  let x := c.ctx k
  if x.state == .opened || x.state == .running || x.state == .stopped then
    let gone := x.pics.filter fun p => !p.made && !p.started
    let n := gone.foldl (fun n p => n + p.bytes) 0
    let c := c.updCtx k fun y =>
      { (y.discard n) with
        state := .draining, event := true
        pics := y.pics.filter fun p => p.made || p.started }
    let c := { c with bindings := c.bindings.map fun (b : Binding) => if b.ctx == k then { b with ending := true } else b }
    (c.finishClips now 3 fun z => z.ctx == k).failFeed now k
  else c

/-- DRAINING becomes CLOSED at the first boundary after the last decode step and the last instance (R296); the
STREAM_CLOSE completes (R312). -/
def Core.closeCtx (c : Core) (now k : Nat) : Core :=
  let x := c.ctx k
  let busy := c.runs.any (fun r => match r.post with
    | .decode y _ => y == k
    | _ => false) || c.insts.any fun i => match i.pic with
    | some p => p.1 == k
    | none => false
  if x.state == .draining && !busy then
    let c := c.updCtx k fun y => { y with state := .closed, event := true, closing := none, pics := [], fill := 0, open_ := 0 }
    match x.closing with
    | some cmd => c.completeLate x.queue 0x4004 (bitAt 1 cmd.flags.toNat) { tag := cmd.tag.toNat, status := .ok, tick := now }
    | none => c
  else c

/-- STREAM_STATUS payload, Table 11-7. -/
def ctxNo : CState → Nat
  | .closed => 1 | .opened => 2 | .running => 3 | .stopped => 4 | .draining => 5

def Ctx.statusBytes (x : Ctx) : List Byte :=
  leBytes 1 (ctxNo x.state) ++ leBytes 1 x.reason ++ leBytes 1 x.codec ++
    leBytes 1 (x.live.toNat + 2 * x.moved.toNat + 4 * x.carriedT.toNat) ++ leBytes 1 x.home ++ leBytes 1 x.lastD ++
    zeros 2 ++ leBytes 2 x.lastW ++ leBytes 2 x.lastH ++ leBytes 2 (in256 x.ratio) ++ leBytes 2 (in256 x.compress) ++
    leBytes 8 x.decoded ++ leBytes 8 (if x.reason != 0 then x.errPic else x.lastPic) ++
    leBytes 4 (if x.reason != 0 then x.errOff else 0xFFFFFFFF) ++ leBytes 4 x.discarded ++ leBytes 4 x.refOnly ++
    leBytes 4 (min 0xFFFFFFFF x.fill) ++ zeros 16

end Sys2Proof.Machine
end

