-- ==== Sys2Proof/Machine/CacheOps.lean ====
section
/-! DEFINITION. DRAM use of a partition (R498), replay caches (R344 to R351, R359) and adapter views (R355 to R358). -/

namespace Sys2Proof.Machine

/-! ### DRAM use -/

/-- Bytes of one page (R257). -/
def pageBytes (b : Buffer) : Nat :=
  (16 * 2 ^ b.page * rowBytes b.desc.dtype (dim b.desc.maxDims 0) + 63) / 64 * 64

/-- Buffers that a program names: those of its descriptors, their scale streams and row scales. -/
def Program.bufs (p : Program) : List Nat :=
  (p.descs.flatMap fun d => [d.handle, d.scaleH, d.rowH]).map handleNum |>.filter (· != 0) |>.dedup

/-- Resting place of a TENSOR buffer's copies of one binding (R245). -/
def Core.bindBytes (c : Core) (part : Nat) (p : Program) : Nat :=
  p.bufs.foldl (fun n b =>
    match c.buf? part b with
    | some x => if x.kind == 0 && x.desc.scope == 2 then n + x.desc.capacity else n
    | none => n) 0

/-- Bytes of the packed reservations (R245, R498). -/
def Core.packed (c : Core) (part : Nat) : Nat :=
  let shared := (c.buffers.filter fun b => b.part == part && b.kind != 2 && b.desc.scope == 0).foldl
    (fun n b => n + b.desc.capacity) 0
  let bound := (c.bindings.filter (·.part == part)).foldl (fun n b =>
    match c.prog? part b.prog with
    | some p => n + c.bindBytes part p
    | none => n) 0
  let pages := (c.copies.filter (·.part == part)).foldl (fun n x =>
    match c.buf? part x.buf with
    | some b => if b.kind == 2 then n + x.pages.length * pageBytes b else n
    | none => n) 0
  shared + bound + pages

/-- Segments of 2 MB in use with `extra` more packed bytes (R498). -/
def Core.dramUse (c : Core) (part extra : Nat) : Nat :=
  let ctxs := c.ctxs.foldl (fun n e => if e.2.state != .closed && e.2.part == part then n + e.2.segs else n) 0
  let caches := (c.part part).caches.foldl (fun n e => n + e.2.segs.length) 0
  ctxs + caches + (c.packed part + extra + 2097151) / 2097152

/-- A quota of a partition that its use may not pass: the one in force, or a lower one that a PART_LIMITS has on the way (R241, R280). -/
def Part.quota (p : Part) (f : Grants → Nat) : Nat := p.pend.elim (f p.grants) fun x => min (f p.grants) (f x.grants)

/-- A reservation of `extra` packed bytes and `segs` segments fits the quota (R498). -/
def Core.dramFits (c : Core) (part extra segs : Nat) : Bool :=
  decide (c.dramUse part extra + segs ≤ (c.part part).quota (·.dram))

/-! ### Replay caches -/

def Core.cache (c : Core) (part k : Nat) : Cache := Tab.get {} (c.part part).caches k
def Core.updCache (c : Core) (part k : Nat) (f : Cache → Cache) : Core :=
  c.updPart part fun p => { p with caches := Tab.upd {} p.caches k f }

/-- Rows and slot size of a cache (R345). -/
def Cache.rows (k : Cache) : Nat := prod k.dims.tail
def Cache.slotSize (k : Cache) : Nat :=
  (k.rows * rowBytes k.dtype (dim k.dims 0) + 8 * k.rows + k.labelB + 64 + 63) / 64 * 64
def Cache.perSeg (k : Cache) : Nat := 2097152 / k.slotSize

/-- The segment that holds a slot (R345); of a slot of over 2 MB, where the formula divides by zero, a free value (log 16). -/
def Cache.segOf (k : Cache) (idx : Nat) : Nat := if k.perSeg == 0 then Config.freeNat k.slotSize idx else idx / k.perSeg

/-- Stored samples plus the pending puts into free slots (R346). -/
def Cache.held (k : Cache) : Nat :=
  k.slots.length + ((k.pend.map (·.target)).dedup.filter fun t => !k.slots.any (·.idx == t)).length

/-- First slot from `lo` below `hi` that `used` does not name. -/
def firstFree (lo hi : Nat) (used : List Nat) : Option Nat :=
  ((List.range (hi - lo)).map (· + lo)).find? fun i => !used.contains i

def le8 (l : List Byte) (i : Nat) : Nat := leAt l (8 * i) 8

/-- Target slot of put number `t` (R346); none where the reservoir discards it. -/
def Cache.target (k : Cache) (t : Nat) : Option Nat :=
  if k.held < k.cap then
    let used := k.slots.map (·.idx) ++ k.pend.map (·.target)
    match firstFree (if k.isOpen then k.n else 0) k.cap used with
    | some i => some i
    | none => firstFree 0 k.cap used
  else if k.fifo then
    (k.slots.foldl (fun (b : Option Slot) s =>
      match b with
      | none => some s
      | some x => if s.put < x.put then some s else some x) none).map (·.idx)
  else
    let j := le8 (sha256 (leBytes 8 k.seed ++ leBytes 8 t)) 0 % t
    if k.cap ≤ j then none else some j

/-- Outcome of a put. -/
inductive PutEnd where
  | stored (k : Cache)
  | noSpace
  deriving DecidableEq, Repr

/-- A put that passed its checks (R345, R346). `room` says that one more segment fits the DRAM quota. -/
def Cache.put (k : Cache) (s : Slot) (room : Bool) : PutEnd :=
  let t := k.t + 1
  let place (idx : Nat) (f : Cache → Cache) : PutEnd :=
    let seg := k.segOf idx
    if k.segs.contains seg then .stored (f k)
    else if room then .stored (f { k with segs := k.segs ++ [seg] }) else .noSpace
  match k.target t with
  | none => .stored { k with t := t, discarded := satAdd 0xFFFFFFFF k.discarded 1 }
  | some i =>
    if k.isOpen && decide (i < k.n) then
      match firstFree k.cap (k.cap + 64) (k.pend.map (·.idx)) with
      | none => .stored { k with t := t, pendLost := satAdd 0xFFFFFFFF k.pendLost 1 }
      | some p => place p fun k => { k with t := t, pend := k.pend ++ [{ s with idx := p, put := t, target := i }] }
    else
      place i fun k =>
        { k with t := t, slots := k.slots.filter (·.idx != i) ++ [{ s with idx := i, put := t, target := i }] }

/-- Moves the sample in the highest slot into the lowest empty slot until the slots are 0 to held − 1 (R348). -/
def compact : Nat → List Slot → List Slot
  | 0, l => l
  | fuel + 1, l =>
    match firstFree 0 l.length (l.map (·.idx)) with
    | none => l
    | some i =>
      let top := l.foldl (fun m s => max m s.idx) 0
      compact fuel (l.map fun s => if s.idx == top then { s with idx := i } else s)

/-- What closing an epoch does to the cache (R348). -/
def Cache.close (k : Cache) : Cache :=
  let slots := k.pend.foldl (fun l p => l.filter (·.idx != p.target) ++ [{ p with idx := p.target }]) k.slots
  { k with isOpen := false, pend := [], slots := compact slots.length slots }

/-- EPOCH_STATS of kind 0, Table 14-7. -/
def Cache.stats (k : Cache) (ix skipped : Nat) : List Byte :=
  leBytes 1 0 ++ leBytes 1 ix ++ leBytes 1 k.fifo.toNat ++ zeros 1 ++ leBytes 4 k.epoch ++ leBytes 4 k.n ++
    leBytes 4 (min 0xFFFFFFFF k.drawn) ++ leBytes 4 (min 0xFFFFFFFF k.valid) ++ leBytes 4 k.corrupt ++
    leBytes 4 k.damaged ++ leBytes 4 k.pendLost ++ leBytes 8 k.t ++ leBytes 4 k.discarded ++
    leBytes 4 k.slots.length ++ leBytes 4 skipped ++ zeros 12

/-- Writes an EPOCH_STATS record (R359). -/
def Core.statsRec (c : Core) (now q part : Nat) (payload : List Byte) : Core :=
  if q == 0xFFFF then c else c.putRec q true { rtype := 0x0C, part := part, tick := now, payload := payload }

/-- Closes an open epoch with its record; nothing where none is open (R348, R359). -/
def Core.closeEpoch (c : Core) (now part ix : Nat) : Core :=
  let k := c.cache part ix
  if k.isOpen then
    let c := c.updCache part ix Cache.close
    c.statsRec now k.resultQ part ((c.cache part ix).stats ix ((c.part part).health.skipped))
  else c

/-! ### The order of an epoch (R349) -/

def mix64 (z : Nat) : Nat :=
  let z := z ^^^ (z / 2 ^ 30)
  let z := z * 0xBF58476D1CE4E5B9 % 2 ^ 64
  let z := z ^^^ (z / 2 ^ 27)
  let z := z * 0x94D049BB133111EB % 2 ^ 64
  z ^^^ (z / 2 ^ 31)

/-- ceil(log2 n). -/
def clog2 (n : Nat) : Nat := if n ≤ 1 then 0 else Nat.log2 (n - 1) + 1

def epochWidth (n : Nat) : Nat := let b := max 2 (clog2 n); (b + b % 2) / 2

/-- Rounds of the Feistel network. -/
def feistel (w : Nat) : List Nat → Nat → Nat → Nat
  | [], l, r => l * 2 ^ w + r
  | k :: ks, l, r => feistel w ks r (l ^^^ (mix64 (r ^^^ k) % 2 ^ w))

def round4 (keys : List Nat) (w x : Nat) : Nat := feistel w keys (x / 2 ^ w) (x % 2 ^ w)

/-- Cycle-walking with fuel; every cycle of the network has at most 2^(2w) values. -/
def walk (keys : List Nat) (w n : Nat) : Nat → Nat → Nat
  | 0, x => x
  | fuel + 1, x => if x < n then x else walk keys w n fuel (round4 keys w x)

def epochKeys (seed epoch : Nat) : List Nat :=
  let d := sha256 (leBytes 8 seed ++ leBytes 4 epoch)
  (List.range 4).map (le8 d)

def perm (keys : List Nat) (n p : Nat) : Nat :=
  let w := epochWidth n
  walk keys w n (4 ^ w) (round4 keys w p)

/-! ### Adapters -/

def Core.adapter (c : Core) (part a : Nat) : Adapter := Tab.get {} (c.part part).adapters a
def Core.updAdapter (c : Core) (part a : Nat) (f : Adapter → Adapter) : Core :=
  c.updPart part fun p => { p with adapters := Tab.upd {} p.adapters a f }

/-- Handle named and handle of the buffer that has the role, for every view of a partition's adapters (R355). -/
def Core.viewMap (c : Core) (part : Nat) : List (Nat × Nat) :=
  (c.part part).adapters.flatMap fun e =>
    (e.2.names.zip e.2.entries).flatMap fun x =>
      [(x.1.2.1, x.2.2.1), (x.1.2.2.1, x.2.2.2.1), (x.1.2.2.2, x.2.2.2.2)]

/-- A handle is a view of some adapter. -/
def Core.isView (c : Core) (part h : Nat) : Bool := (c.viewMap part).any fun e => e.1 == h || e.2 == h

/-- EPOCH_STATS of kind 1, Table 14-7. -/
def Adapter.stats (a : Adapter) (ix decision candMetric skipped : Nat) : List Byte :=
  leBytes 1 1 ++ leBytes 1 ix ++ leBytes 1 decision ++ zeros 1 ++ leBytes 4 a.live ++
    leBytes 4 (a.cand.getD 0xFFFFFFFF) ++ leBytes 4 (a.prev.getD 0xFFFFFFFF) ++ leBytes 4 (a.liveMetric.getD 0) ++
    leBytes 4 candMetric ++ leBytes 4 a.tau ++ zeros 20 ++ leBytes 4 skipped ++ zeros 12

/-- The candidate becomes LIVE, the old live version PREVIOUS, CANDIDATE is left empty; the buffers change roles with
them (Table 14-6). -/
def Adapter.graft (a : Adapter) : Adapter :=
  { a with
    live := a.cand.getD a.live, prev := some a.live, cand := none
    liveMetric := a.candMetric, prevMetric := a.liveMetric, candMetric := none
    entries := a.entries.map fun e => (e.1, e.2.2.1, e.2.2.2, e.2.1) }

/-- LIVE and PREVIOUS change places: rollback. -/
def Adapter.rollback (a : Adapter) : Adapter :=
  { a with
    live := a.prev.getD a.live, prev := some a.live
    liveMetric := a.prevMetric, prevMetric := a.liveMetric
    entries := a.entries.map fun e => (e.1, e.2.2.2, e.2.2.1, e.2.1) }

end Sys2Proof.Machine
end

