-- ==== Sys2Proof/Machine/Tiles.lean ====
section
/-! DEFINITION. How the work of a command is cut into steps at a build: the tile sequencer with its chains, segments and block
loads (R189, R191, R194 to R203, R497), vector work between rows and inside long ones (R158, R237, R238, R496), mover transfers
(R182), and steps of equal length. What of the steps a resolved shape leaves (R203, R238). -/

namespace Sys2Proof.Machine

/-- ac to ns: ACLK is 250 MHz. -/
def acNs (ac : Nat) : Nat := 4 * ac

/-- The longest step that the builders plan, but for decode steps (R36): 90 µs, in ac. -/
def stepAc : Nat := 22500

/-- Part `i` of `n` of a total. -/
def portion (total n i : Nat) : Nat := total * (i + 1) / max 1 n - total * i / max 1 n

/-- What the builder knows of the module and chooses for a work: the logical arrays that the sheaf may use, the decoder of the stream,
its choice, and the tillers among which it divides vector rows and mover transfers. -/
structure Deal where
  live   : Nat → Nat → Bool := fun _ _ => true
  dec    : Nat := 0
  choice : Choice
  units  : List Nat := if choice.tillers.isEmpty then [0] else choice.tillers

/-! ### Steps of equal length, and mover transfers -/

/-- The engine of a class of Table 10-4 where the build names none. -/
def classEngine (d : Deal) (cls : Nat) : Engine :=
  if cls == 1 then .dec d.dec else if cls == 2 then .shp 0 else if cls == 3 then .cle 0 else if cls == 6 then .hostDma
  else if cls == 5 then .link 0 else .granary

def evenStep (d : Deal) (stage cls n ns solo : Nat) (costs paths : List (Nat × Nat)) (i : Nat) : PStep :=
  { id := i, eng := classEngine d cls, dur := ns, solo := solo, stage := stage
    costs := costs.map fun x => (x.1, 1, portion x.2 n i), paths := paths.map fun x => (x.1, portion x.2 n i)
    tile := some { row := i, rows := 1, col := 0, pos := 0, len := n, kb := 0 } }

/-- Bytes that one mover step takes at most (R36, R182). -/
def moveMax (per extra : Nat) : Nat := max 1 ((stepAc - extra) * per)

/-- A mover step over bytes from `row` (R182). -/
def moveStep (t stage per extra row bytes : Nat) (costs : List (Nat × Nat)) (i : Nat) : PStep :=
  { id := i, eng := .mover t, dur := acNs (ceilDiv bytes per + extra), solo := acNs (ceilDiv bytes per + extra), stage := stage
    costs := costs.map fun x => (x.1, 1, x.2 * bytes), tile := some { row := row, rows := bytes, col := 0, pos := 0, len := 1, kb := 0 } }

/-- Tillers that a choice names, or tiller 0. -/
def unitsOf (ch : Choice) : List Nat := if ch.tillers.isEmpty then [0] else ch.tillers

/-- Mover steps, dealt to some tillers in turn; the work of an entry is a multiple of the bytes moved. -/
def moveSteps (us : List Nat) (stage bytes per extra : Nat) (costs : List (Nat × Nat)) : List PStep :=
  let b := moveMax per extra
  (List.range (ceilDiv bytes b)).map fun i =>
    moveStep (us.getD (i % us.length) 0) stage per extra (i * b) (min b (bytes - i * b)) costs i

/-! ### Vector work -/

/-- ac of the first `r` rows of a unit (Table 8-6). -/
def VecTime.ac (v : VecTime) (r : Nat) : Nat :=
  v.w * ceilDiv (r * v.d0) v.lanes + v.per * r + v.num * ceilDiv (r * v.grp) v.den + v.head

/-- ac that rows `a` to `b` of a unit add to those before them. -/
def VecTime.acOf (v : VecTime) (a b : Nat) : Nat := if a == 0 then v.ac b else v.ac b - v.ac a

/-- Rows that one step takes: as many as stay within the bound, at least one (R238). -/
def VecTime.rowsPer (v : VecTime) : Nat :=
  max 1 ((stepAc - v.head - v.num) / max 1 (v.w * (ceilDiv v.d0 v.lanes + 1) + v.per + v.num * ceilDiv v.grp v.den))

/-- Blocks of L elements that rows `a` to `b` of a unit take, and the ac of those rows that no pass over them takes. -/
def VecTime.blocks (v : VecTime) (a b : Nat) : Nat := ceilDiv (b * v.d0) v.lanes - ceilDiv (a * v.d0) v.lanes
def VecTime.rest (v : VecTime) (a b : Nat) : Nat := v.acOf a b - v.w * v.blocks a b

/-- Steps into which a run of rows is cut: more than one for a row whose own time exceeds the bound (R496). -/
def VecTime.cuts (v : VecTime) (a b : Nat) : Nat := ceilDiv (v.w * v.blocks a b) (max 1 (stepAc - 16 - v.rest a b))

/-- Blocks of a row, pass after pass, that part `j` of `n` takes of those that are left of `nb` planned ones: the cuts lie between
blocks of L elements or between passes (R496). -/
def VecTime.part (v : VecTime) (nb left n j : Nat) : Nat :=
  let c := ceilDiv (v.w * nb) n
  let upTo (u : Nat) : Nat := u / max 1 nb * left + min (u % max 1 nb) left
  upTo (min ((j + 1) * c) (v.w * nb)) - upTo (min (j * c) (v.w * nb))

/-- Part `j` of `n` of the steps of rows `a` to `b` of a unit whose first row is `base`, cut where `nb` blocks a pass were planned:
each part after the first adds 16 ac (R496); none where the resolved row leaves nothing of it (R238). -/
def vecStep (v : VecTime) (t stage base a b nb n j : Nat) : Option PStep :=
  let k := v.part nb (min nb (v.blocks a b)) n j
  let ac := if n ≤ 1 then v.acOf a b else if j == 0 then v.rest a b + k else 16 + k
  if n ≤ 1 || j == 0 || k != 0 then
    some { eng := .vector t, dur := acNs ac, solo := acNs ac, stage := stage, costs := [(v.entry, 1, ac)]
           park := if j + 1 < n then 1 else 0, tile := some { row := a, rows := b - a, col := base, pos := j, len := n, kb := nb } }
  else none

/-- The steps of one unit with `rows` rows from row `base`. -/
def unitSteps (v : VecTime) (t stage base rows : Nat) : List PStep :=
  let p := v.rowsPer
  (List.range (max 1 (ceilDiv rows p))).flatMap fun i =>
    let a := i * p
    let b := min rows (a + p)
    let n := if v.acOf a b ≤ stepAc then 1 else v.cuts a b
    (List.range n).filterMap (vecStep v t stage base a b (v.blocks a b) n)

/-- Numbers the steps of a stage from `from_`; a part of a row follows the part before it. -/
def numbered (from_ : Nat) (l : List PStep) : List PStep := l.zipIdx.map fun x =>
  let part : Bool := match x.1.eng with
    | .vector _ => x.1.tile.any fun t => t.pos != 0
    | _ => false
  { x.1 with id := from_ + x.2, prev := if part then some (from_ + x.2 - 1) else x.1.prev }

/-- The unit that combines the partial results of several takes `tail` ac more (Table 8-6). -/
def VecTime.combine (v : VecTime) (stage t : Nat) : List PStep :=
  if v.tail == 0 then []
  else [{ eng := .vector t, dur := acNs v.tail, solo := acNs v.tail, stage := stage, costs := [(v.entry, 1, v.tail)] }]

/-- Vector steps: rows divided among the tillers (R238). -/
def vectorSteps (d : Deal) (stage : Nat) (v : VecTime) : List PStep :=
  let us := if v.split then d.units else d.units.take 1
  let n := us.length
  us.zipIdx.flatMap (fun u =>
    let lo := v.rows * u.2 / n
    let hi := v.rows * (u.2 + 1) / n
    if lo == hi && u.2 != 0 then [] else unitSteps v u.1 stage lo (hi - lo))

/-! ### The tile sequencer -/

/-- Rows that enter a strip, positions of a block, columns of a block (R187, R200). -/
def stripRows (quarter : Bool) : Nat := if quarter then 128 else 256
def blockSide (quarter : Bool) : Nat := if quarter then 16 else 32
def Product.blockK (x : Product) (quarter : Bool) : Nat := blockSide quarter * (if x.sparse then 2 else 1)

/-- Strip time of Table 7-3: array mode, rows, quarter, SKEW_EXTRA. -/
def stripAc (v rows : Nat) (quarter : Bool) (x : Nat) : Nat :=
  (if v == 3 then 4 * rows else if v == 0 then rows else ceilDiv rows 2) + (if quarter then 30 else 62) + x

/-- Point `d` of a Hilbert curve on a grid of order 2^k (R201). -/
def hilbertAux : Nat → Nat → Nat → Nat → Nat → Nat × Nat
  | 0, _, _, x, y => (x, y)
  | k + 1, q, t, x, y =>
    let rx := t / 2 % 2
    let ry := (t + rx) % 2
    let p := if ry == 0 then (if rx == 1 then (q - 1 - y, q - 1 - x) else (y, x)) else (x, y)
    hilbertAux k (2 * q) (t / 4) (p.1 + q * rx) (p.2 + q * ry)

def hilbert (k d : Nat) : Nat × Nat := hilbertAux k 1 d 0 0

/-- Tiles of a grid of strips and N-blocks along the curve, points outside skipped (R201). -/
def tilesOf (strips blocks : Nat) : List (Nat × Nat) :=
  let k := clog2 (max strips blocks)
  ((List.range (4 ^ k)).map (hilbert k)).filter fun p => decide (p.1 < strips) && decide (p.2 < blocks)

/-- An array, or a quarter of one, among those of the module. -/
def cellNo (t a : Nat) (q : Option Nat) : Nat := 4 * (64 * t + a) + q.getD 0

/-- The quarters of an array that work on it, or on one of its quarters, takes. -/
def cellsAt (t a : Nat) (q : Option Nat) : List Nat :=
  match q with
  | some k => [cellNo t a (some k)]
  | none => (List.range 4).map fun k => cellNo t a (some k)

/-- Start of each array of a chain, the first one at `o`: a link takes 2 ac, and one more where it leaves a darned array (R194). -/
def chainOffs (skew : Nat → Nat) : Nat → Nat → Nat → List Nat
  | 0, _, _ => []
  | n + 1, a, o => o :: chainOffs skew n (a + 1) (o + 2 + skew a)

/-- The input pixel row that tap (ky, kx) of output (oy, ox) reads; none outside (R172). -/
def Geom.tap (g : Geom) (w h oy ox ky kx : Nat) : Option Nat :=
  let y := oy * g.sy + ky * g.dy
  let x := ox * g.sx + kx * g.dx
  if g.pt ≤ y && y < h + g.pt && g.pl ≤ x && x < w + g.pl then some ((x - g.pl) + w * (y - g.pt)) else none

/-- Bytes of X that the mover reads for positions `pos` to `pos + n` of some rows: taps outside the input and channels above its own
read nothing (R172, R204). -/
def Expand.bytes (x : Expand) (row rows pos n : Nat) : Nat :=
  let cp := max 1 x.cp
  let taps := (List.range ((pos + n - 1) / cp + 1 - pos / cp)).map (· + pos / cp)
  (taps.foldl (fun b t =>
    let lo := max pos (t * cp)
    let ch := min (pos + n) (t * cp + x.ch) - lo
    let px := ((List.range rows).filter fun i =>
      (x.geom.tap x.w x.h ((row + i) / max 1 x.wo) ((row + i) % max 1 x.wo) (t / max 1 x.geom.kw) (t % max 1 x.geom.kw)).isSome).length
    b + if t < x.geom.kh * x.geom.kw then px * ch else 0) 0) * x.bits / 8

/-- What the window expansion of a step reads, within a reduction of `k` positions. -/
def Product.reads (x : Product) (t : Tile) : Nat :=
  x.window.elim 0 fun w => if x.k ≤ t.pos then 0 else w.bytes t.row t.rows t.pos (min (t.len * t.kb) (x.k - t.pos))

/-- Bytes per ac on a port at an ac: a load takes 32 of them (R497). -/
def portAt (port : List (Nat × Nat × Nat)) (t ac : Nat) : Nat :=
  port.foldl (fun n l => if l.1 == t && decide (l.2.1 ≤ ac) && decide (ac < l.2.1 + 32) then n + l.2.2 else n) 0

/-- A load of `b` bytes per ac fits on the port from an ac on: the loads that share an ac carry at most 1,024 bytes. -/
def portFits (port : List (Nat × Nat × Nat)) (t b ac : Nat) : Bool :=
  (ac :: (port.filter fun l => l.1 == t && decide (ac < l.2.1) && decide (l.2.1 < ac + 32)).map (·.2.1)).all fun p =>
    decide (portAt port t p + b ≤ 1024)

/-- The first ac, not before `from_`, at which a load fits. -/
def portSlot (port : List (Nat × Nat × Nat)) (t b from_ : Nat) : Nat :=
  let ends := sortBy (fun a b => decide (a ≤ b)) ((port.filter fun l => l.1 == t && decide (from_ < l.2.1 + 32)).map fun l => l.2.1 + 32)
  ((from_ :: ends).find? (portFits port t b)).getD from_

/-- Whether a chain stands before another among equals (R202): lowest tiller, then lowest logical array. -/
def chainLe (a b : Chain) : Bool :=
  decide (a.tiller < b.tiller) || (a.tiller == b.tiller && (decide (a.first < b.first) || (a.first == b.first &&
    decide (a.quarter.getD 0 ≤ b.quarter.getD 0))))

/-- Parts of a reduction of `kbs` K-blocks, in K-blocks: those that the builder gives where they cut at fold points and none is
longer than a ring (R194, R195), and otherwise the longest of at most `top`. `f` K-blocks lie between fold points. -/
def cutsOk (kbs f : Nat) (l : List Nat) : Bool :=
  l.foldl (· + ·) 0 == kbs && l.all (fun c => decide (1 ≤ c) && decide (c ≤ 32)) &&
    (List.range l.length).all fun i => (l.take i).foldl (· + ·) 0 % max 1 f == 0

def segments (kbs f top : Nat) (l : List Nat) : List Nat :=
  if cutsOk kbs f l then l
  else
    let c := max 1 (top / max 1 f * max 1 f)
    (List.range (ceilDiv kbs c)).map fun i => min c (kbs - i * c)

/-- K-blocks between fold points. -/
def Product.foldBlocks (x : Product) (quarter : Bool) : Nat := if x.fold == 0 then 1 else ceilDiv x.fold (x.blockK quarter)

/-- A last block of `x` positions in blocks of `k` holds at most 16 valid ones. -/
def lastSmall (x k : Nat) : Bool := decide (1 ≤ x % k) && decide (x % k ≤ 16)

/-- Quarter mode (R197, R199): where a rule asks for it, or the builder chooses it. -/
def Product.quarter (x : Product) (chosen : Bool) : Bool :=
  chosen || x.forced || decide (x.m ≤ 16) || lastSmall x.n 32 || lastSmall x.k (if x.sparse then 64 else 32)

/-- Bytes of the blocks of a segment as its operand stores them: valid columns and positions, two of four with their metadata where it is
sparse (R165, R191). -/
def Product.stored (x : Product) (bits : Nat) (t : Tile) : Nat :=
  if x.sparse then ceilDiv (t.cols * ceilDiv t.ks 4 * (2 * bits + 4)) 8 else ceilDiv (t.cols * t.ks * bits) 8

/-- One array step before it is dealt: a strip through one segment of an N-block (R203), on a chain of a tiller that stands for the one
it will get. The last segment's rows are written; the others park theirs, 128 bytes a row or 64 in a quarter (R195, R196). -/
def segStep (x : Product) (t stage id : Nat) (q parks : Bool) (tile : Tile) (after : Option Nat) : PStep :=
  let dur := acNs (2 * (tile.len - 1) + stripAc x.variant tile.rows q 0)
  { id := id, eng := .arrays t 0 tile.len (if q then some 0 else none), dur := dur, solo := dur, stage := stage, tile := some tile
    gap := if after.isSome then 32 else 0, prev := after, block := if q then x.block / 4 else x.block
    stat := x.stat.map fun y => { y with blk := { y.blk with col := tile.col, pos := tile.pos, kb := tile.kb, side := blockSide q } }
    park := if parks then (if q then tile.rows else 2 * tile.rows) else 0
    costs := [(2 * x.variant + x.sparse.toNat, 1, tile.rows * tile.len)] ++
      (if x.window.isNone then [] else [(22, 1, x.reads tile)]) }

/-- The segments of one tile in order, each from the parked rows of the one before or from +0 (R195). -/
def tileSteps (x : Product) (t stage : Nat) (q parked : Bool) (strip block : Nat) : List Nat → Nat → Nat → Option Nat → List PStep
  | [], _, _, _ => []
  | len :: r, k0, id, after =>
    let side := blockSide q
    let kb := x.blockK q
    let row := strip * stripRows q
    let tile : Tile :=
      { row := row, rows := min (stripRows q) (x.m - row), col := block * side, pos := k0 * kb, len := len, kb := kb
        cols := min side (x.n - block * side), ks := min (len * kb) (x.k - k0 * kb) }
    segStep x t stage id q (!r.isEmpty || (!parked && k0 != 0)) tile (if parked then after else none) ::
      tileSteps x t stage q parked strip block r (k0 + len) (id + 1) (some id)

/-- Runs of consecutive arrays of a ring that the sheaf may use: first array and length. -/
def Deal.runs (d : Deal) (t f : Nat) : List (Nat × Nat) :=
  ((List.range 32).foldl (fun l j =>
    if !d.live t (f + j) then l
    else
      match l with
      | (a, n) :: r => if a + n == f + j then (a, n + 1) :: r else (f + j, 1) :: l
      | [] => [(f + j, 1)]) ([] : List (Nat × Nat))).reverse

/-- The longest chain that the tillers of a choice offer, or that it names (R194). -/
def Deal.top (d : Deal) (quarter : Bool) : Nat :=
  let l := d.choice.chains.filter fun c => c.quarter.isSome == quarter
  if !l.isEmpty then l.foldl (fun n c => max n c.len) 1
  else (unitsOf d.choice).foldl (fun n t => [0, 32].foldl (fun n f => (d.runs t f).foldl (fun n r => max n r.2) n) n) 1

/-- The builder's cut of product `ix` of a work (R195, R197): as it chooses, or quarter mode where a rule asks for it, the longest
segments that a chain takes, each from the parked rows of the one before. -/
def Deal.prob (d : Deal) (ix : Nat) (x : Product) : Prob :=
  let p := d.choice.probs.getD ix {}
  let q := x.quarter p.quarter
  { quarter := q, cuts := segments (ceilDiv x.k (x.blockK q)) (x.foldBlocks q) (min (d.top q) 32) p.cuts, parked := p.parked }

/-- A choice with the cut of every product settled, for good (R144). -/
def Deal.settle (d : Deal) (l : List Piece) : Choice :=
  { d.choice with probs := (l.filterMap fun p => match p with
      | .arrays x => some x
      | _ => none).zipIdx.map fun x => d.prob x.2 x.1 }

/-- The array steps of a product in curve order (R200 to R203), and the vector additions of segments that start from +0 (R195). -/
def arraySteps (d : Deal) (stage ix : Nat) (x : Product) : List PStep :=
  let p := d.prob ix x
  let q := p.quarter
  let n := p.cuts.length
  let tiles := tilesOf (ceilDiv x.m (stripRows q)) (ceilDiv x.n (blockSide q))
  let l := if x.k == 0 then [] else tiles.zipIdx.flatMap fun t =>
    tileSteps x ((unitsOf d.choice).headD 0) stage q p.parked t.1.1 t.1.2 p.cuts 0 (n * t.2) none
  let adds := if p.parked || n ≤ 1 then [] else
    vectorSteps d (stage + 1) { entry := 16, rows := x.m, w := n - 1, d0 := x.n, head := 12 }
  l ++ numbered l.length (adds.map fun a => { a with gap := 32 })

/-! ### All the stages of a work -/

/-- The steps of a stage, numbered from 0. Each piece has two stages, the second for what combines the parts of the first; a
vector step starts 8 ac after the rows of an array step are written (R214). `m` counts the products before it. -/
def pieceSteps (d : Deal) (i m : Nat) (afterArrays : Bool) : Piece → List PStep
  | .arrays x => arraySteps d (2 * i) m x
  | .vector v =>
    let l := vectorSteps d (2 * i) v ++
      (if v.split && 1 < d.units.length then v.combine (2 * i + 1) (d.units.headD 0) else [])
    numbered 0 (l.map fun s => if afterArrays then { s with gap := 32 } else s)
  | .move bytes per extra costs => moveSteps d.units (2 * i) bytes per extra costs
  | .each bytes per extra costs =>
    numbered 0 ((unitsOf d.choice).flatMap fun t => moveSteps [t] (2 * i) bytes per extra costs)
  | .even cls n ns solo costs paths => (List.range n).map (evenStep d (2 * i) cls n ns solo costs paths)

def Piece.isArrays : Piece → Bool
  | .arrays _ => true
  | _ => false

/-- The steps of a work. -/
def expand (d : Deal) : Nat → Nat → Nat → Bool → List Piece → List PStep
  | _, _, _, _, [] => []
  | i, m, n, arr, p :: r =>
    let l := (pieceSteps d i m arr p).map fun s => { s with id := n + s.id, prev := s.prev.map (n + ·) }
    l ++ expand d (i + 1) (m + p.isArrays.toNat) (n + l.length) p.isArrays r

def stepsOf (d : Deal) (l : List Piece) : List PStep := expand d 0 0 0 false l

/-! ### What a resolved shape leaves -/

/-- Valid rows of a tile. -/
def Product.rowsOf (x : Product) (t : Tile) : Nat :=
  if x.spans.isEmpty then min t.rows (x.m - t.row)
  else x.spans.foldl (fun n y => n + (min (t.row + t.rows) (y.1 + y.2) - max t.row y.1)) 0

/-- An array step at the resolved shape: nothing of it where it lies wholly beyond; rows and blocks masked (R198, R203). -/
def Product.resolve (x : Product) (s : PStep) (t : Tile) : Option PStep :=
  if x.rowsOf t == 0 || x.n ≤ t.col || x.k ≤ t.pos then none
  else
    let rows := x.rowsOf t
    let len := min t.len (ceilDiv (x.k - t.pos) (max 1 t.kb))
    let t := { t with rows := if x.spans.isEmpty then rows else t.rows, len := len, cols := min t.cols (x.n - t.col), ks := min t.ks (x.k - t.pos) }
    some { s with
      tile := some t
      costs := s.costs.map fun c => if c.1 < 8 then (c.1, c.2.1, rows * len)
        else if c.1 == 22 then (c.1, c.2.1, x.reads t) else c }

/-- A step of a stage at the resolved size of that stage. -/
def PStep.resolve (s : PStep) (p : Piece) : Option PStep :=
  match p, s.tile with
  | .arrays x, some t =>
    match s.eng with
    | .arrays .. => x.resolve s t
    | .vector _ => if x.m ≤ t.col + t.row then none else some s
    | _ => if x.m ≤ t.row || x.n ≤ t.col || x.k ≤ t.pos then none else some s
  | .vector v, some t =>
    if t.rows != 0 && v.rows ≤ t.col + t.row && !(t.row == 0 && t.col == 0) then none
    else
      let b := min (t.row + t.rows) (v.rows - t.col)
      match s.eng with
      | .vector u => (vecStep v u s.stage t.col t.row b t.kb t.len t.pos).map fun q =>
          { q with id := s.id, gap := s.gap, prev := s.prev, xbar := s.xbar, banks := s.banks }
      | _ => some s
  | .move bytes per extra costs, some t
  | .each bytes per extra costs, some t =>
    if bytes ≤ t.row then none
    else
      match s.eng with
      | .mover u => some { moveStep u s.stage per extra t.row (min t.rows (bytes - t.row)) costs s.id with
          gap := s.gap, prev := s.prev, xbar := s.xbar, banks := s.banks }
      | _ => some s
  | .even _ n ns solo costs paths, some t =>
    if n ≤ t.row then none
    else some { s with
      dur := ns, solo := solo
      costs := costs.map fun x => (x.1, 1, portion x.2 n t.row), paths := paths.map fun x => (x.1, portion x.2 n t.row) }
  | _, none => some s

/-- The first stage of the transfers that follow the stages of a work: those of its outputs to their places, as planned. -/
def leafStage : Nat := 128

/-- A step at the resolved size of its stage. -/
def PStep.resolved (pieces : List Piece) (s : PStep) : Option PStep :=
  if leafStage ≤ s.stage then some s else pieces[s.stage / 2]?.bind s.resolve

/-- The steps that a resolved work issues (R203, R238); a transfer of what a step leaves goes with it. -/
def resolveSteps (pieces : List Piece) (l : List PStep) : List PStep :=
  let r := l.filterMap (PStep.resolved pieces)
  r.filter fun s => s.tile.isSome || s.prev.all fun k => r.any (·.id == k) || !l.any (·.id == k)

end Sys2Proof.Machine
end

