-- ==== Sys2Proof/Machine/Places.lean ====
section
/-! DEFINITION. Placement: where the copies of buffers lie (R185, R240, R241, R253), the stages of programs and the tillers of
their commands (R251, R252), the room that is left. -/

namespace Sys2Proof.Machine

/-! ### Lines -/

/-- Lines of a tiller's scratchpad, of 64 bytes, and of the granary that quotas share, of 256 bytes (Table 9-1). -/
def scratchLines : Nat := 196608
def granaryLines : Nat := 245760

/-- The first of `n` free lines in a row below `cap`, `used` listing first lines and counts. -/
def firstFit (cap n : Nat) (used : List (Nat × Nat)) : Option Nat :=
  ((0 :: used.map fun u => u.1 + u.2).filter fun a =>
    decide (a + n ≤ cap) && used.all fun u => decide (a + n ≤ u.1) || decide (u.1 + u.2 ≤ a)).foldl
      (fun m a => match m with
        | none => some a
        | some b => some (min a b)) none

/-- Bytes of a copy of a buffer. -/
def Core.copyBytes (c : Core) (part buf : Nat) : Nat := ((c.buf? part buf).map (·.desc.capacity)).getD 0

/-- Places of copies: those that they have, changed by a list of new ones. -/
abbrev Spots := List (Nat × Nat × CopyKey × Place)

def Core.spots (c : Core) (l : Spots) : Spots :=
  let named (x : Copy) : Bool := l.any fun y => y.1 == x.part && y.2.1 == x.buf && y.2.2.1 == x.key
  ((c.copies.filter fun x => x.place != .nowhere && !named x).map fun x => (x.part, x.buf, x.key, x.place)) ++ l

/-- Where a copy lies in the end. -/
def spotOf (l : Spots) (part buf : Nat) (key : CopyKey) : Place :=
  ((l.reverse.find? fun y => y.1 == part && y.2.1 == buf && y.2.2.1 == key).map (·.2.2.2)).getD .nowhere

/-- What takes room on chip: the copies of buffers at some places, and more. -/
def Core.layout (c : Core) (l : Spots) (more : List Temp) : List Temp :=
  l.map (fun y => { part := y.1, place := y.2.2.2, bytes := c.copyBytes y.1 y.2.1 }) ++ more

/-- Two items lie on chip at one time. -/
def Temp.meets (x y : Temp) : Bool := x.till.all (fun t => decide (y.from_ < t)) && y.till.all fun t => decide (x.from_ < t)

/-- First lines and counts in use while an item lies on chip: in a scratchpad, in the granary by some partitions. -/
def scratchUse (l : List Temp) (y : Temp) (t : Nat) : List (Nat × Nat) :=
  l.filterMap fun x => match x.place with
    | .scratch u a => if u == t && x.meets y then some (a, ceilDiv x.bytes 64) else none
    | _ => none
def granaryUse (l : List Temp) (y : Temp) (own : Nat → Bool) : List (Nat × Nat) :=
  l.filterMap fun x => match x.place with
    | .granary a => if own x.part && x.meets y then some (a, ceilDiv x.bytes 256) else none
    | _ => none

/-- Granary lines that a partition's quota leaves for copies, its weight staging area apart (R241). -/
def Part.granaryRoom (p : Part) : Nat := 256 * p.quota (·.granary) - 1024 * p.tillers.length

/-- Lines for an item in a tiller's scratchpad, and in the granary within the quota of its partition (R241, R253). -/
def Temp.inScratch (y : Temp) (l : List Temp) (t : Nat) : Option Place :=
  (firstFit scratchLines (ceilDiv y.bytes 64) (scratchUse l y t)).map (.scratch t)
def Core.inGranary (c : Core) (y : Temp) (l : List Temp) : Option Place :=
  if ((granaryUse l y (· == y.part)).foldl (fun n u => n + u.2) 0) + ceilDiv y.bytes 256 ≤ (c.part y.part).granaryRoom then
    (firstFit granaryLines (ceilDiv y.bytes 256) (granaryUse l y fun _ => true)).map .granary
  else none

/-- A place for an item on chip: the scratchpad of a tiller, else the granary (R253), whatever a hint says (R264). -/
def Core.onChip (c : Core) (y : Temp) (l : List Temp) (t : Nat) : Option Place := (y.inScratch l t).orElse fun _ => c.inGranary y l

/-- A buffer of kind TENSOR. -/
def Core.isTensor (c : Core) (part buf : Nat) : Bool := (c.buf? part buf).any (·.kind == 0)

/-- Copies take the places of a list; a copy that has not been written is listed with its place. -/
def Core.putPlaces (c : Core) (l : Spots) : Core :=
  l.foldl (fun c y => if (c.buf? y.1 y.2.1).isSome then c.setCopy { c.copy y.1 y.2.1 y.2.2.1 with place := y.2.2.2 } else c) c

/-- Granary lines in use by the copies of a partition, in 64 KB units (Table 10-5). -/
def Core.granaryUnits (c : Core) (part : Nat) : Nat :=
  ceilDiv ((granaryUse (c.layout (c.spots []) []) { part := part, place := .nowhere, bytes := 0 } (· == part)).foldl (fun n u => n + u.2) 0 +
    1024 * (c.part part).tillers.length) 256

/-- No copy lies in a tiller's scratchpad. -/
def Core.emptied (c : Core) (t : Nat) : Bool := c.copies.all fun x => match x.place with
  | .scratch u _ => u != t
  | _ => true

/-! ### DRAM (R240, R242, R245, R257, R498) -/

/-- Byte ranges of a partition's packed reservations: resting places of copies, pages. Each lies at the first place that takes it
(DESIGN CHOICE, log 53): R498 leaves their arrangement to placement. -/
def Core.dramMap (c : Core) (part : Nat) : List (Nat × Nat) :=
  (c.copies.filter (·.part == part)).flatMap fun x => match c.buf? part x.buf with
    | none => []
    | some b => (x.home.toList.map fun a => (a, b.desc.capacity)) ++ x.pageAt.map fun p => (p.2, pageBytes b)

/-- A copy gets its resting place in DRAM, and rests there while nothing has placed it elsewhere. -/
def Core.reserve (c : Core) (part buf : Nat) (key : CopyKey) : Core :=
  let x := c.copy part buf key
  match c.buf? part buf, firstFit (2 ^ 40) (c.copyBytes part buf) (c.dramMap part) with
  | some b, some a =>
    if b.kind == 2 || x.home.isSome then c
    else c.setCopy { x with home := some a, place := if x.place == .nowhere then .dram a else x.place }
  | _, _ => c

/-- Pages join a copy of a PAGED buffer. -/
def Core.takePages (c : Core) (part buf : Nat) (key : CopyKey) (pages : List Nat) : Core :=
  pages.foldl (fun c p =>
    let x := c.copy part buf key
    match c.buf? part buf with
    | none => c
    | some b =>
      if x.pages.contains p then c
      else match firstFit (2 ^ 40) (pageBytes b) (c.dramMap part) with
        | some a => c.setCopy { x with
            pages := x.pages ++ [p], pageAt := x.pageAt ++ [(p, a)], place := if x.place == .nowhere then .dram a else x.place }
        | none => c) c

/-! ### Stages -/

/-- Tillers of a partition that steps can be planned on. -/
def Core.tillersOf (c : Core) (part : Nat) : List Nat := (c.part part).tillers.filter fun t => !c.retired.contains t

/-- Tillers for the stages of a latency-critical program by their planned array-ac (R251): in proportion, one at least for each; where
there are fewer tillers than stages, consecutive stages share them. -/
def shareOut (own acs : List Nat) : List (List Nat) :=
  let n := acs.length
  let t := own.length
  if t < n then (List.range n).map fun i => (own.drop (i * t / n)).take 1
  else
    let all := acs.foldl (· + ·) 0
    let upTo (i : Nat) : Nat :=
      i + if all == 0 then (t - n) * i / max 1 n else (t - n) * (acs.take i).foldl (· + ·) 0 / all
    (List.range n).map fun i => (own.take (upTo (i + 1))).drop (upTo i)

/-- The stage map in force for a program, where the partition still has its tillers (R251, R266). -/
def Core.mapOf (c : Core) (part prog : Nat) : Option StageMap :=
  (c.part part).stages.find? fun m => m.prog == prog && m.tillers.all fun l => !l.isEmpty && l.all (c.tillersOf part).contains

/-- Cuts between commands of a program that a stage map may have (R251). -/
def cutsRise (l : List Nat) : Bool := (l.zip l.tail).all (fun x => decide (x.1 < x.2)) && l.all fun k => decide (0 < k)

def stageAt (m : StageMap) (idx : Nat) : Nat := (m.cuts.filter fun k => decide (k ≤ idx)).length

/-- Stages of a partition on a tiller: program and stage. -/
def Part.stagesOn (p : Part) (t : Nat) : List (Nat × Nat) :=
  p.stages.flatMap fun m => (m.tillers.zipIdx.filter fun y => y.1.contains t).map fun y => (m.prog, y.2)

/-- Bytes of some buffer copies in a tiller's scratchpad. -/
def Core.bytesIn (c : Core) (l : Spots) (part t : Nat) (bufs : List (Nat × CopyKey)) : Nat :=
  bufs.foldl (fun n b => match spotOf l part b.1 b.2 with
    | .scratch u _ => if u == t then n + c.copyBytes part b.1 else n
    | _ => n) 0

/-- The tiller to which a command goes (R252): most of its input bytes, the producer's, that of its affinity group, the lowest. -/
def pickTiller (own : List Nat) (bytes : Nat → Nat) (made near : List Nat) : Option Nat :=
  let key (t : Nat) : Nat × Nat × Nat := (bytes t, (made.contains t).toNat, (near.contains t).toNat)
  let lt (a b : Nat × Nat × Nat) : Bool :=
    decide (a.1 < b.1) || (a.1 == b.1 && (decide (a.2.1 < b.2.1) || (a.2.1 == b.2.1 && decide (a.2.2 < b.2.2))))
  (sortBy (fun a b => decide (a ≤ b)) own).foldl (fun m t => match m with
    | none => some t
    | some u => if lt (key u) (key t) then some t else some u) none

/-- Tillers whose scratchpads hold copies of the affinity groups of some buffers (R263). -/
def Core.nearTillers (c : Core) (l : Spots) (part prog : Nat) (bufs : List Nat) : List Nat :=
  let gs := ((c.prog? part prog).map (·.group)).toList ++ bufs.filterMap fun b => (c.buf? part b).map (·.group)
  l.filterMap fun y => match y.2.2.2 with
    | .scratch t _ => if y.1 == part && (c.buf? part y.2.1).any fun b => b.group != 0 && gs.contains b.group then some t else none
    | _ => none

/-! ### Migration (R266, R267) -/

/-- Room that moves under way will take. -/
def Core.aims (c : Core) : List Temp := c.moving.map fun m => { part := m.part, place := m.to_, bytes := c.copyBytes m.part m.buf }

/-- A place for a copy that leaves its scratchpad: in some tillers' scratchpads, or else in the granary within the quota. -/
def Core.refuge (c : Core) (part buf : Nat) (ts : List Nat) : Option Place :=
  let l := c.layout (c.spots []) c.aims
  let y : Temp := { part := part, place := .nowhere, bytes := c.copyBytes part buf }
  (ts.findSome? (y.inScratch l)).orElse fun _ => c.inGranary y l

/-- A move of a copy begins: the tiller that carries it is the one that holds it. -/
def Core.startMove (c : Core) (next : Nat) (x : Copy) (q : Place) : Core :=
  let t := match x.place with
    | .scratch t _ => t
    | _ => (c.tillersOf x.part).headD 0
  { (c.setCopy { x with movedAt := some next }) with
    moving := c.moving ++ [{ num := c.nextMove, part := x.part, buf := x.buf, key := x.key, to_ := q, tiller := t, left := c.copyBytes x.part x.buf }]
    nextMove := c.nextMove + 1 }

def Core.isMoving (c : Core) (x : Copy) : Bool := c.moving.any fun m => m.part == x.part && m.buf == x.buf && m.key == x.key

/-- Copies in the scratchpads of tillers that retire or leave their partition move to its other scratchpads or its granary. -/
def Core.moveOut (c : Core) (next : Nat) (ts : List Nat) : Core :=
  (c.copies.filter fun x => !c.isMoving x && match x.place with
    | .scratch t _ => ts.contains t
    | _ => false).foldl (fun c x =>
      match c.refuge x.part x.buf ((c.tillersOf x.part).filter fun t => !ts.contains t) with
      | some q => c.startMove next x q
      | none => c) c

/-- What has moved in the last 64 ticks stays (R267). -/
def rested (next : Nat) (at_ : Option Nat) : Bool := at_.all fun t => decide (t + 64 ≤ next)

/-- A stage may move again (R267). -/
def Part.stageRested (p : Part) (next prog stage : Nat) : Bool :=
  rested next ((p.stageMoved.find? fun y => y.1 == prog && y.2.1 == stage).map (·.2.2))

/-- Stages of a program move: the map that takes the place of the one in force. -/
def Part.restage (p : Part) (next : Nat) (m : StageMap) (ks : List Nat) : Part :=
  { p with
    stages := (p.stages.filter (·.prog != m.prog)) ++ [m]
    stageMoved := (p.stageMoved.filter fun y => !(y.1 == m.prog && ks.contains y.2.1)) ++ ks.map fun k => (m.prog, k, next) }

/-- A stage goes to one tiller. -/
def Part.moveStage (p : Part) (next prog stage to_ : Nat) : Option Part :=
  match p.stages.find? (·.prog == prog) with
  | none => none
  | some m =>
    if m.tillers.length ≤ stage || m.tillers.getD stage [] == [to_] || !p.stageRested next prog stage then none
    else some (p.restage next { m with tillers := m.tillers.set stage [to_] } [stage])

/-- Rebalancing (R266): the stages of each program by the array-ac measured while the tensor slow-down was above 1.20. -/
def Part.rebalance (p : Part) (next : Nat) (own : List Nat) : Option Part :=
  p.stages.foldl (fun r m =>
    let q := r.getD p
    let ac (k : Nat) : Nat := ((p.stageAc.find? fun y => y.1 == m.prog && y.2.1 == k).map (·.2.2)).getD 0
    let ks := List.range m.tillers.length
    let n : StageMap := { m with tillers := shareOut own (ks.map ac) }
    if m.tillers.length ≤ 1 || n == m || own.isEmpty || !ks.all (p.stageRested next m.prog) then r
    else some (q.restage next n ks)) none

/-- What a boundary moves in a partition, for a cause of Table 9-8 (R266): `load` gives the planned grains of a tiller, `l` the stages that
the build chooses where a cause leaves it open. -/
def Core.migrate (c : Core) (next part : Nat) (load : Nat → Nat) (l : List Migration) : Option Part :=
  let p := c.part part
  let own := c.tillersOf part
  let wanted (ok : Nat → Nat → Bool) : Option (Nat × Nat × Nat) := (l.find? fun m => ok m.prog m.stage).map fun m => (m.prog, m.stage, m.to_)
  let slow := if 16 ≤ p.slowRun then p.rebalance next own else none
  let hot := fun (_ : Unit) => (own.filter fun t => 8 ≤ Tab.get 0 p.hotRun t).findSome? fun t =>
    let on := (p.stagesOn t).filter fun y => p.stageRested next y.1 y.2
    let y := (wanted fun a b => on.contains (a, b)).map (fun y => (y.1, y.2.1))
    match y.orElse fun _ => on.head?, (own.filter (· != t)).foldl (fun m u => match m with
        | none => some u
        | some v => if load u < load v then some u else m) none with
    | some s, some u => p.moveStage next s.1 s.2 u
    | _, _ => none
  let far := fun (_ : Unit) => if 4 ≤ p.seamRun then
    (wanted fun _ _ => true).bind fun y => if own.contains y.2.2 then p.moveStage next y.1 y.2.1 y.2.2 else none else none
  (slow.orElse hot).orElse far

/-- The migrations of a boundary, and the partitions in which they move something; the ticks of a cause are counted anew from a move
on. -/
def Core.migrations (c : Core) (next : Nat) (load : Nat → Nat) (l : List (Nat × Migration)) : Core × List Nat :=
  (List.range 16).foldl (fun x k =>
    match x.1.migrate next k load ((l.filter (·.1 == k)).map (·.2)) with
    | some p => (x.1.updPart k fun _ => { p with slowRun := 0, hotRun := [], seamRun := 0, stageAc := [] }, x.2 ++ [k])
    | none => x) (c, [])

/-- Ticks in a row with each cause of Table 9-8: `hot` names the tillers of which the 10 µs limit has delayed steps. -/
def Part.causes (p : Part) (hot : List Nat) : Part :=
  let slow := decide (6 * Tab.get 0 p.health.tSolo 0 < 5 * Tab.get 0 p.health.tMeas 0)
  { p with
    slowRun := if slow then p.slowRun + 1 else 0
    stageAc := if slow then p.stageAc else []
    hotRun := hot.foldl (fun l t => if p.tillers.contains t then Tab.set 0 l t (Tab.get 0 p.hotRun t + 1) else l) []
    seamRun := if p.health.seamLate then p.seamRun + 1 else 0 }

/-- A TIER of 3 names DRAM as the resting place of a TENSOR copy (R264): what no command names goes to rest there at a boundary. Other
copies stay on chip (DESIGN CHOICE, log 53): R242 leaves it open. -/
def Core.rest (c : Core) (next : Nat) (used : Nat → Nat → Bool) : Core :=
  (c.copies.filter fun x => x.home.isSome && !c.isMoving x && rested next x.movedAt && !used x.part x.buf &&
      (c.buf? x.part x.buf).any (fun b => b.kind == 0 && b.tier == 3) && match x.place with
      | .scratch .. | .granary _ => true
      | _ => false).foldl (fun c x => match x.home with
    | some a => c.startMove next x (.dram a)
    | none => c) c

/-- Stage maps of a sheaf come into force with it (R251). -/
def Core.stagesNow (c : Core) (l : List StageMap) : Core :=
  l.foldl (fun c m => c.updPart m.part fun p =>
    if p.stages.any (·.prog == m.prog) then p else { p with stages := p.stages ++ [m] }) c

end Sys2Proof.Machine
end

