-- ==== Sys2Proof/Machine/Flow.lean ====
section
/-! DEFINITION. How an ACS command comes to run: the command at hand and what holds it (R91, R107, R111, R112, R121),
its operands as resolved (R89, R94, R113), the commit of its outputs (R108, R440), its end (R92, R96, R97, R113), and
its start as a sequence of steps. -/

namespace Sys2Proof.Machine

/-- Lifts an operation that sees the tick and the coefficients. -/
def onCoreA (f : Amb → Core → Core) (s : State) : Host.Outcome State Fault Refusal :=
  .next { s with core := f ⟨s.tick.count, s.led.coefNow, s.led.imgNow⟩ s.core }

/-- A command at hand: where it comes from and what it acts for. -/
structure Env where
  op   : Nat
  cmd  : Cmd
  now  : Nat
  q    : Nat
  part : Nat
  fn   : Nat
  inst : Option Inst := none
  prog : Option Program := none
  idx  : Nat := 0
  /-- Place in the order of its queue or instance. -/
  n    : Nat := 0
  draw : Nat := 0
  /-- The builder stands at it: a control command that its row evaluates (R105). -/
  front : Bool := false
  /-- What the builder has chosen for it, and its steps as planned (R195, R197). -/
  choice : Option Choice := none
  plan   : List PStep := []
  deriving DecidableEq, Repr

/-- How a command does not come to run: it waits, it completes with a status and a detail word of its own (none: the
one of R97), or it is a violation (R120) of a kind with an offending value. -/
inductive Stop where
  | wait
  | fail (st : Status) (detail : Option Nat)
  | violation (kind value : Nat)
  deriving DecidableEq, Repr

def Stop.malformed : Stop := .fail .malformed none
/-- STATE with its code (R119). -/
def Stop.state (code : Nat) : Stop := .fail .state (some code)

/-- Refuses unless a condition holds. -/
def need (b : Bool) (s : Stop) : Except Stop Unit := if b then .ok () else .error s

def Env.sub (e : Env) : Nat := e.cmd.sub.toNat
def Env.flags (e : Env) : Nat := e.cmd.flags.toNat
def Env.word (e : Env) (k : Nat) : Nat := (cmdWords e.cmd).getD k 0
/-- Rounding mode (R145): 1 is ties away from zero. -/
def Env.mode (e : Env) : Bool := bitAt 2 e.flags
def Env.flag (e : Env) (k : Nat) : Bool := bitAt k e.flags

/-! ### Operand words -/

/-- The copy that a scope names for the instance (R110). A per-binding descriptor in an invoked instance, which has no binding,
names a copy of the instance (DESIGN CHOICE, log 52). -/
def Env.key (e : Env) (scope : Nat) : CopyKey :=
  match e.inst with
  | some i =>
    if scope == 1 then .inst i.id
    else if scope == 2 then (match i.binding with
      | some b => .binding b
      | none => .inst i.id)
    else .shared
  | none => .shared

/-- The buffer number behind a handle: a view of an adapter stands for the buffer that has the role, as the instance
resolved it for its home tick (R355, R358). -/
def Env.bufNum (e : Env) (c : Core) (h : Nat) : Nat :=
  let m := match e.inst with
    | some i => if i.home.isSome then i.views else c.viewMap e.part
    | none => c.viewMap e.part
  handleNum ((m.find? (·.1 == h)).elim h (·.2))

/-- Words of the present descriptor operands, and the descriptors they name. -/
def Env.dWord (e : Env) (k : Nat) : Option Desc :=
  match e.prog with
  | some p => p.descs[e.word k % 65536]?
  | none => none

/-- PREV of a descriptor operand (R89, R112). -/
def Env.isPrev (e : Env) (k : Nat) : Bool := bitAt 31 (e.word k)

/-- Operand words that products read as their stationary operands (R191, R243). -/
def statWords (op : Nat) : List Nat := if op == 0x1001 || op == 0x1002 then [1] else if op == 0x1004 then [1, 2] else []

/-- Stationary operand word `k` of product `ix` of a work (R191, R254). Blocks of a committed version, which nothing before the command
is still to write, are those of every command that reads it so; a transposed copy and staged rows of K or V are the command's own, and
lie in the granary. -/
def Env.stationary (e : Env) (c : Core) (w : Work) (ix k : Nat) (open_ : Bool) : Option Stat :=
  (e.dWord k).map fun d =>
    let b := e.bufNum c d.handle
    let ver (x : Desc) : Nat := (c.copy e.part (e.bufNum c x.handle) (e.key x.scope)).version
    let own := open_ || e.op == 0x1004 || d.transposed
    { blk := { part := e.part, buf := b, key := e.key d.scope, desc := d, ver := ver d, mver := if e.flag 3 then (e.dWord 5).map ver else none
               own := if own then some (w, ix) else none }
      bits := bitsOf d.dtype
      dram := !own && !c.isTensor e.part b }

/-- Buffers behind a descriptor: data, scale stream, row scales. -/
def Env.descBufs (e : Env) (c : Core) (d : Desc) : List Nat :=
  ([d.handle, d.scaleH, d.rowH].filter (· != 0)).map (e.bufNum c)

def Env.bufsOf (e : Env) (c : Core) (ks : List Nat) : List Nat :=
  ks.flatMap fun k =>
    match e.dWord k with
    | some d => e.descBufs c d
    | none => []

/-- Buffers that a ring command reads and writes: HOST_WRITE reads and HOST_READ writes the handle in word 0. -/
def Env.ringIn (e : Env) : List Nat := if e.op == 0x6004 then [handleNum (e.word 0)] else []
def Env.ringOut (e : Env) : List Nat := if e.op == 0x6003 then [handleNum (e.word 0)] else []

/-- Staged copies that a GRAFT COMMIT reads, and candidates that it writes (R358). -/
def Env.viewBufs (e : Env) (c : Core) (f : Nat × Nat × Nat × Nat → Nat) : List Nat :=
  if e.op == 0x5005 && e.sub == 1 then (c.adapter e.part (e.word 0)).entries.map fun x => handleNum (f x) else []

/-- Buffers that a command reads, in the order of its queue or instance: an operand with PREV is not of that order (R112). -/
def Env.insB (e : Env) (c : Core) : List Nat :=
  (if e.inst.isSome then e.bufsOf c ((inWords e.op e.sub e.flags).filter fun k => !e.isPrev k) else e.ringIn) ++
    e.viewBufs c (·.1)
/-- Buffers that a command writes. -/
def Env.outsB (e : Env) (c : Core) : List Nat :=
  (if e.inst.isSome then e.bufsOf c (outWords e.op e.sub e.flags) else e.ringOut) ++ e.viewBufs c (·.2.2.1)

/-- Scalars that a command reads: its value words, the dynamic dimensions of its descriptors, and S0 where a record of a bound
instance carries it (Table 15-1). -/
def Env.scalarsIn (e : Env) : List Nat :=
  (if e.op == 0x000B && e.inst.any (·.binding.isSome) then [0] else []) ++
  match opWords e.inst.isSome e.op e.sub e.flags with
  | none => []
  | some l =>
    (List.range 6).flatMap fun k =>
      match l.getD k .z with
      | .v => (scalarRef (e.word k)).toList
      | .d => match e.dWord k with
        | some d => (d.dims.filter dynDim).map (· - 0xFFFFFFF0)
        | none => []
      | _ => []

/-- The scalar that a command writes: SETS its destination, and the commands of R218. -/
def Env.scalarW (e : Env) : Option Nat :=
  if e.op == 0x000A then some (e.word 0) else if e.inst.isSome then scalarOut e.op e.sub (e.word 4) else none

/-- What a command reads and writes: buffers and scalars. -/
structure Uses where
  ins  : List Nat
  outs : List Nat
  sIn  : List Nat := []
  sOut : Option Nat := none
  deriving DecidableEq, Repr

def Env.uses (e : Env) (c : Core) : Uses := ⟨e.insB c, e.outsB c, e.scalarsIn, e.scalarW⟩

def meet (a b : List Nat) : Bool := a.any fun x => b.contains x

/-! ### The command at hand -/

/-- Control commands at which the builder stands until they are evaluated (R105 to R107): TICKWAIT, BRANCH, LOOP, CALL, RETURN,
HALT, and a WAIT that has not been met. -/
def isControl (op : Nat) : Bool := op ∈ [0x0004, 0x0005, 0x0006, 0x0007, 0x0008, 0x0009, 0x000C]

/-- Commands of an instance that start without a place in a sheaf: NOP, FENCE, WAIT and SETS have no step, and nothing counts
them. -/
def unplanned (op : Nat) : Bool := op ∈ [0x0001, 0x0002, 0x0004, 0x000A]

/-- Equal fields; how reads end is no field of a command. -/
def sameCmd (a b : Cmd) : Bool := { a with src := .ring 0, rd := .ok } == { b with src := .ring 0, rd := .ok }

/-- The context of a stream command: chunks are appended in ring order (R300), and a FEED that waits for space holds
later stream commands of its context (R301). -/
def streamKey (op : Nat) (c : Cmd) : Option Nat :=
  if op == 0x4001 then some (c.w2.toNat % 4096)
  else if op == 0x4002 || op == 0x4003 || op == 0x4004 then some (c.w0.toNat % 4096) else none

/-- No FENCE, and no WAIT unless the builder has passed it (`past`), is still ahead of place `n` in a ring; where the command there
follows the one just before it (flag bit 0), that one has completed (R91, R107). -/
def Core.ringOpen (c : Core) (q n : Nat) (chained past : Bool) : Bool :=
  let e := c.q q
  let before := e.fetched.filter fun g => decide (g.n < n)
  !(before.any fun g => g.op == 0x0002 || (!past && g.op == 0x0004)) &&
  (!chained ||
    (!(before.any fun g => g.n + 1 == n) && !(c.runs.any fun r => r.ofRing q && r.n + 1 == n) && !(e.waiting.any fun w => w.1 + 1 == n)))

/-- What an INVOKE has made starts when the INVOKE may (R91, R107). -/
def Core.gateOpen (c : Core) (i : Inst) : Bool := i.binding.isSome || i.begun || c.ringOpen i.queue i.ringN i.chained false

/-- A fetched command of a queue that nothing before it holds: no FENCE or WAIT is still ahead, the command just
before it has completed when flag bit 0 asks for it, a FENCE has nothing before it (R91, R107), and stream commands of
one context keep their order. -/
def Core.ringReady (c : Core) (q : Nat) (f : Fetched) (past : Bool := false) : Bool :=
  let e := c.q q
  let before := e.fetched.filter fun g => decide (g.n < f.n)
  let runs := c.runs.filter fun r => r.ofRing q && decide (r.n < f.n)
  c.ringOpen q f.n (bitAt 0 f.cmd.flags.toNat) past &&
  (f.op != 0x0002 || (before.isEmpty && runs.isEmpty && !(e.waiting.any fun w => decide (w.1 < f.n)))) &&
  (match streamKey f.op f.cmd with
    | none => true
    | some k =>
      !(before.any fun g => g.op == 0x4002 && streamKey g.op g.cmd == some k &&
          (f.op == 0x4002 || (c.ctx k).waitFeed.any fun w => g.cmd == { w.1 with rd := .ok })) &&
        (f.op != 0x4002 || !(runs.any fun r => r.op == 0x4002 && streamKey r.op r.cmd == some k)))

def Program.op (p : Program) (idx : Nat) : Nat := ((p.cmds[idx]?).map (·.1)).getD 0

/-- A FENCE is among the commands that have not started. -/
def fenced (p : Program) (l : List Todo) : Bool := l.any fun u => p.op u.idx == 0x0002

/-- No picture up to the instance's own is carried: a picture that decodes slowly holds its own instance and those of later
pictures, unless they have started (R49, R50). -/
def Core.picOpen (c : Core) (i : Inst) : Bool :=
  i.begun || match i.pic with
    | none => true
    | some (k, n) => !((c.ctx k).pics.any fun p => decide (p.num ≤ n) && p.carried && !p.decoded)

/-- A command of an instance that nothing holds: no picture that is carried, and nothing before its INVOKE, holds the instance; the
sheaf in force plans it, no FENCE or WAIT before it is left, and a FENCE
and flag bit 0 find what they ask for (R91, R107). -/
def Core.instReady (c : Core) (i : Inst) (p : Program) (op : Nat) (cmd : Cmd) (t : Todo) : Bool :=
  let runs := c.runs.filter fun r => r.ofInst i.id && decide (r.n < t.seq)
  let todo := i.todo.filter fun u => decide (u.seq < t.seq)
  c.picOpen i && c.gateOpen i && (unplanned op || t.inSheaf) && !fenced p todo && (op != 0x0002 || (runs.isEmpty && todo.isEmpty)) &&
  (!bitAt 0 cmd.flags.toNat || (!(runs.any fun r => r.n + 1 == t.seq) && !(todo.any fun u => u.seq + 1 == t.seq))) &&
  !(t.behind.any fun w => todo.any fun u => u.seq == w)

/-- The place at which the builder stands. -/
def Inst.here (i : Inst) : Todo := { seq := i.seq, idx := i.pc, scalars := i.scalars, owed := i.owed, bad := i.badScal }

/-- An instance as a command of it sees it. -/
def Inst.seen (i : Inst) (t : Todo) : Inst := { i with scalars := t.scalars, owed := t.owed, badScal := t.bad }

/-- A command of an instance in hand. -/
def Core.envAt (c : Core) (now op : Nat) (cmd : Cmd) (i : Inst) (p : Program) (t : Todo) : Env :=
  { op := op, cmd := cmd, now := now, q := i.queue, part := i.part, fn := (c.q i.queue).func
    inst := some (i.seen t), prog := some p, idx := t.idx, n := t.seq, draw := c.free
    choice := t.choice, plan := t.plan }

/-- The scalars that the control command reads at which the builder stands are settled (R105), and no TICKWAIT is open. -/
def Core.frontSettled (i : Inst) (e : Env) : Bool := !i.halted && i.tickWait.isNone && !meet (i.owed.map (·.1)) e.scalarsIn

/-- The control command at which the builder stands may complete: its scalars are settled, no TICKWAIT is open, no FENCE is
left before it, and flag bit 0 finds the command before it completed (R91, R105, R107). -/
def Core.frontReady (c : Core) (i : Inst) (p : Program) (e : Env) : Bool :=
  !i.halted && i.tickWait.isNone && !fenced p i.todo && !meet (i.owed.map (·.1)) e.scalarsIn &&
  (!bitAt 0 e.flags || (!(c.runs.any fun r => r.ofInst i.id && r.n + 1 == i.seq) && !(i.todo.any fun u => u.seq + 1 == i.seq)))

/-- The command of a row, when its queue or instance holds it and nothing keeps it from starting. A frozen queue holds
its commands unstarted, but instances in a sealed sheaf run (R121). In BOOT and RECOVERY nothing runs (R471). An INVOKE makes its
instance when it is fetched (R102). -/
def Core.atHand (c : Core) (now op : Nat) (cmd : Cmd) (past : Bool := false) : Option Env :=
  if !mlive c.mstate then none else
  match cmd.src with
  | .ring q =>
    let e := c.q q
    match e.fetched.find? fun f => f.op == op && f.cmd == { cmd with rd := .ok } with
    | none => none
    | some f =>
      if e.state == .frozen || e.state == .disabled || (op != 0x000D && !c.ringReady q f past) then none
      else some { op := op, cmd := cmd, now := now, q := q, part := e.part, fn := e.func, n := f.n, draw := c.free }
  | .inst id idx =>
    match c.inst? id with
    | none => none
    | some i =>
      match c.prog? i.part i.prog with
      | none => none
      | some p =>
        match p.cmds[idx]? with
        | none => none
        | some pc =>
          if !(pc.1 == op && sameCmd pc.2 cmd) || ((c.q i.queue).state == .frozen && !i.admitted) then none
          else
            match i.todo.find? fun t => t.idx == idx && c.instReady i p op cmd t with
            | some t => some (c.envAt now op cmd i p t)
            | none =>
              let e := c.envAt now op cmd i p i.here
              if isControl op && i.pc == idx && c.frontReady i p e && c.gateOpen i then some { e with front := true } else none

/-! ### Leaving a command behind -/

/-- The next program counter after command `idx`: loops whose last body command it is run again or end (R106). -/
def Inst.advance : Inst → Nat → List (Nat × Nat × Nat) → Inst
  | i, idx, [] => { i with pc := idx + 1, loops := [] }
  | i, idx, (a, b, left) :: r =>
    if b == idx then
      (if 1 < left then { i with pc := a, loops := (a, b, left - 1) :: r } else Inst.advance i idx r)
    else { i with pc := idx + 1, loops := (a, b, left) :: r }

/-- A command of an instance is reached: it is one to start, or it depends on a producer that has ended without committing and
completes with DEPENDENCY, and so will what depends on it (R113, R218). -/
def Inst.enter (i : Inst) (u : Uses) (op : Nat) : Inst :=
  let own (l : List Nat) : List Nat := l.filter fun n => u.sOut != some n
  if meet i.badBufs u.ins || meet i.badScal u.sIn then
    { (i.noteFail i.pc op .dependency (op * 65536 + i.pc)) with
      seq := i.seq + 1, badBufs := (i.badBufs ++ u.outs).dedup, badScal := (i.badScal ++ u.sOut.toList).dedup
      owed := i.owed.filter fun x => u.sOut != some x.1 }
  else
    { i with
      seq := i.seq + 1
      todo := i.todo ++ [{ seq := i.seq, idx := i.pc, scalars := i.scalars, owed := i.owed, bad := i.badScal, behind := i.behind }]
      badBufs := i.badBufs.filter fun b => !u.outs.contains b
      badScal := own i.badScal, owed := i.owed ++ u.sOut.toList.map fun n => (n, i.seq) }

/-- A control command that reads a scalar without a value completes with DEPENDENCY; a BRANCH or LOOP ends the instance
(R218). -/
def Inst.spoil (i : Inst) (op : Nat) : Inst :=
  let j := { (i.noteFail i.pc op .dependency (op * 65536 + i.pc)) with seq := i.seq + 1 }
  if op == 0x0006 || op == 0x0007 then { j with halted := true } else j.advance i.pc i.loops

/-- The value of a SETS (Table 4-15). -/
def setsValue (sub : Nat) (a b : DWord) : DWord :=
  match sub with
  | 0 => a
  | 1 => a + b
  | 2 => a - b
  | 3 => a * b
  | 4 => a &&& b
  | 5 => a ||| b
  | 6 => a ^^^ b
  | 7 => a <<< b
  | 8 => a >>> b
  | 9 => a.sshiftRight b.toNat
  | 10 => if BitVec.slt b a then b else a
  | _ => if BitVec.slt a b then b else a

/-- A value word with the scalars of an instance (R89). -/
def valueIn (scal : Tab DWord) (w : Nat) : DWord :=
  match scalarRef w with
  | some k => Tab.get 0 scal k
  | none => (BitVec.ofNat 32 w).signExtend 64

/-- What a SETS gives whose scalars are settled where the builder reaches it: those after it see the value at once (R105). -/
def Inst.settled (i : Inst) (x : Nat × Cmd) (sIn : List Nat) : Option (Nat × DWord) :=
  if x.1 == 0x000A && !meet (i.owed.map (·.1)) sIn && !meet i.badScal sIn then
    some (x.2.w0.toNat, setsValue x.2.sub.toNat (valueIn i.scalars x.2.w1.toNat) (valueIn i.scalars x.2.w2.toNat))
  else none

/-- The scalar of a settled SETS has its value. -/
def Inst.sets (i : Inst) (n : Nat) (v : DWord) : Inst :=
  { i with scalars := Tab.set 0 i.scalars n v, owed := i.owed.filter (·.1 != n), badScal := i.badScal.filter (· != n) }

/-- The builder goes on over the commands of an instance to the next control command, or to the end (R104, R105). -/
def Inst.walk (use : Nat → Uses) (p : Program) : Nat → Inst → Inst
  | 0, i => i
  | k + 1, i =>
    if i.halted || i.tickWait.isSome then i
    else
      match p.cmds[i.pc]? with
      | none => { i with halted := true }
      | some x =>
        if isControl x.1 then (if meet i.badScal (use i.pc).sIn then Inst.walk use p k (i.spoil x.1) else i)
        else
          let j := i.enter (use i.pc) x.1
          let j := match i.settled x (use i.pc).sIn with
            | some s => j.sets s.1 s.2
            | none => j
          Inst.walk use p k (j.advance i.pc i.loops)

/-- Commands that the builder may pass before it meets a control command or the end. -/
def Inst.ahead (i : Inst) (p : Program) : Nat := (p.cmds.length + 1) * i.loops.foldl (fun n l => n * (l.2.2 + 1)) 1

/-- What command `idx` of an instance reads and writes. -/
def Core.useAt (c : Core) (i : Inst) (p : Program) (idx : Nat) : Uses :=
  match p.cmds[idx]? with
  | some x => (c.envAt 0 x.1 x.2 i p { i.here with idx := idx }).uses c
  | none => ⟨[], [], [], none⟩

/-- The builder goes on with an instance; one that has nothing left completes. -/
def Core.proceed (c : Core) (now id : Nat) : Core :=
  match c.inst? id with
  | none => c
  | some i =>
    match c.prog? i.part i.prog with
    | none => c.settle now id
    | some p => (c.updInst id fun _ => i.walk (c.useAt i p) p (i.ahead p)).settle now id

/-- The scalars owed when commands of the given places end without committing: what no later command is to write has no
value. -/
def owedLost (dead : List Nat) (owed : List (Nat × Nat)) (bad : List Nat) : List (Nat × Nat) × List Nat :=
  let gone (x : Nat × Nat) : Bool := dead.contains x.2
  let last (x : Nat × Nat) : Bool := (owed.filter fun y => y.1 == x.1).getLast? == some x
  let lost := (owed.filter fun x => gone x && last x).map (·.1)
  (owed.filter fun x => !gone x && !lost.contains x.1, (bad ++ lost).dedup)

/-- Consumers of failed producers among the commands that have not started, in order: buffers without a commit, places of
failed commands (R113). What is left, what has failed, and the two lists after the last of them. -/
def sink (use : Nat → Uses) : List Nat → List Nat → List Todo → List Todo × List Todo × List Nat × List Nat
  | bufs, dead, [] => ([], [], bufs, dead)
  | bufs, dead, t :: r =>
    let u := use t.idx
    let o := owedLost dead t.owed t.bad
    if meet bufs u.ins || meet o.2 u.sIn then
      let x := sink use ((bufs ++ u.outs).dedup) (t.seq :: dead) r
      (x.1, t :: x.2.1, x.2.2)
    else
      let x := sink use (bufs.filter fun b => !u.outs.contains b) dead r
      ({ t with owed := o.1, bad := o.2 } :: x.1, x.2)

/-- A command of an instance has ended without committing: its consumers complete with DEPENDENCY at that moment, and so do
theirs (R113, R218). -/
def Inst.sunk (i : Inst) (use : Nat → Uses) (p : Program) (seq : Nat) (bufs : List Nat) : Inst :=
  let x := sink use bufs [seq] (i.todo.filter fun t => decide (seq < t.seq))
  let o := owedLost x.2.2.2 i.owed i.badScal
  let i := x.2.1.foldl (fun i t => i.noteFail t.idx (p.op t.idx) .dependency (p.op t.idx * 65536 + t.idx)) i
  { i with
    todo := (i.todo.filter fun t => decide (t.seq < seq)) ++ x.1
    badBufs := (i.badBufs ++ x.2.2.1).dedup, owed := o.1, badScal := o.2 }

/-- A command has written a scalar, or none at all: those after it see the value (R218). -/
def settleScal (seq n : Nat) (v : Option DWord) (scal : Tab DWord) (owed : List (Nat × Nat)) : Tab DWord × List (Nat × Nat) :=
  if owed.contains (n, seq) then
    match v with
    | some v => (Tab.set 0 scal n v, owed.filter fun x => x.1 != n || decide (seq < x.2))
    | none => (scal, owed.filter fun x => x != (n, seq))
  else (scal, owed)

def Inst.wrote (i : Inst) (seq n : Nat) (v : Option DWord) : Inst :=
  let f := settleScal seq n v i.scalars i.owed
  { i with
    scalars := f.1, owed := f.2
    todo := i.todo.map fun t =>
      let g := settleScal seq n v t.scalars t.owed
      { t with scalars := g.1, owed := g.2 } }

/-- Takes a command out of its queue or instance. -/
def Core.take (c : Core) (e : Env) : Core :=
  match e.inst with
  | some i => c.updInst i.id fun x => { x with todo := x.todo.filter fun t => t.seq != e.n, begun := x.begun || !unplanned e.op }
  | none => c.updQ e.q fun y => { y with fetched := y.fetched.filter fun f => f.n != e.n }

/-! ### Operands -/

/-- The 64-bit value of a value word (R89). -/
def Env.value (e : Env) (w : Nat) : DWord :=
  match scalarRef w, e.inst with
  | some k, some i => Tab.get 0 i.scalars k
  | _, _ => (BitVec.ofNat 32 w).signExtend 64

def Env.int (e : Env) (k : Nat) : Int := (e.value (e.word k)).toInt
def Env.nat (e : Env) (k : Nat) : Nat := (e.value (e.word k)).toNat
/-- A value operand taken as an FP32 pattern (R217). -/
def Env.f32 (e : Env) (k : Nat) : FVal := Machine.f32 (e.nat k)

/-- A descriptor operand: its buffer, the copy that it names, its resolved dimensions, its contents, and whether any
line that it reads is lost. -/
structure Arg where
  desc : Desc
  buf  : Buffer
  key  : CopyKey
  view : View
  lost : Bool
  /-- Lost words of its contents, of its scale stream and of its row scales. -/
  bad  : List Nat
  badS : List Nat
  badR : List Nat
  deriving DecidableEq, Repr

/-- What the commands before it in its queue or instance, that have not ended, read and write. -/
def Env.before (e : Env) (c : Core) : List Uses :=
  match e.inst with
  | some i =>
    ((c.runs.filter fun r => r.ofInst i.id && decide (r.n < e.n)).map fun r => ⟨r.ins, r.outs.map (·.buf), [], none⟩) ++
      ((c.inst? i.id).elim [] fun x => (x.todo.filter fun t => decide (t.seq < e.n)).map fun t =>
        e.prog.elim ⟨[], [], [], none⟩ fun p => c.useAt x p t.idx)
  | none =>
    ((c.runs.filter fun r => r.ofRing e.q && decide (r.n < e.n)).map fun r => ⟨r.ins, r.outs.map (·.buf), [], none⟩) ++
      (((c.q e.q).fetched.filter fun f => decide (f.n < e.n)).map fun f =>
        ({ e with op := f.op, cmd := f.cmd, n := f.n } : Env).uses c)

/-- The instance of the preceding frame has not ended, and an operand reads what it committed (R112). -/
def Env.awaitsPrev (e : Env) (c : Core) : Bool :=
  match e.inst with
  | none => false
  | some i => (dWords e.op e.sub e.flags).any (fun k => e.isPrev k) && i.prevInst.any fun j => (c.inst? j).isSome

/-- Something the command depends on has not been committed, or read, yet (R91, R111, R112, R218). -/
def Env.pendingDep (e : Env) (c : Core) : Bool :=
  let ins := e.insB c
  let outs := e.outsB c
  (e.before c).any (fun u => meet u.outs ins || meet u.outs outs || meet u.ins outs) ||
    e.inst.any (fun i => meet (i.owed.map (·.1)) e.scalarsIn) || e.awaitsPrev c

/-- Waits on what is in flight; a consumer of a failed producer has completed already (R113). -/
def Env.deps (e : Env) (c : Core) : Except Stop Unit := if e.pendingDep c then .error .wait else .ok ()

/-- Resolved dimensions (R94): the value of the scalar, 0 gives ZERO_SHAPE, more than planned SHAPE_EXCEEDS_PLAN. -/
def Env.dims (e : Env) (d : Desc) : List Nat :=
  (List.range d.rank).map fun i =>
    let x := dim d.dims i
    if dynDim x then (match e.inst with
      | some j => (Tab.get 0 j.scalars (x - 0xFFFFFFF0)).toNat
      | none => 0) else x

def Env.shape (e : Env) (d : Desc) : Except Stop Unit :=
  let r := e.dims d
  if (List.range d.rank).any fun i => dynDim (dim d.dims i) && dim r i == 0 then .error (.fail .zeroShape none)
  else if (List.range d.rank).any fun i => dynDim (dim d.dims i) && decide (dim d.maxima i < dim r i) then
    .error (.fail .shapeExceedsPlan none)
  else .ok ()

/-- A copy as the instances of earlier frames have left it (R112): what the latest of their commits wrote; nothing where none
has committed. -/
def Copy.before (x : Copy) (frame : Nat) : Copy :=
  match x.log.find? fun y => decide (y.1 < frame) with
  | some y => { x with data := y.2.1, lost := y.2.2 }
  | none => { x with data := [], lost := [] }

/-- Decode-order number of the picture of the instance. -/
def Env.frame (e : Env) : Nat := ((e.inst.bind (·.pic)).map (·.2)).getD 0

/-- The operand of descriptor word `k`, its shape checked first by `shapes`. -/
def Env.arg (e : Env) (c : Core) (k : Nat) : Except Stop Arg :=
  match e.dWord k with
  | none => .error .malformed
  | some d =>
    match c.buf? e.part (e.bufNum c d.handle) with
    | none => .error .malformed
    | some b =>
      let key := e.key d.scope
      let past (x : Copy) : Copy := if e.isPrev k then x.before e.frame else x
      let cp := past (c.copy e.part b.num key)
      let side (h : Nat) : Copy :=
        if h == 0 then { part := e.part, buf := 0, key := .shared } else
          match c.buf? e.part (handleNum h) with
          | some x => past (c.copy e.part x.num (e.key x.desc.scope))
          | none => { part := e.part, buf := 0, key := .shared }
      let bad := cp.lost.filter fun l => decide (8 * l < rowsOf (e.dims d) * rowBytes d.dtype (dim (e.dims d) 0))
      let badS := (side d.scaleH).lost.filter fun l => decide (8 * l < streamBytes d.group (e.dims d))
      let badR := (side d.rowH).lost.filter fun l => decide (8 * l < rowScaleBytes (e.dims d))
      .ok {
        desc := d, buf := b, key := key, lost := !(bad.isEmpty && badS.isEmpty && badR.isEmpty)
        bad := bad, badS := badS, badR := badR
        view := { dtype := d.dtype, dims := e.dims d, trans := d.transposed, group := d.group, data := cp.data
                  scale := (side d.scaleH).data, rowS := (side d.rowH).data, hasRow := d.rowH != 0 } }

/-- A scale block with a lost word that holds a group of the first `k` elements of one of the rows, or the lost row-scale entry of one:
a scale block is one line, an entry one word (R132, R133, R138). -/
def Arg.scalesLost (a : Arg) (rows : List Nat) (k : Nat) : Bool :=
  let g := groupSize a.view.group
  rows.any fun r =>
    (a.view.group != 0 && (List.range (ceilDiv (min k a.view.d0) g)).any fun i =>
      a.badS.any fun l => l / 8 == (r * ceilDiv a.view.d0 g + i) / 16) || a.badR.contains r

/-- A lost word that holds one of the first `k` of `per` stored elements of a row. -/
def Arg.dataLost (a : Arg) (rows : List Nat) (per k : Nat) : Bool :=
  a.bad.any fun l => rows.any fun r =>
    let lo := r * rowBytes a.view.dtype per
    decide (8 * l < lo + rowBytes a.view.dtype k) && decide (lo < 8 * l + 8)

/-- The operand when only the first `k` of `per` stored elements of some rows are read, with the scales of the first `logical`
positions: nothing where `k` is 0 (R163, R165, R171, R177). A transposed operand is copied as a whole first (R166). -/
def Arg.upTo (a : Arg) (rows : List Nat) (per k logical : Nat) : Arg :=
  { a with lost := k != 0 && !rows.isEmpty &&
      (a.scalesLost rows logical || (if a.view.trans then !a.bad.isEmpty else a.dataLost rows per k)) }

/-- Some rows read whole. -/
def Arg.ofRows (a : Arg) (rows : List Nat) : Arg := a.upTo rows a.view.d0 a.view.d0 a.view.d0

/-- The bytes of the rows alone: no scale of theirs is read. -/
def Arg.bare (a : Arg) : Arg := { a with badS := [], badR := [] }

/-- A destination of which the stored scales of some rows are read, and nothing else (R153, R164, R495). -/
def Arg.stored (a : Arg) (rows : List Nat) : Arg := { a with lost := a.scalesLost rows a.view.d0 }

/-- Shapes of all present descriptor operands (R94). Where one resolves to 0 and another to more than was planned, the first
descriptor word decides (DESIGN CHOICE, log 52). -/
def Env.shapes (e : Env) : Except Stop Unit := do
  let ds := (dWords e.op e.sub e.flags).filterMap e.dWord
  ds.forM e.shape

/-- Scale streams and row-scale buffers long enough for the resolved dimensions (R138): their size is their capacity, the
declared bytes rounded up to whole lines (DESIGN CHOICE, log 52). -/
def Env.sizesOk (e : Env) (c : Core) : Bool :=
  ((dWords e.op e.sub e.flags).filterMap e.dWord).all fun d =>
    let cap (h : Nat) : Nat := ((c.buf? e.part (handleNum h)).map (·.desc.capacity)).getD 0
    (d.group == 0 || decide (streamBytes d.group (e.dims d) ≤ cap d.scaleH)) &&
      (d.rowH == 0 || decide (rowScaleBytes (e.dims d) ≤ cap d.rowH))

/-- Every scalar that gives the command a dimension is settled where the builder reaches it (R94, R105). -/
def Env.dimsSettled (e : Env) : Bool :=
  let open_ := e.inst.elim [] fun i => i.owed.map (·.1) ++ i.badScal
  ((dWords e.op e.sub e.flags).filterMap e.dWord).all fun d => (List.range d.rank).all fun i =>
    !dynDim (dim d.dims i) || !open_.contains (dim d.dims i - 0xFFFFFFF0)

/-- What precedes the operands of every program command: dependences, shapes, sizes of scales. A scale buffer that is too short
(SCALE_MISALIGNED) stands before dimensions that break a relation (MALFORMED): DESIGN CHOICE, log 52. -/
def Env.ready (e : Env) (c : Core) : Except Stop Unit := do
  e.deps c
  e.shapes
  need (e.sizesOk c) (.fail .scaleMisaligned none)

/-- Words of 8 bytes that a range covers completely. -/
def wordsIn (off len : Nat) : List Nat :=
  (List.range ((off + len) / 8 - (off + 7) / 8)).map (· + (off + 7) / 8)

/-- An output that replaces the region of an operand's copy that its resolved dimensions give; what lies beyond it keeps
its contents (R170, R180). A copy written to its end is written whole. -/
def Arg.whole (a : Arg) (data : List Byte) : Out :=
  { part := a.buf.part, buf := a.buf.num, key := a.key, data := Memory.write a.view.data 0 data
    whole := decide (a.buf.desc.capacity < data.length + 64), words := wordsIn 0 data.length }

/-- The copy of a scale buffer named by a handle, its first bytes written. -/
def Env.sideOut (e : Env) (c : Core) (h : Nat) (old : Memory) (data : List Byte) : Out :=
  let b := c.buf? e.part (handleNum h)
  { part := e.part, buf := handleNum h, key := e.key ((b.map (·.desc.scope)).getD 0), data := Memory.write old 0 data
    whole := decide (((b.map (·.desc.capacity)).getD 0) < data.length + 64), words := wordsIn 0 data.length }

/-! ### Commits and ends -/

/-- Words of 8 bytes that a range touches. -/
def wordsOf (off len : Nat) : List Nat :=
  if len == 0 then [] else (List.range ((off + len - 1) / 8 + 1 - off / 8)).map (· + off / 8)

/-- The words that protect a word together: the half-line of one that lies in DRAM, itself elsewhere (R440). -/
def Place.unit (x : Place) (w : Nat) : List Nat :=
  match x with
  | .dram _ => (List.range 4).map (· + w / 4 * 4)
  | _ => [w]

/-- What a per-binding copy keeps for PREV after a commit of an instance (R112): the commits of frames that are not before every
live instance of the binding, and the latest of the others. -/
def Core.logged (c : Core) (x : Copy) (frame : Option Nat) (data : Memory) (lost : List Nat) :
    List (Nat × Memory × List Nat) :=
  match x.key, frame with
  | .binding b, some n =>
    let live := (c.insts.filter fun i => i.binding == some b).filterMap fun i => i.pic.map (·.2)
    let low := live.foldl min n
    let all := (n, data, lost) :: x.log.filter fun y => y.1 != n
    (all.filter fun y => decide (low ≤ y.1)) ++ ((all.filter fun y => decide (y.1 < low)).take 1)
  | _, _ => x.log

/-- Frame of the instance that a run belongs to. -/
def Core.frameOf (c : Core) (r : Run) : Option Nat :=
  match r.src with
  | .inst id _ => ((c.inst? id).bind (·.pic)).map (·.2)
  | .ring _ => none

/-- Commits one output: the next version of its copy, lost words repaired where a unit of them is written as a whole (R108, R440); a HOST_READ leaves
what lies outside its range as it stands at the commit (R260). A master buffer that anything but OPTIM_STEP writes starts its step
count again (R352). -/
def Core.commit (c : Core) (op : Nat) (frame maker : Option Nat) (o : Out) : Core :=
  let x := c.copy o.part o.buf o.key
  let o := { o with data := o.patch.elim o.data fun y => Memory.write x.data y.1 y.2 }
  let lost := if o.whole then [] else x.lost.filter fun l => !(x.place.unit l).all o.words.contains
  let c := c.setCopy { x with
    version := x.version + 1, data := o.data, pages := (x.pages ++ o.pages).dedup, lost := lost, maker := maker
    log := c.logged x frame o.data lost }
  if op == 0x5004 then c
  else { c with buffers := listSet c.buffers (fun b => b.part == o.part && b.num == o.buf) fun b => { b with steps := 0 } }

/-- A ZERO_SHAPE commit: the version counts up, the contents stay (R108, R109). -/
def Core.bump (c : Core) (part b : Nat) (key : CopyKey) : Core :=
  let x := c.copy part b key
  c.setCopy { x with version := x.version + 1 }

/-- Adds a command's counts to those of its partition (Table 10-5), saturating. -/
def addCounts (h k : Health) : Health :=
  { h with
    flat := satAdd 0xFFFFFFFF h.flat k.flat
    nonfinite := satAdd 0xFFFFFFFF h.nonfinite k.nonfinite
    scaleClamp := satAdd 0xFFFFFFFF h.scaleClamp k.scaleClamp
    sat := satAdd 0xFFFFFFFF h.sat k.sat
    zeroVar := satAdd 0xFFFFFFFF h.zeroVar k.zeroVar
    skipped := satAdd 0xFFFFFFFF h.skipped k.skipped }

/-- What the commit of a run does besides its buffers; it may still settle the status and the detail word. -/
def Core.postCommit (c : Core) (now : Nat) (r : Run) : Core × Status × Nat :=
  match r.post with
  | .none | .decode .. | .clip .. | .share .. | .carry .. => (c, r.status, r.detail)
  | .feed k len auEnd au =>
    let x := c.feedLand now k len auEnd au
    (x.1, r.status, x.2)
  | .record rtype flags s0 payload latent =>
    match r.src with
    | .ring _ => (c, r.status, r.detail)
    | .inst id _ =>
      match c.inst? id with
      | none => (c, r.status, r.detail)
      | some i =>
        let c := match latent with
          | some l => if (c.q r.queue).rrLog == 0xF then c else c.post (c.q r.queue).func r.queue l.1 l.2 none
          | none => c
        (c.putRec r.queue (i.binding.isNone && !i.want) { (i.record now rtype flags none payload) with inst := if i.binding.isSome then s0 else i.tag.toNat }, r.status, r.detail)
  | .hostWrite addr data => (c.post (c.q r.queue).func r.queue addr data none, r.status, r.detail)
  | .modelLoad p =>
    (c.updPart p fun x => { x with state := if x.state == .loading then .resident else x.state, modelRun := false },
      r.status, r.detail)
  | .regions k dnum b rs =>
    let x := c.ctx k
    let wins := match x.pending with
      | none => true
      | some _ => decide (x.pendKey.1 < dnum) || (x.pendKey.1 == dnum && decide (b ≤ x.pendKey.2))
    (if wins then c.updCtx k fun y => { y with pending := some rs, pendKey := (dnum, b) } else c, r.status, r.detail)
  | .put ix s =>
    if !(c.cache r.part ix).used then (c, r.status, r.detail)
    else
      match (c.cache r.part ix).put s (c.dramFits r.part 0 1) with
      | .noSpace => (c, .noSpace, r.detail)
      | .stored k => (c.updCache r.part ix fun _ => k, r.status, r.detail)
  | .optim b steps _ =>
    ({ c with buffers := listSet c.buffers (fun x => x.part == r.part && x.num == b) fun x => { x with steps := steps } },
      r.status, r.detail)
  | .commitView a v => (c.updAdapter r.part a fun x => { x with cand := some v, top := v, candMetric := none }, r.status, r.detail)

/-- Consumers of a ring command that did not commit, in ring order, up to the next writer of a handle it was to write: HOST_WRITEs of
the handle, and a GRAFT COMMIT of the staged copy, complete with DEPENDENCY at that moment, and so do theirs (R113). -/
def Core.failRing (c : Core) (now q : Nat) (bufs : List Nat) : List Fetched → Core
  | [] => c
  | f :: r =>
    let b := handleNum f.cmd.w0.toNat
    let graft := if f.op == 0x5005 && f.cmd.sub.toNat == 1 then (c.adapter (c.q q).part f.cmd.w0.toNat).entries else []
    if f.op == 0x6003 then Core.failRing c now q (bufs.filter (· != b)) r
    else if graft.any (fun x => bufs.contains (handleNum x.1)) then
      let c := c.updQ q fun y => { y with fetched := y.fetched.filter fun g => g.n != f.n }
      let c := c.complete q true { tag := f.cmd.tag.toNat, status := .dependency, tick := now, detail := ringDetail f.op }
      Core.failRing c now q (bufs ++ graft.map fun x => handleNum x.2.2.1) r
    else if f.op == 0x6004 && bufs.contains b then
      let c := c.updQ q fun y => { y with fetched := y.fetched.filter fun g => g.n != f.n }
      let c := c.complete q true { tag := f.cmd.tag.toNat, status := .dependency, tick := now, detail := ringDetail f.op }
      Core.failRing c now q bufs r
    else Core.failRing c now q bufs r

/-- The end of a command with its final status (R92, R96, R97, R104). -/
def Core.endCmd (c : Core) (now : Nat) (r : Run) (st : Status) (detail : Nat) : Core :=
  match r.src with
  | .ring q =>
    if r.n < (c.q q).base then c else
    let c := c.complete q (bitAt 1 r.cmd.flags.toNat)
      { tag := r.cmd.tag.toNat, status := st, tick := now, planned := toGrains r.planned
        measured := min 0xFFFFFFFF r.measured, detail := detail }
    if commits st then c
    else c.failRing now q (r.outs.map (·.buf)) ((c.q q).fetched.filter fun f => decide (r.n < f.n))
  | .inst id idx =>
    let c := c.updInst id fun i => { i with
      planned := i.planned + r.planned, measured := i.measured + r.measured
      lastEnd := if r.begun then some now else i.lastEnd }
    let c := if commits st then c else c.updInst id fun i =>
      let i := i.noteFail idx r.op st detail
      match c.prog? i.part i.prog with
      | some p => i.sunk (c.useAt i p) p r.n (r.outs.map (·.buf))
      | none => i
    c.proceed now id

/-- The detail word of R97 where the opcode gives none. -/
def Run.failDetail (r : Run) : Nat :=
  match r.src with
  | .ring _ => ringDetail r.op
  | .inst _ idx => r.op * 65536 + idx

/-- What a command that did not commit takes back: the buffers that a MODEL_LOAD declared (R248). -/
def Core.undo (c : Core) (r : Run) : Core :=
  match r.post with
  | .modelLoad p =>
    let gone := r.outs.map (·.buf)
    let c := { c with
      buffers := c.buffers.filter fun b => !(b.part == p && gone.contains b.num)
      copies := c.copies.filter fun x => !(x.part == p && gone.contains x.buf) }
    c.updPart p fun x => { x with modelRun := false }
  | _ => c

/-- The tiller to which its command went first (R252). -/
def Run.maker (r : Run) : Option Nat := (r.todo.bind (·.choice)).bind (·.tillers.head?)

/-- The end of a run whose last step has ended: outputs committed as a whole when its status commits, the scalar
written, counts added (R40, R108, R218). -/
def Core.endRun (c : Core) (now : Nat) (r : Run) : Core :=
  let d := c.drawn r
  let c := d.1.dropRun r.id
  let r := d.2
  if commits r.status then
    let c := if r.status == .zeroShape then c else r.outs.foldl (fun c o => c.commit r.op (c.frameOf r) r.maker o) c
    let x := c.postCommit now r
    let c := x.1
    if commits x.2.1 then
      let c := c.health r.part fun h => addCounts h r.counts
      let c := match r.src, r.scalar with
        | .inst id _, some s => c.updInst id fun i => i.wrote r.n s.1 (if r.status == Status.zeroShape then none else some s.2)
        | _, _ => c
      c.endCmd now r x.2.1 x.2.2
    else c.endCmd now r x.2.1 r.failDetail
  else (c.undo r).endCmd now r r.status (if r.detail == 0 then r.failDetail else r.detail)

/-- A run ends without committing. -/
def Core.failRun (c : Core) (now : Nat) (r : Run) (st : Status) : Core :=
  c.endRun now { r with status := st, detail := 0 }

/-! ### Starting -/

/-- A stage on an engine class of `n` steps of `ns` ns each, charged to cost entries. -/
def Run.even (r : Run) (cls n ns solo : Nat) (costs paths : List (Nat × Nat)) : Run :=
  { r with pieces := r.pieces ++ [.even cls n ns solo costs paths] }

/-- A stage of transfers of `bytes` bytes on an engine class: `fixed` ns for each step and the time of the bytes at `rate` bytes
per µs, cut into steps of at most 90 µs (R36, R256); alone at `full` (R292). -/
def transfer (cls bytes fixed rate full : Nat) (costs paths : List (Nat × Nat)) : Piece :=
  let per := max 1 ((90000 - fixed) * rate / 1000)
  let n := ceilDiv bytes per
  let time (r : Nat) : Nat := fixed + ceilDiv (1000 * ceilDiv bytes (max 1 n)) (max 1 r)
  .even cls n (time rate) (time full) costs paths

/-- Fills in what a run takes from its command. -/
def Env.fill (e : Env) (c : Core) (r : Run) : Run :=
  { r with
    id := c.nextRun, op := e.op, cmd := e.cmd, queue := e.q, part := e.part, n := e.n
    src := match e.inst with
      | some i => .inst i.id e.idx
      | none => .ring e.q
    lc := match e.inst with
      | some i => i.lc
      | none => false
    ins := if r.ins.isEmpty then e.insB c else r.ins
    admitted := e.inst.isSome
    readAt := e.now
    todo := e.inst.map fun i =>
      { seq := e.n, idx := e.idx, scalars := i.scalars, owed := i.owed, bad := i.badScal, choice := e.choice, plan := e.plan }
    seen := (e.insB c).map fun b =>
      let k := e.key (((c.buf? e.part b).map (·.desc.scope)).getD 0)
      (b, k, (c.copy e.part b k).version) }

/-- Stages of a command that its weight-sharing run stands for: those up to its first product (R168). -/
def Run.sharedStages (r : Run) : Nat := 2 * ((r.pieces.findIdx? (·.isArrays)).getD 0) + 2

/-- The weight-sharing run of which a command is a member (R168). -/
def Core.shareOf (c : Core) (w : Work) : Option Nat :=
  (c.runs.find? fun r => match r.post with
    | .share ms => ms.any fun m => m.1 == w
    | _ => false).map (·.id)

/-- The work that a run does. -/
def Run.work (r : Run) : Work :=
  match r.post with
  | .decode k n => .pic k n
  | .clip b _ => .clip b
  | .share ms => match ms.head? with
    | some (.inst i n, _) => .share i n
    | _ => .share 0 0
  | .carry w _ => w
  | _ => match r.src with
    | .inst i _ => .inst i r.n
    | .ring q => .ring q r.n

/-- The steps that a run issues: those planned for its command, at the resolved shape, and those of its products left to the
weight-sharing run of which it is a member. -/
def Env.stepsFor (e : Env) (c : Core) (r : Run) : Run :=
  let own : Choice := { work := r.work, tillers := (c.part e.part).tillers.take 1 }
  let planned := if e.plan.isEmpty then stepsOf { choice := own } r.pieces else e.plan
  let l := resolveSteps r.pieces planned
  match c.shareOf r.work with
  | some g => { r with steps := l.filter fun s => decide (r.sharedStages ≤ s.stage), share := some g }
  | none => { r with steps := l }

/-- Nothing is left of a run: no step to issue, none that runs, nothing to read, no products of a weight-sharing run. -/
def Run.done (r : Run) : Bool :=
  r.steps.isEmpty && r.active.isEmpty && r.reads == 0 && r.share.isNone && !r.waits

/-- A command as it is in flight: its run with what it takes from the command, its steps, and the cost of what no step does. -/
def Env.inFlight (e : Env) (a : Amb) (c : Core) (r : Run) : Run :=
  let x := e.stepsFor c (e.fill c r)
  { x with planned := x.planned + a.plan x.costs }

/-- The pages that a command writes are allocated when it is admitted, whatever becomes of it (R258). -/
def Core.allot (c : Core) (r : Run) : Core :=
  r.outs.foldl (fun c o => if o.pages.isEmpty then c else c.takePages o.part o.buf o.key o.pages) c

/-- Launches a run: with nothing left to do it ends at once, otherwise it is in flight. -/
def Core.launch (c : Core) (a : Amb) (e : Env) (r : Run) : Core :=
  let r := e.inFlight a c r
  let c := c.allot r
  let c := { c with nextRun := c.nextRun + 1, free := c.free + 1 }
  if r.done then c.endRun a.tick r else { c with runs := c.runs ++ [r] }

/-- A command that completes before its first step (R492). Ring commands write shared copies alone (R260). A ZERO_SHAPE still counts up the versions of what it would
have written (R108); a violation freezes the queue (R121). -/
def Core.stopCmd (c : Core) (a : Amb) (e : Env) (st : Status) (detail : Option Nat) : Core :=
  let outs := ((e.outsB c).filter fun b => e.inst.isSome || (c.buf? e.part b).any (·.desc.scope == 0)).map fun b =>
    let sc := (c.buf? e.part b).map (·.desc.scope)
    ({ part := e.part, buf := b, key := e.key (sc.getD 0), data := (c.copy e.part b (e.key (sc.getD 0))).data } : Out)
  let c := if st == Status.zeroShape then outs.foldl (fun c o => c.bump o.part o.buf o.key) c else c
  let r := e.fill c { outs := outs
                      scalar := e.scalarW.map fun n => (n, 0) }
  let c := { c with nextRun := c.nextRun + 1, free := c.free + 1 }
  let c := match e.inst, e.scalarW with
    | some i, some n => if commits st then c.updInst i.id fun x => x.wrote e.n n none else c
    | _, _ => c
  let d := match detail with
    | some d => d
    | none => if st == Status.state then Config.freeNat (c.free - 1) 0 % 2 ^ 32 else if commits st then 0 else r.failDetail
  c.endCmd a.tick r st d

/-- Partition commands and the partition states that allow them (R117). -/
def needsPart (op : Nat) : Bool :=
  op ∈ [0x0003, 0x0004, 0x000D, 0x4001, 0x4002, 0x4003, 0x4004, 0x5002, 0x5005, 0x6001, 0x6002, 0x6003, 0x6004, 0x6005,
    0x7003, 0x7004, 0x7005, 0x7006]

def partAllows (op : Nat) : PState → Bool
  | .loading => op ∈ [0x7003, 0x7005, 0x6001, 0x6002, 0x6003, 0x6004, 0x6005]
  | .resident => op != 0x7003
  | .active => op != 0x7003 && op != 0x7004
  | _ => false

/-- What refuses a ring command before its own rules: QUIET (R115), no partition, its state (R117, R119). -/
def Core.gate (c : Core) (e : Env) : Except Stop Unit :=
  if c.mstate == .quiet && !(e.op == 0x800B && e.sub == 1) then .error (.state 6)
  else if e.inst.isSome || !needsPart e.op then .ok ()
  else if 16 ≤ e.part then .error .malformed
  else if partAllows e.op (c.part e.part).state then .ok ()
  else .error (.state (pstateCode (c.part e.part).state))

/-- What becomes of a command in the state that the machine is in. STATE answers a command that its own rules allow (R119):
one that they refuse with MALFORMED, or that is a violation, ends so whatever the state; in QUIET every command but one
completes with STATE (R115). A partition command of a queue without a partition is MALFORMED whatever it names (R117). -/
def Core.judge {α : Type} (c : Core) (e : Env) (r : Except Stop α) : Except Stop α :=
  match c.gate e, r with
  | .ok _, r => r
  | .error (.fail .malformed d), _ => .error (.fail .malformed d)
  | .error s, .error (.fail .malformed d) => if c.mstate == .quiet then .error s else .error (.fail .malformed d)
  | .error s, .error (.violation k v) => if c.mstate == .quiet then .error s else .error (.violation k v)
  | .error s, _ => .error s

/-- A violation by the command's queue: it freezes, the command completes with VIOLATION (R121). -/
def Core.violate (c : Core) (a : Amb) (e : Env) (kind value : Nat) : Core :=
  let c := c.freezeQ a.tick e.q kind value (e.op * 65536 + (if e.inst.isSome then e.idx else 0xFFFF))
  c.stopCmd a e .violation none

/-- A ring command that has taken effect and completes later. -/
def Core.defer (c : Core) (e : Env) : Core :=
  match e.inst with
  | some _ => c
  | none => c.updQ e.q fun y => { y with waiting := y.waiting ++ [(e.n, e.op, e.cmd.tag.toNat)] }

/-- A command's read of its operands in host memory has failed as its `rd` says (R387): it is counted, and its tag is
quarantined or free again. -/
def Core.readEnded (c : Core) (e : Env) (st : Status) : Core :=
  if st == Status.hostReadTimeout && e.cmd.rd != ReadEnd.ok && c.mastering e.fn then
    match c.newTag e.fn with
    | some t => (c.useTag e.fn t).failTag e.fn t e.cmd.rd
    | none => c.readFailed e.cmd.rd
  else c

/-- Commands that have taken effect and complete later hold an entry of Control's in the in-flight tracker, an instance none
(DESIGN CHOICE, log 52): with all of them in use no such command takes effect (R21). -/
def Core.controlFull (c : Core) : Bool :=
  decide (Source.control.entries ≤ c.qs.foldl (fun n e => n + (e.2.waiting.filter (·.2.1 != 0x000D)).length) 0)

/-- Runs a command at hand: `f` says what becomes of the machine and of the command: a run to launch, or none when its completion
comes later. -/
def Core.commandOn (h : Option Env) (f : Env → Core → Except Stop (Core × Option Run)) (a : Amb) (c : Core) : Core :=
  match h with
  | none => c
  | some e =>
    match c.judge e (f e c) with
    | .error .wait => c
    | .error (.fail st d) => ((c.take e).readEnded e st).stopCmd a e st d
    | .error (.violation k v) => (c.take e).violate a e k v
    | .ok (c', r) =>
      match r with
      | some r => (c'.take e).launch a e r
      | none => if e.op != 0x000D && c.controlFull then c else (c'.take e).defer e

/-- Runs a command if it is at hand and nothing holds it. -/
def Core.command (op : Nat) (cmd : Cmd) (f : Env → Core → Except Stop (Core × Option Run)) (a : Amb) (c : Core) : Core :=
  Core.commandOn (c.atHand a.tick op cmd) f a c

/-- A command whose only effect is its run. -/
def runOnly (f : Env → Core → Except Stop Run) (e : Env) (c : Core) : Except Stop (Core × Option Run) := do
  let r ← f e c
  .ok (c, some r)

/-- A command that completes at once, with a detail word. -/
def quick (detail : Nat) : Run := { detail := detail }

/-- A host range outside the windows of the function is a violation (R120, R494). -/
def Env.window (e : Env) (c : Core) (wr : Bool) (addr len : Nat) : Except Stop Unit :=
  match c.host.uncovered e.fn wr addr len with
  | some a => .error (.violation 2 a)
  | none => .ok ()

/-- A 64-bit address or tick from two words. -/
def Env.long (e : Env) (k : Nat) : Nat := e.word k + 2 ^ 32 * e.word (k + 1)

/-- Reads of a function that does not master the bus are not issued: their command fails (R389). -/
def Env.mayRead (e : Env) (c : Core) : Except Stop Unit := need (c.mastering e.fn) (.fail .hostReadTimeout none)

/-- Bytes of host memory that a command reads, its windows checked; the command's `rd` says how the read ends (R387). -/
def Env.hostRead (e : Env) (c : Core) (addr len : Nat) : Except Stop (List Byte) := do
  e.window c false addr len
  e.mayRead c
  need (e.cmd.rd == ReadEnd.ok || len == 0) (.fail .hostReadTimeout none)
  .ok (Memory.read c.host.mem addr len)

end Sys2Proof.Machine
end

