-- ==== Sys2Proof/Machine/Control.lean ====
section
/-! DEFINITION. Control commands (Table 4-15, R104 to R107), INVOKE (R102, R103) and EMIT (R367). -/

namespace Sys2Proof.Machine

/-- A control command at which the builder stands: `f` gives the instance after it, `bad` the instance after it has failed
with a status; the builder then goes on (R105). -/
def Core.controlAt (e : Env) (f : Env → Inst → Except Stop Inst) (bad : Env → Program → Status → Inst → Inst) (a : Amb) (c : Core) : Core :=
  match e.inst, e.prog with
  | some i, some p =>
    match f e i with
    | .ok j => (c.updInst i.id fun _ => { j with seq := i.seq + 1 }).proceed a.tick i.id
    | .error (.fail st d) => (c.updInst i.id fun x => { (bad e p st x) with seq := i.seq + 1 }).stopCmd a e st d
    | .error _ => c
  | _, _ => c

/-- Runs a control command, if it is at hand. -/
def Core.control (op : Nat) (cmd : Cmd) (f : Env → Inst → Except Stop Inst)
    (bad : Env → Program → Status → Inst → Inst) (a : Amb) (c : Core) : Core :=
  match c.atHand a.tick op cmd with
  | none => c
  | some e => Core.controlAt e f bad a c

/-- A failed command that does not move the counter elsewhere. -/
def goOn (e : Env) (_ : Program) (_ : Status) (i : Inst) : Inst := i.advance e.idx i.loops

/-- The condition of a BRANCH (Table 4-15). -/
def branchTaken (sub : Nat) (a b : DWord) : Bool :=
  match sub with
  | 0 => true
  | 1 => a == b
  | 2 => a != b
  | 3 => BitVec.slt a b
  | 4 => !BitVec.slt a b
  | 5 => BitVec.ult a b
  | _ => !BitVec.ult a b

/-- Moves to a branch target; loops whose body does not hold it are left (log 21). -/
def Inst.jump (i : Inst) (t : Nat) : Inst :=
  { i with pc := t, loops := i.loops.dropWhile fun l => !(decide (l.1 ≤ t) && decide (t ≤ l.2.1)) }

/-- NOP. -/
def execNop (c : Cmd) (s : State) : Host.Outcome State Fault Refusal :=
  onCoreA (Core.command 0x0001 c (runOnly fun _ _ => .ok (quick 0))) s

/-- FENCE: it comes to hand only when every earlier command has completed (R91). -/
def execFence (c : Cmd) (s : State) : Host.Outcome State Fault Refusal :=
  onCoreA (Core.command 0x0002 c (runOnly fun _ _ => .ok (quick 0))) s

/-- SIGNAL (R107). -/
def signalCmd (e : Env) (c : Core) : Except Stop (Core × Option Run) := do
  e.deps c
  .ok (c.updPart e.part fun p => { p with events := Tab.upd 0 p.events (e.word 0) fun v => v + e.value (e.word 1) },
    some (quick 0))

def execSignal (c : Cmd) (s : State) : Host.Outcome State Fault Refusal := onCoreA (Core.command 0x0003 c signalCmd) s

/-- The counter of a WAIT has reached its value (R107): counter and value are compared as unsigned numbers (DESIGN CHOICE, log 52). -/
def Core.waitMet (c : Core) (e : Env) : Bool :=
  decide ((e.value (e.word 1)).toNat ≤ (Tab.get 0 (c.part e.part).events (e.word 0)).toNat)

/-- A WAIT that is held by its place alone. -/
def waitMetCmd (e : Env) (c : Core) : Except Stop (Core × Option Run) := do
  e.deps c
  need (c.waitMet e) .wait
  .ok (c, some (quick 0))

/-- A WAIT in its course: it completes when the counter has reached the value, and is held below it (R107). -/
def Core.waitCmd (cmd : Cmd) (a : Amb) (c : Core) : Core :=
  if (c.atHand a.tick 0x0004 cmd).any (·.front) then
    Core.control 0x0004 cmd (fun e i => if c.waitMet e then .ok (i.advance e.idx i.loops) else .error .wait) goOn a c
  else
    Core.command 0x0004 cmd waitMetCmd a c

/-- WAIT (R107). The builder stands at the WAIT of an instance until it is met. -/
def execWait (c : Cmd) (s : State) : Host.Outcome State Fault Refusal := onCoreA (Core.waitCmd c) s

def tickwaitStep (e : Env) (i : Inst) : Except Stop Inst :=
  let t := if e.sub == 0 then e.long 0 else ((e.now : Int) + e.int 0).toNat
  .ok { (i.advance e.idx i.loops) with tickWait := some t }

/-- TICKWAIT (R107): later commands wait for the sheaf of the tick. -/
def execTickwait (c : Cmd) (s : State) : Host.Outcome State Fault Refusal := onCoreA (Core.control 0x0005 c tickwaitStep goOn) s

def branchStep (e : Env) (i : Inst) : Except Stop Inst :=
  .ok (if branchTaken e.sub (e.value (e.word 0)) (e.value (e.word 1)) then i.jump (e.word 2) else i.advance e.idx i.loops)

/-- BRANCH (R105). -/
def execBranch (c : Cmd) (s : State) : Host.Outcome State Fault Refusal := onCoreA (Core.control 0x0006 c branchStep goOn) s

/-- What the body of a LOOP over its planned maximum leaves without a producer (R106, R113). -/
def bodyBufs (e : Env) (p : Program) : List Nat :=
  ((p.cmds.take (e.word 1 + 1)).drop (e.idx + 1)).flatMap fun x =>
    (outWords x.1 x.2.sub.toNat x.2.flags.toNat).filterMap fun w =>
      (p.descs[(cmdWords x.2).getD w 0 % 65536]?).map fun d => handleNum d.handle
def bodyScal (e : Env) (p : Program) : List Nat :=
  ((p.cmds.take (e.word 1 + 1)).drop (e.idx + 1)).filterMap fun x =>
    if x.1 == 0x000A then some x.2.w0.toNat else scalarOut x.1 x.2.sub.toNat x.2.w4.toNat

def loopStep (e : Env) (i : Inst) : Except Stop Inst :=
  let n := (e.value (e.word 0)).toNat
  if 4 ≤ i.loops.length then .error .malformed
  else if e.word 2 < n then .error (.fail .shapeExceedsPlan none)
  else if n == 0 then .ok (i.advance (e.word 1) i.loops)
  else .ok { i with pc := e.idx + 1, loops := (e.idx + 1, e.word 1, n) :: i.loops }

def loopBad (e : Env) (p : Program) (_ : Status) (i : Inst) : Inst :=
  let i := i.advance (e.word 1) i.loops
  { i with badBufs := (i.badBufs ++ bodyBufs e p).dedup, badScal := (i.badScal ++ bodyScal e p).dedup }

/-- LOOP (R106). The count is unsigned: one whose top bit is set is above every planned maximum (DESIGN CHOICE, log 52). A body that is
not run is skipped; a LOOP that fails skips it too, and what it was to write has no producer that committed (DESIGN CHOICE, log 52). -/
def execLoop (c : Cmd) (s : State) : Host.Outcome State Fault Refusal := onCoreA (Core.control 0x0007 c loopStep loopBad) s

def callStep (e : Env) (i : Inst) : Except Stop Inst :=
  if 8 ≤ i.calls.length then .error .malformed else .ok { i with calls := e.idx :: i.calls, pc := e.word 0 }

/-- CALL (R106): the return point is the CALL itself, left behind on return. One that fails goes on to the next command (DESIGN
CHOICE, log 52). -/
def execCall (c : Cmd) (s : State) : Host.Outcome State Fault Refusal := onCoreA (Core.control 0x0008 c callStep goOn) s

def returnStep (_ : Env) (i : Inst) : Except Stop Inst :=
  match i.calls with
  | [] => .ok { i with halted := true }
  | k :: r => .ok (({ i with calls := r }).advance k i.loops)

/-- RETURN (R104). -/
def execReturn (c : Cmd) (s : State) : Host.Outcome State Fault Refusal := onCoreA (Core.control 0x0009 c returnStep goOn) s

/-- SETS (R105): a command of its instance that has no step; it starts when its scalars are written. -/
def execSets (c : Cmd) (s : State) : Host.Outcome State Fault Refusal :=
  onCoreA (Core.command 0x000A c (runOnly fun e c => do
    e.deps c
    .ok { quick 0 with scalar := some (e.word 0, setsValue e.sub (e.value (e.word 1)) (e.value (e.word 2))) })) s

def haltStep (_ : Env) (i : Inst) : Except Stop Inst := .ok { i with halted := true }

/-- HALT (R104). -/
def execHalt (c : Cmd) (s : State) : Host.Outcome State Fault Refusal := onCoreA (Core.control 0x000C c haltStep goOn) s

/-- What the control commands do that the builder evaluates of itself. -/
def ctlStep (op : Nat) : Option (Env → Inst → Except Stop Inst) :=
  match op with
  | 0x0005 => some tickwaitStep
  | 0x0006 => some branchStep
  | 0x0007 => some loopStep
  | 0x0008 => some callStep
  | 0x0009 => some returnStep
  | 0x000C => some haltStep
  | _ => none

/-- The builder evaluates the control command of an instance at which it stands, where its operands are settled (R105); a TICKWAIT
whose ticks count from its start only when it may complete. -/
def Core.steer1 (a : Amb) (c : Core) (id : Nat) : Option Core :=
  match c.inst? id with
  | none => none
  | some i =>
    match c.prog? i.part i.prog with
    | none => none
    | some p =>
      match p.cmds[i.pc]? with
      | none => none
      | some x =>
        let e := { c.envAt a.tick x.1 { x.2 with src := .inst id i.pc } i p i.here with front := true }
        if !c.gateOpen i || !(if x.1 == 0x0005 then c.frontReady i p e else Core.frontSettled i e) then none
        else (ctlStep x.1).map fun f => Core.controlAt e f (if x.1 == 0x0007 then loopBad else goOn) a c

/-- One control command after the other: no more than a program has commands in one build (DESIGN CHOICE, log 52). -/
def Core.steer (a : Amb) : Nat → Core → Nat → Core
  | 0, c, _ => c
  | n + 1, c, id =>
    match c.steer1 a id with
    | some d => Core.steer a n d id
    | none => c

def Core.steerAll (c : Core) (a : Amb) : Core := c.insts.foldl (fun c i => Core.steer a 65536 c i.id) c

/-! ### INVOKE -/

/-- A partition enters ACTIVE, and with it the module SERVING (R115, R116). -/
def Core.activate (c : Core) (part : Nat) : Core :=
  let c := if (c.part part).state == .resident then c.updPart part fun p => { p with state := .active } else c
  if c.mstate == .ready && (c.part part).state == .active then c.setM .serving else c

/-- A new instance at its program's entry (R103). -/
def newInst (c : Core) (p : Program) (q : Nat) (tag : Word) (allow : Nat) (scal : List DWord) : Inst :=
  { id := c.nextInst, part := p.part, prog := p.num, queue := q, binding := none, pic := none, tag := tag
    lc := p.lc, allow := allow, glw := p.glw, pc := p.entry
    scalars := (List.range scal.length).foldl (fun t i => Tab.set 0 t i (scal.getD i 0)) [] }

/-- A program handle (R95): its partition is checked when the command is fetched; bits [27:8] are reserved. -/
def Core.progOf (c : Core) (part h : Nat) : Except Stop Program :=
  if handlePart h != part then .error (.violation 1 h)
  else if 256 ≤ handleNum h then .error .malformed
  else
    match c.prog? part (handleNum h) with
    | some p => .ok p
    | none => .error .malformed

/-- A new instance takes its place, and the builder goes over its commands. -/
def Core.addInst (c : Core) (now : Nat) (i : Inst) : Core :=
  ({ c with insts := c.insts ++ [i], nextInst := c.nextInst + 1 } : Core).proceed now i.id

/-- What an INVOKE does: one instance, which completes when it ends. -/
def invokeCmd (e : Env) (c : Core) : Except Stop (Core × Option Run) := do
  let p ← c.progOf e.part (e.word 0)
  let i := newInst c p e.q e.cmd.tag p.allow ([1, 2, 3, 4].map fun k => BitVec.ofNat 64 (e.word k))
  .ok ((c.activate e.part).addInst e.now { i with want := bitAt 1 e.flags, ringN := e.n, chained := bitAt 0 e.flags }, none)

/-- INVOKE (R102): the row of one that is in hand. Fetching an INVOKE is what creates its instance, in COMMAND_FETCH and in CUT_OFF. -/
def execInvoke (c : Cmd) (s : State) : Host.Outcome State Fault Refusal := onCoreA (Core.command 0x000D c invokeCmd) s

/-! ### EMIT -/

/-- Source types of the record types that EMIT makes (Table 15-2): PROG_LOAD refuses any other (R367). -/
def emitType (rtype t : Nat) : Bool :=
  match rtype with
  | 0x01 | 0x02 => t == 0x0D
  | 0x03 => isBytes t
  | 0x04 | 0x05 => isWide t
  | 0x06 => isI t
  | 0x07 => true
  | 0x0B => t == 0x0F
  | _ => false

/-- Row widths of the record types (Table 15-2). -/
def emitWidth (rtype d0 : Nat) : Bool :=
  match rtype with
  | 0x01 => d0 == 8
  | 0x02 => d0 == 12
  | 0x04 | 0x05 | 0x06 => decide (1 ≤ d0) && decide (d0 ≤ 1024)
  | 0x0B => d0 == 4
  | _ => true

/-- Row payload header, Table 15-3. -/
def rowHead (first count rowB dtype d0 : Nat) : List Byte :=
  leBytes 4 first ++ leBytes 4 count ++ leBytes 2 rowB ++ leBytes 1 dtype ++ zeros 1 ++ leBytes 4 d0

/-- The rows as a record carries them: the element that Table 15-2 reserves, the last of a row of DETECTIONS or TRACKS, is
written as 0 (R12). -/
def emitData (rtype rowB : Nat) (data : List Byte) : List Byte :=
  if rtype == 0x01 || rtype == 0x02 then
    data.zipIdx.map fun b => if rowB ≤ b.2 % rowB + 4 then 0 else b.1
  else data

/-- The host rate of the trained link in bytes per µs (R369), and what the intake share of R33 leaves of it. -/
def Core.hostFull (c : Core) : Nat := 100 * c.host.rate
def Core.hostLeft (c : Core) : Nat := c.hostFull * (64 - c.host.intake) / 64

/-- Host DMA rate of a command's transfers: what the build assigns, or the partition's share (Table 9-6, Table 10-1). -/
def Env.hostRate (e : Env) (c : Core) : Nat :=
  let r := (e.choice.map (·.rate)).getD 0
  max 1 (if r == 0 then c.hostLeft * (c.part e.part).grants.hostDma / 250 else min r c.hostFull)

/-- What an EMIT takes: host DMA writes of every byte, header included (R367), as posted writes to host memory take it (Table 9-6). -/
def emitPiece (e : Env) (c : Core) (bytes : Nat) : Piece :=
  transfer 6 bytes 1000 (e.hostRate c) (max 1 c.hostFull) [(37, bytes)] [(1, bytes)]

/-- Bytes of a record, header included, of `data` bytes of rows (Tables 15-1, 15-3). -/
def emitBytes (sub data : Nat) : Nat := 64 + (if sub == 3 then 64 else if sub == 7 then 52 else 16) + data

/-- EMIT (R367). -/
def emitRun (e : Env) (c : Core) : Except Stop Run := do
  e.ready c
  let a ← e.arg c 0
  let first := e.nat 1
  let count := e.nat 2
  need (count != 0) (.fail .zeroShape none)
  need (decide (first + count ≤ a.view.rows) && emitType e.sub a.desc.dtype && emitWidth e.sub a.view.d0) .malformed
  let rowB := rowBytes a.desc.dtype a.view.d0
  let data := emitData e.sub rowB (Memory.read a.view.data (first * rowB) (count * rowB))
  let head := rowHead first count rowB a.desc.dtype a.view.d0
  let read := a.bare.ofRows ((List.range count).map (· + first))
  let st : Status := if read.lost then .dataLost else .ok
  let run (flags : Nat) (payload : List Byte) (lat : Option (Nat × List Byte)) (n : Nat) : Run :=
    { status := st, post := .record e.sub flags (e.inst.elim 0 Inst.s0) payload lat, pieces := [emitPiece e c (emitBytes e.sub n)] }
  if e.sub == 7 then
    let addr := e.nat 3
    let len := e.nat 4
    need (addr % 64 == 0 && decide (data.length ≤ 1048576) && decide (data.length ≤ len)) .malformed
    e.window c true addr len
    .ok (run 1 (head ++ leBytes 8 addr ++ leBytes 4 data.length ++ leBytes 1 a.desc.rank ++ zeros 3 ++
      (List.range 5).flatMap fun i => leBytes 4 (dim a.view.dims i)) (some (addr, data)) data.length)
  else
    let payload := if e.sub == 3 then zeros 46 ++ leBytes 2 data.length ++ zeros 16 ++ data else head ++ data
    need (decide (payload.length ≤ 4096)) .malformed
    .ok (run 0 payload none data.length)

def execEmit (c : Cmd) (s : State) : Host.Outcome State Fault Refusal :=
  onCoreA (Core.command 0x000B c (runOnly emitRun)) s

end Sys2Proof.Machine
end

