-- ==== Sys2Proof/Machine/Formats.lean ====
section
/-! DEFINITION. Writing elements (R146 to R148, R153, R495), the press (R149 to R152), MX blocks (R147), and the format
commands QUANT, DEQUANT, RESCALE and CONVERT (R154 to R158). -/

namespace Sys2Proof.Machine

/-- Counts that writing elements gives. -/
structure Cnt where
  nonfin : Nat := 0
  clamp  : Nat := 0
  flat   : Nat := 0
  sat    : Nat := 0
  deriving DecidableEq, Repr

def Cnt.add (a b : Cnt) : Cnt := ⟨a.nonfin + b.nonfin, a.clamp + b.clamp, a.flat + b.flat, a.sat + b.sat⟩
def cntSum (l : List Cnt) : Cnt := l.foldl Cnt.add {}
def Cnt.health (k : Cnt) : Health :=
  { nonfinite := k.nonfin, scaleClamp := k.clamp, flat := k.flat, sat := k.sat }

/-- Real value in FP32 in a mode. -/
def View.valM (v : View) (mode : Bool) (r j : Nat) : FVal := r32 mode (v.real r j)

/-- Largest code of a UINT type. -/
def topOf (t : Nat) : Int := 2 ^ bitsOf t - 1

/-- code(x) of R149 for a scale and zero point as read (R151, R153). An infinite source gets the code of R151 whatever the
scale: what R153 gives it under a stored scale that is negative, infinite or NaN, no rule says (DESIGN CHOICE, log 52). -/
def quantCode (t : Nat) (mode : Bool) (s : FVal) (z : Nat) (x : FVal) : Nat :=
  match x with
  | .nan => z
  | .inf n => if n then 0 else (topOf t).toNat
  | _ =>
    match div32 mode x s with
    | .nan => z
    | .inf n => if n then 0 else (topOf t).toNat
    | q => (clampI 0 (topOf t) ((q.toInt mode).getD 0 + z)).1.toNat

/-- Code of a value in an output type that carries no MX scale: conversion, integer range, or stored scales. -/
def encElem (dst : View) (mode : Bool) (r j : Nat) (x : FVal) : Nat × Cnt :=
  let t := dst.dtype
  if isU t then
    let s := dst.scaleAt r j
    (quantCode t mode s.1 s.2 x, { nonfin := if x.isFin then 0 else 1 })
  else if isI t then
    let b := bitsOf t
    let v := x.toRange mode (-(2 ^ (b - 1) : Int)) (2 ^ (b - 1) - 1) 0
    (unsigned b v.1, { sat := v.2.toNat })
  else if isBytes t then ((x.toRange false 0 255 0).1.toNat, {})
  else
    let x := if isF8 t && (dst.group != 0 || dst.hasRow) then div32 mode x (dst.scaleAt r j).1 else x
    let v := (fmtOf t).conv mode x
    (v.1, { sat := v.2.toNat })

/-- Scale byte and element codes of one MX block (R147). -/
def mxBlock (t : Nat) (mode : Bool) (xs : List FVal) : Nat × List Nat × Cnt :=
  if xs.any fun x => !x.isFin then (0xFF, xs.map fun _ => 0, {})
  else if xs.all FVal.isZero then (127, xs.map fun _ => 0, {})
  else
    let top := xs.foldl (fun (b : Option Int) x =>
      match x with
      | .fin _ m e => if m == 0 then b else
        let k := (Nat.log2 m : Int) + e
        match b with
        | none => some k
        | some y => some (max y k)
      | _ => b) none
    let X := max 0 (min 254 (top.getD 0 - emaxOf t + 127))
    let es := xs.map fun x =>
      match x with
      | .fin s m e =>
        if t == 0xA then
          let v := (FVal.fin s m (e - (X - 133))).toRange mode (-127) 127 0
          (unsigned 8 v.1, v.2)
        else (fmtOf t).conv mode (.fin s m (e - (X - 127)))
      | _ => (0, false)
    (X.toNat, es.map (·.1), { sat := (es.filter (·.2)).length })

/-- Splits a list into runs of `n`. -/
def chunks {α : Type} (n : Nat) (l : List α) : List (List α) :=
  if n == 0 then [l] else (List.range ((l.length + n - 1) / n)).map fun i => (l.drop (n * i)).take n

/-- One row or group under the press (R149 to R152): scale code, zero point, codes, counts. `half` stores FP16. -/
def pressGroup (t : Nat) (mode half : Bool) (xs : List FVal) : Nat × Nat × Bool × List Nat × Cnt :=
  let fs := xs.filter FVal.isFin
  let lo := fs.foldl (fun a x => if FVal.lt x a then x else a) .zero
  let hi := fs.foldl (fun a x => if FVal.lt a x then x else a) .zero
  let bad := xs.length - fs.length
  let f := if half then fFP16 else fFP32
  if FVal.eqv hi lo then
    ((f.conv false .one).1, 0, true, xs.map (fun x => quantCode t mode .one 0 (if x.isFin then .zero else x)),
      { nonfin := bad, flat := 1 })
  else
    let q := div32 mode (sub32 mode hi lo) (.ofInt (topOf t))
    let k := (f.conv mode q).1
    let big := k == f.infCode false
    let under := k == 0
    let k := if big then f.maxCode false else if under then 1 else k
    let s := f.decode k
    let z := (clampI 0 (topOf t) (((div32 mode lo.neg s).toInt mode).getD (topOf t))).1.toNat
    (k, z, false, xs.map (quantCode t mode s z), { nonfin := bad, clamp := (big || under).toNat })

/-- What a command writes for one operand: contents of the data copy and, where it writes scales, of the scale copy. -/
structure Written where
  data  : List Byte
  scale : Option (List Byte) := none
  rowS  : Option (List Byte) := none
  cnt   : Cnt := {}
  deriving DecidableEq, Repr

/-- Writes rows of values with the press: new scales, row scales where the type has them (R149, R150). -/
def pressRows (dst : View) (mode : Bool) (rows : List (List FVal)) : Written :=
  if dst.group != 0 then
    let gs := rows.map fun r => (chunks (groupSize dst.group) r).map (pressGroup dst.dtype mode true)
    { data := packRows dst.dtype (gs.map fun r => r.flatMap fun g => g.2.2.2.1)
      scale := some (packScales dst.dtype ((gs.flatMap id).map fun g => (g.1, g.2.1)))
      cnt := cntSum ((gs.flatMap id).map fun g => g.2.2.2.2) }
  else
    let gs := rows.map (pressGroup dst.dtype mode false)
    { data := packRows dst.dtype (gs.map fun g => g.2.2.2.1)
      rowS := some (gs.flatMap fun g => rowEntry g.1 g.2.1 g.2.2.1)
      cnt := cntSum (gs.map fun g => g.2.2.2.2) }

/-- Writes rows of values with conversion or stored scales; MX types get their blocks and scales (R147). Row numbers
start at `r0`. -/
def convRows (dst : View) (mode : Bool) (r0 : Nat) (rows : List (List FVal)) : Written :=
  if isMX dst.dtype then
    let bs := rows.map fun r => (chunks 32 r).map (mxBlock dst.dtype mode)
    { data := packRows dst.dtype (bs.map fun r => r.flatMap fun b => b.2.1)
      scale := some (packScales dst.dtype ((bs.flatMap id).map fun b => (b.1, 0)))
      cnt := cntSum ((bs.flatMap id).map fun b => b.2.2) }
  else
    let es := rows.zipIdx.map fun r => r.1.zipIdx.map fun x => encElem dst mode (r0 + r.2) x.2 x.1
    { data := packRows dst.dtype (es.map fun r => r.map (·.1))
      cnt := cntSum ((es.flatMap id).map (·.2)) }

/-- The outputs of a written operand; every copy keeps what lies beyond the region written. -/
def Env.outs (e : Env) (c : Core) (a : Arg) (w : Written) : List Out :=
  [a.whole w.data] ++
    (match w.scale with
      | some b => [e.sideOut c a.desc.scaleH a.view.scale b]
      | none => []) ++
    (match w.rowS with
      | some b => [e.sideOut c a.desc.rowH a.view.rowS b]
      | none => [])

/-- All rows of a view as values. -/
def View.rowsOfVals (v : View) (f : Nat → Nat → FVal) : List (List FVal) :=
  (List.range v.rows).map fun r => (List.range v.d0).map (f r)

/-- A run whose inputs are read now: a lost line fails it with DATA_LOST, a wrong tag with SCALE_MISALIGNED (R137,
R138, R402). -/
def Run.reading (r : Run) (args : List Arg) (badTag : Bool) : Run :=
  if args.any (·.lost) then { r with status := .dataLost }
  else if badTag then { r with status := .scaleMisaligned } else r

/-- What a command reads of a destination whose stored scales form its codes: UINT codes (R153, R164) and scaled FP8 elements
(R495). -/
def Arg.storedScales (b : Arg) (rows : List Nat) : List Arg :=
  if isU b.desc.dtype || isF8 b.desc.dtype then [b.stored rows] else []

/-- Lanes for an element width (R158) and the vector cost entry of a type (R239). -/
def lanesOf (bits : Nat) : Nat := if 32 ≤ bits then 256 else if 16 ≤ bits then 512 else 1024
def vecEntry (bits : Nat) : Nat := if 32 ≤ bits then 16 else if 16 ≤ bits then 17 else 18

/-- A stage on the vector units. -/
def Run.vector (r : Run) (v : VecTime) : Run := { r with pieces := r.pieces ++ [.vector v] }

/-- Lanes and cost entry for the widest of some element types (R158, R237, R239). -/
def wide (ts : List Nat) : Nat := ts.foldl (fun b t => max b (bitsOf t)) 8

/-- `w` passes of the lanes over the rows of a view, and `head` ac: types of the data operands. -/
def laneTime (ts : List Nat) (w : Nat) (v : View) (head : Nat) : VecTime :=
  { entry := vecEntry (wide ts), rows := v.rows, w := w, d0 := v.d0, lanes := lanesOf (wide ts), head := head }

/-- Elements of a view. -/
def View.count (v : View) : Nat := v.d0 * v.rows

/-- A format command: operands, equal dimensions (R155), tags, then the rows that `f` writes. -/
def formatRun (time : View → View → VecTime) (readsDst : View → Bool)
    (f : Env → View → View → Written) (e : Env) (c : Core) : Except Stop Run := do
  e.ready c
  let a ← e.arg c 0
  let b ← e.arg c 1
  need (a.view.dims == b.view.dims) .malformed
  let w := f e a.view b.view
  let r : Run := { outs := e.outs c b w, counts := w.cnt.health }
  let r := r.vector (time a.view b.view)
  .ok (r.reading (a :: (if readsDst b.view then b.storedScales (List.range b.view.rows) else [])) (a.view.badTag a.view.d0 || (readsDst b.view && b.view.badTag b.view.d0)))

/-- `num` ac for every 256 rows or groups that a unit writes, `g` of them to a row (R158). -/
def perGroups (v : VecTime) (num g : Nat) : VecTime := { v with num := num, den := 256, grp := g }
/-- Groups or rows that a press writes for each row. -/
def pressUnits (b : View) : Nat := if b.group != 0 then ceilDiv b.d0 (groupSize b.group) else 1
/-- Times of R158. -/
def pressTime (a b : View) : VecTime := perGroups (laneTime [a.dtype, b.dtype] 2 a 24) 8 (pressUnits b)
def onePassTime (a b : View) : VecTime := laneTime [a.dtype, b.dtype] 1 a 12
def convertTime (a b : View) : VecTime :=
  if isMX b.dtype then perGroups (onePassTime a b) 4 (ceilDiv b.d0 32) else onePassTime a b

/-- QUANT and RESCALE (Table 5-7): sub-operation 0 presses, 1 uses the stored scales. -/
def quantRun (e : Env) (c : Core) : Except Stop Run :=
  if e.sub == 0 then
    formatRun pressTime (fun _ => false) (fun e a b => pressRows b e.mode (a.rowsOfVals (a.valM e.mode))) e c
  else
    formatRun onePassTime (fun _ => true) (fun e a b => convRows b e.mode 0 (a.rowsOfVals (a.valM e.mode))) e c

def execQuant (c : Cmd) (s : State) : Host.Outcome State Fault Refusal :=
  onCoreA (Core.command 0x3001 c (runOnly quantRun)) s

/-- The real value in FP32, then converted (R154). -/
def dequantRun (e : Env) (c : Core) : Except Stop Run :=
  formatRun onePassTime (fun _ => false) (fun e a b => convRows b e.mode 0 (a.rowsOfVals (a.valM e.mode))) e c

/-- DEQUANT (R154). -/
def execDequant (c : Cmd) (s : State) : Host.Outcome State Fault Refusal :=
  onCoreA (Core.command 0x3002 c (runOnly dequantRun)) s

/-- RESCALE. -/
def execRescale (c : Cmd) (s : State) : Host.Outcome State Fault Refusal :=
  onCoreA (Core.command 0x3003 c (runOnly quantRun)) s

/-- Rows written by CONVERT: NONFINITE counts the source elements that are not finite, whatever the destination (R157). -/
def convertRows (e : Env) (a b : View) : Written :=
  let rows := a.rowsOfVals a.real
  let w := convRows b e.mode 0 rows
  { w with cnt := { w.cnt with nonfin := ((rows.flatMap id).filter fun x => !x.isFin).length } }

/-- CONVERT (R146 to R148, R495): from the exact value of each element. -/
def convertRun (e : Env) (c : Core) : Except Stop Run := formatRun convertTime (fun b => isF8 b.dtype) convertRows e c

def execConvert (c : Cmd) (s : State) : Host.Outcome State Fault Refusal :=
  onCoreA (Core.command 0x3004 c (runOnly convertRun)) s

end Sys2Proof.Machine
end

