-- ==== Sys2Proof/Machine/Tensor.lean ====
section
/-! DEFINITION. Array arithmetic (R139 to R144, R165) and the tensor commands MATMUL, CONV2D, DWCONV, ATTEND, TRANSPOSE,
COPY and FILL (R159 to R182). -/

namespace Sys2Proof.Machine

/-! ### Sums in a free order -/

/-- Combines terms by a rounded operation, in an order that free values choose (R144, log 9): while more than two
terms are left, two of them are replaced by their result. One or two terms leave no choice. -/
def treeFold (op : FVal → FVal → FVal) (unit : FVal) (k : Nat) : Nat → Nat → List FVal → FVal
  | 0, _, l => l.foldl op unit
  | fuel + 1, base, l =>
    match l with
    | [] => unit
    | [x] => op unit x
    | [x, y] => op x y
    | l =>
      let i := Config.freeNat k base % l.length
      let x := l.getD i .zero
      let l := l.eraseIdx i
      let j := Config.freeNat k (base + 1) % l.length
      treeFold op unit k fuel (base + 2) (op x (l.getD j .zero) :: l.eraseIdx j)

/-- Sum and product of terms in FP32, each step rounded. -/
def sumFree (mode : Bool) (k base : Nat) (l : List FVal) : FVal := treeFold (add32 mode) .zero k l.length base l
def prodFree (mode : Bool) (k base : Nat) (l : List FVal) : FVal := treeFold (mul32 mode) .one k l.length base l

/-! ### Products and folds -/

/-- Significand width of R141. -/
def sigWidth (t : Nat) : Int :=
  if t == 3 || t == 5 then 4 else if t == 4 || t == 6 then 3 else if t == 7 then 3 else if t == 8 then 4
  else if t == 9 then 2 else if t == 0xB then 8 else if t == 0xC then 11 else 8

/-- Integer path of Table 5-5. -/
def intPath (ta tb : Nat) : Bool := (isU ta && isU tb) || (ta == 0xA && tb == 0xA)

/-- Signed significand and weight of its lowest bit (R141); none for ±inf and NaN. -/
def sigOf (t code : Nat) : Option (Int × Int) :=
  if t == 0xA then some (signed 8 code, 0)
  else
    match (fmtOf t).decode code with
    | .fin s m e => some (if s then -(m : Int) else m, e)
    | _ => none

/-- Integer operand of R128 or R140. -/
def intOf (t z code : Nat) : Int := if t == 0xA then signed 8 code else (code : Int) - z

/-- A signed number times 2^e rounded to an integer in a mode. -/
def rndInt (mode : Bool) (v e : Int) : Int :=
  let p := scaleQ v.natAbs 1 e
  let q : Int := rndDiv mode p.1 p.2
  if v < 0 then -q else q

def maxI (l : List Int) (d : Int) : Int := l.foldl max (l.headD d)

/-- One operand of a reduction: type, code at a position (none: synthesised), scale and zero point at a position. -/
structure Line where
  dtype : Nat
  code  : Nat → Option Nat
  scale : Nat → FVal × Nat

/-- Width of the low part of a significand of 16-bit floats: at most six bits go to either part (R187). -/
def lowWidth (t : Nat) : Nat := if t == 0xB then 2 + Config.splitAt t % 5 else 5 + Config.splitAt t % 2

/-- The high and the low part of a significand, with its sign. -/
def splitSig (t : Nat) (m : Int) : List Int :=
  let l := m.natAbs % 2 ^ lowWidth t
  let h := m.natAbs - l
  if m < 0 then [-(h : Int), -(l : Int)] else [(h : Int), (l : Int)]

/-- What joins the column sum for a product of two significands: the product, or in quad mode its four partial products (R187). -/
def partials (ta tb : Nat) (x y : Int) : List Int :=
  if ta == 0xB || ta == 0xC then (splitSig ta x).flatMap fun a => (splitSig tb y).map fun b => a * b else [x * y]

/-- The fold terms of one output element (R140 to R142), one per segment of `seg` positions below `klen`: `b` lists the
stationary elements as position and code. -/
def foldTerms (mode : Bool) (seg klen : Nat) (a : Line) (tb : Nat) (b : List (Nat × Nat)) (bs : Nat → FVal × Nat) :
    List FVal :=
  (List.range (ceilDiv klen seg)).map fun i =>
    let lo := i * seg
    let hi := min (lo + seg) klen
    let es := b.filter fun e => decide (lo ≤ e.1) && decide (e.1 < hi)
    let fa := (a.scale lo).1
    let fb := (bs lo).1
    let fm : FVal := .fin false 1 ((if a.dtype == 0xA then -6 else 0) + (if tb == 0xA then -6 else 0))
    if intPath a.dtype tb then
      let p : Int := es.foldl (fun (s : Int) e =>
        match a.code e.1 with
        | some x => s + intOf a.dtype (a.scale e.1).2 x * intOf tb (bs e.1).2 e.2
        | none => s) 0
      r32 mode (((FVal.ofInt p).mul (fa.mul fb)).mul fm)
    else
      let qa := maxI (((List.range (hi - lo)).filterMap fun j => (a.code (lo + j)).bind (sigOf a.dtype)).map (·.2))
        (fmtOf a.dtype).sub
      let qb := maxI ((es.filterMap fun e => sigOf tb e.2).map (·.2)) (fmtOf tb).sub
      let u := qa + qb + sigWidth a.dtype + sigWidth tb
      let p : Int := es.foldl (fun (s : Int) e =>
        match (a.code e.1).bind (sigOf a.dtype), sigOf tb e.2 with
        | some x, some y => (partials a.dtype tb x.1 y.1).foldl (fun s p => s + rndInt mode p (x.2 + y.2 - (u - 25))) s
        | _, _ => s) 0
      let w : FVal := .fin (decide (p < 0)) p.natAbs (u - 25)
      r32 mode ((w.mul (fa.mul fb)).mul fm)

/-- Some element of the row or the column is ±inf or NaN (R143); E8M0 NaN scales act through the fold. -/
def lineBad (a : Line) (tb klen : Nat) (b : List (Nat × Nat)) : Bool :=
  (List.range klen).any (fun k =>
    match a.code k with
    | some x => !(elemVal a.dtype 0 x).isFin
    | none => false) ||
  b.any fun e => decide (e.1 < klen) && !(elemVal tb 0 e.2).isFin

/-- How a product is summed: positions of a K-block, lengths of the segments in K-blocks, and whether a segment starts from the
parked result of the one before (R194, R195). -/
structure Split where
  kb     : Nat
  segs   : List Nat
  parked : Bool

/-- The builder's split of product `i` of a command (R144, R197); as the tile sequencer would cut it where no build has planned
the command. -/
def Env.split (e : Env) (i : Nat) (x : Product) : Split :=
  match e.choice with
  | some ch =>
    let p := ch.probs.getD i {}
    ⟨x.blockK p.quarter, p.cuts, p.parked⟩
  | none =>
    let q := x.quarter false
    ⟨x.blockK q, segments (ceilDiv x.k (x.blockK q)) (x.foldBlocks q) 32 [], true⟩

/-- The fold terms, `seg` positions each, that fall to each segment. -/
def Split.parts (s : Split) (seg : Nat) (terms : List FVal) : List (List FVal) :=
  (List.range s.segs.length).map fun i =>
    let lo := (s.segs.take i).foldl (· + ·) 0 * s.kb
    let hi := (s.segs.take (i + 1)).foldl (· + ·) 0 * s.kb
    (terms.zipIdx.filter fun x => decide (lo ≤ x.2 * seg) && (decide (x.2 * seg < hi) || i + 1 == s.segs.length)).map (·.1)

/-- One output element before bias (R142, R143, R194, R195): the fold terms of a segment added in the order of the chain, each
segment from the parked result of the one before, or from +0 with the results added in a free order; an exact zero is +0
(R124). -/
def dot (mode : Bool) (draw base : Nat) (sp : Split) (seg klen : Nat) (a : Line) (tb : Nat) (b : List (Nat × Nat))
    (bs : Nat → FVal × Nat) : FVal :=
  let parts := sp.parts seg (foldTerms mode seg klen a tb b bs)
  if lineBad a tb klen b then .nan
  else
    match if sp.parked then (parts.flatMap id).foldl (add32 mode) .zero
      else sumFree mode draw base (parts.map fun l => l.foldl (add32 mode) .zero) with
    | .fin _ 0 e => .fin false 0 e
    | v => v

/-- Group size that folds a problem on the integer path (R142): the smaller one, 0 where neither has groups. -/
def foldGroup (a b : View) : Nat :=
  let x := groupSize a.group
  let y := groupSize b.group
  if x == 0 then y else if y == 0 then x else min x y

/-- Positions between fold points. `block` folds at every K-block (R142, R174). -/
def segLen (a b : View) (kb : Nat) (block : Bool) : Nat :=
  if intPath a.dtype b.dtype && !block && foldGroup a b != 0 then foldGroup a b else kb

/-- Stored elements of row `n` of a stationary operand as position and code: dense, or 2:4 sparse with its metadata
(R165). -/
def staticRow (b : View) (sparse : Option Memory) (n : Nat) : List (Nat × Nat) :=
  match sparse with
  | none => (List.range b.d0).map fun k => (k, b.code n k)
  | some md =>
    let quads := (b.d0 + 3) / 4
    (List.range (2 * quads)).filterMap fun s =>
      let q := s / 2
      let nib := (Memory.byte md (n * ((quads + 1) / 2) + q / 2)).toNat / 16 ^ (q % 2) % 16
      let pos := 4 * q + (if s % 2 == 0 then nib % 4 else nib / 4)
      if pos < b.d0 then
        some (pos, readBits b.data (n * rowBytes b.dtype (2 * quads)) (s * bitsOf b.dtype) (bitsOf b.dtype))
      else none

/-- Bias and epilogue (R162). -/
def epilogue (mode relu : Bool) (bias : Option FVal) (acc : FVal) : FVal :=
  let x := match bias with
    | some b => add32 mode acc b
    | none => acc
  if relu && x.isNeg then .zero else x

/-- Writes rows of FP32 results: pressed, or converted with what the destination stores (R164). -/
def outRows (dst : View) (mode press : Bool) (rows : List (List FVal)) : Written :=
  if press then pressRows dst mode rows else convRows dst mode 0 rows

/-- Array variant of an operand pair (R493): 0 single, 1 dual, 2 dual with a 6-bit type, 3 quad. -/
def arrayVariant (ta tb : Nat) : Nat :=
  if ta == 0xB || ta == 0xC then 3
  else if ta == 2 && tb == 2 then 1
  else if (ta == 7 || ta == 8 || ta == 9) then (if ta == 9 && tb == 9 then 1 else 2)
  else 0

/-- Array-ac of a product (R210): the strip times over every tile and K-block on arrays of a SKEW_EXTRA; a quarter is a quarter of an
array. -/
def Product.arrayAc (x : Product) (quarter : Bool) (skew : Nat) : Nat :=
  let s := stripRows quarter
  let ac := ceilDiv x.k (x.blockK quarter) * ceilDiv x.n (blockSide quarter) *
    (x.m / s * stripAc x.variant s quarter skew + (if x.m % s == 0 then 0 else stripAc x.variant (x.m % s) quarter skew))
  if quarter then ceilDiv ac 4 else ac

/-- The product of an operand pair: rows, columns, reduction positions (R191, R493). -/
def productOf (ta tb : Nat) (sparse forced : Bool) (fold m n k : Nat) (window : Option Expand) : Product :=
  { variant := arrayVariant ta tb, sparse := sparse, m := m, n := n, k := k, forced := forced
    block := 128 * bitsOf tb + (if sparse then 256 else 0), fold := fold, window := window }

/-- Fold points follow the groups on the integer path, K-blocks elsewhere (R142, R174). -/
def foldAt (a b : View) (block : Bool) : Nat := if intPath a.dtype b.dtype && !block then foldGroup a b else 0

/-- Bytes of a view as stored. -/
def View.bytes (v : View) : Nat := v.rows * rowBytes v.dtype v.d0

/-- Tillers among which the rows of a command are divided. -/
def Env.units (e : Env) : Nat := e.choice.elim 1 fun ch => (unitsOf ch).length

/-- DRAM rate in bytes per µs of a command's transfers: what the build assigns, up to the 493 GB/s of the path, or the
partition's share (Table 9-6, Table 10-1). -/
def Env.dramRate (e : Env) (c : Core) : Nat :=
  let r := (e.choice.map (·.rate)).getD 0
  max 1 (if r == 0 then 493000 * (c.part e.part).grants.dramShare / 250 else min r 493000)

/-- Reads from DRAM into the granary (R254, R259, Table 9-6). -/
def Env.staging (e : Env) (c : Core) (bytes : Nat) : Piece :=
  transfer 4 bytes 400 (e.dramRate c) 493000 [(25, bytes), (24, bytes)] [(0, bytes)]

/-- Operand word `k` names a buffer whose copies lie in DRAM (Table 9-2). -/
def Env.inDram (e : Env) (c : Core) (k : Nat) : Bool :=
  ((e.dWord k).bind fun d => c.buf? e.part (e.bufNum c d.handle)).any fun b => b.kind != 0

/-- The time of a press of FP32 rows (R158, R196). -/
def pressRowsTime (d : View) : VecTime := pressTime { d with dtype := 0xD, group := 0, hasRow := false } d

/-! ### MATMUL -/

/-- A reduction length operand (R163): none when it is above K. -/
def lenOperand (v : Int) (k : Nat) : Option Nat :=
  if v < 0 then some k else if v ≤ k then some v.toNat else none

/-- An optional descriptor operand, present while its flag bit is 1. -/
def Env.optArg (e : Env) (c : Core) (present : Bool) (k : Nat) : Except Stop (Option Arg) :=
  if present then (e.arg c k).map some else .ok none

def optLost (a : Option Arg) : List Arg := a.toList

/-- Line of row `r` of a streaming operand. -/
def View.line (v : View) (r : Nat) : Line := { dtype := v.dtype, code := fun k => some (v.code r k), scale := v.scaleAt r }

/-- A lost line that holds metadata of the first `klen` of `k` positions of a row (R163, R165). -/
def Arg.metaLost (a : Arg) (rows k klen : Nat) : Bool :=
  let per (p : Nat) : Nat := (ceilDiv p 4 + 1) / 2
  a.bad.any fun l => (List.range rows).any fun j =>
    decide (8 * l < j * per k + per klen) && decide (j * per k < 8 * l + 8)

/-- The product of a MATMUL. -/
def matmulProduct (e : Env) (a b : View) (klen : Nat) : Product :=
  productOf a.dtype b.dtype (e.flag 3) (e.flag 3 && (a.group == 1 || b.group == 1)) (foldAt a b false) a.rows (rowsOf b.dims) klen none

/-- A stage of which nothing is left. -/
def noPiece : Piece := .move 0 1024 24 []

/-- The work of a MATMUL (R166, R171, R196, R204, R254): the transposed copies that the mover makes, a copy of A in each tiller
that streams it; the blocks of a WEIGHT buffer from DRAM; the product; the fill of a reduction over nothing, which is all the work
of it; the press. -/
def matmulPieces (e : Env) (c : Core) (a b d : View) (klen fill : Nat) : List Piece :=
  let keep (p : Piece) : Piece := if klen == 0 then noPiece else p
  (if a.trans then [keep (.each a.bytes 128 32 [(21, 1)])] else []) ++
    (if b.trans then [if e.inDram c 1 then keep (e.staging c b.bytes) else noPiece, keep (.move b.bytes 1024 24 [(23, 1)]),
      keep (.move b.bytes 128 32 [(21, 1)]), keep (.move b.bytes 1024 24 [(24, 1)])] else []) ++
    [.arrays (matmulProduct e a b klen), .move fill 256 16 [(20, 0)]] ++
    (if e.flag 4 then [keep (.vector (pressRowsTime d))] else [])

/-- MATMUL (R162 to R166, R171). Dimensions that break a relation come before a KLEN above K, and a scale buffer too short before both
(DESIGN CHOICE, log 52). -/
def matmulRun (e : Env) (c : Core) : Except Stop Run := do
  e.ready c
  let a ← e.arg c 0
  let b ← e.arg c 1
  let d ← e.arg c 2
  let bias ← e.optArg c (e.flag 5) 3
  let md ← e.optArg c (e.flag 3) 5
  let k := a.view.d0
  let n := rowsOf b.view.dims
  let quads := (k + 3) / 4
  need (b.view.d0 == k && d.view.d0 == n && a.view.dims.tail == d.view.dims.tail &&
    bias.all (fun x => x.view.d0 == n) &&
    md.all (fun x => decide (n * ((quads + 1) / 2) ≤ x.view.d0))) .malformed
  let klen ← match lenOperand (e.int 4) k with
    | some x => .ok x
    | none => .error (.fail .shapeExceedsPlan none)
  let sp := md.map (·.view.data)
  let x := matmulProduct e a.view b.view klen
  let sq := e.split 0 { x with k := k }
  let seg := segLen a.view b.view sq.kb false
  let relu := e.flags / 64 == 1
  let rows := (List.range a.view.rows).map fun i => (List.range n).map fun j =>
    epilogue e.mode relu (bias.map fun x => x.view.val 0 j)
      (dot e.mode e.draw ((i * n + j) * 2 ^ 32) sq seg klen (a.view.line i) b.view.dtype (staticRow b.view sp j) (b.view.scaleAt j))
  let w := outRows d.view e.mode (e.flag 4) rows
  let r : Run := { outs := e.outs c d w, counts := w.cnt.health
                   pieces := matmulPieces e c a.view b.view d.view klen (if klen == 0 then d.view.bytes else 0) }
  let ra := a.upTo (List.range a.view.rows) k klen klen
  let rb := if e.flag 3 then b.upTo (List.range n) (2 * quads) (2 * ((klen + 3) / 4)) klen else b.upTo (List.range n) k klen klen
  let rm := md.map fun (x : Arg) => ({ x with lost := x.metaLost n k klen } : Arg)
  .ok (r.reading ([ra, rb] ++ optLost bias ++ (if klen == 0 then [] else optLost rm) ++
      (if e.flag 4 then [] else d.storedScales (List.range d.view.rows)))
    (klen != 0 && (a.view.badTag klen || b.view.badTag klen)))

def execMatmul (c : Cmd) (s : State) : Host.Outcome State Fault Refusal :=
  onCoreA (Core.command 0x1001 c (runOnly matmulRun)) s

/-! ### Convolutions -/

/-- The geometry word (Table 6-5). -/
def geomOf (w : Nat) : Geom :=
  let f (k : Nat) : Nat := w / 16 ^ k % 16
  ⟨f 7 + 1, f 6 + 1, f 5 + 1, f 4 + 1, f 3 + 1, f 2 + 1, f 1, f 0⟩

/-- Padding limits of R173: top and left, implied bottom for input height h and output height ho, implied right. -/
def Geom.startOk (g : Geom) : Bool := decide (g.pt ≤ (g.kh - 1) * g.dy) && decide (g.pl ≤ (g.kw - 1) * g.dx)
def Geom.bottomOk (g : Geom) (h ho : Nat) : Bool :=
  decide ((ho - 1) * g.sy + (g.kh - 1) * g.dy + 1 - g.pt - h ≤ (g.kh - 1) * g.dy)
def Geom.rightOk (g : Geom) (w wo : Nat) : Bool :=
  decide ((wo - 1) * g.sx + (g.kw - 1) * g.dx + 1 - g.pl - w ≤ (g.kw - 1) * g.dx)

/-- All of them for input w × h and output wo × ho. -/
def Geom.padOk (g : Geom) (w h wo ho : Nat) : Bool := g.startOk && g.bottomOk h ho && g.rightOk w wo

/-- The input pixel rows that some window reads; positions outside the input read nothing (R170). -/
def Geom.pixels (g : Geom) (w h wo ho : Nat) : List Nat :=
  (List.range (w * h)).filter fun p => (List.range (wo * ho)).any fun o =>
    (List.range (g.kh * g.kw)).any fun t => g.tap w h (o / wo) (o % wo) (t / g.kw) (t % g.kw) == some p

/-- Padded channel count of R172. -/
def padChannels (v : View) : Nat := if v.group != 0 || v.hasRow then (v.d0 + 31) / 32 * 32 else v.d0

/-- Line of output pixel (oy, ox): position k = (ky × kw + kx) × Cp + c. -/
def windowLine (v : View) (g : Geom) (cp oy ox : Nat) : Line :=
  let w := dim v.dims 1
  let h := dim v.dims 2
  let at_ (k : Nat) : Option Nat := g.tap w h oy ox (k / cp / g.kw) (k / cp % g.kw)
  { dtype := v.dtype
    code := fun k => if k % cp < v.d0 then (at_ k).map fun p => v.code p (k % cp) else none
    scale := fun k =>
      match at_ k with
      | some p => v.scaleAt p (min (k % cp) (v.d0 - 1))
      | none => (.one, 0) }

/-- The product of a CONV2D: the mover expands its windows (R204). -/
def convProduct (e : Env) (x b d : View) : Product :=
  let g := geomOf (e.word 4)
  let cp := padChannels x
  let scaled := x.group != 0 || x.hasRow
  productOf x.dtype b.dtype (e.flag 3) (e.flag 3 && (x.group == 1 || b.group == 1 || (scaled && cp % 64 != 0))) (foldAt x b scaled)
    d.rows (rowsOf b.dims) (g.kh * g.kw * cp)
    (some { geom := g, w := dim x.dims 1, h := dim x.dims 2, ch := x.d0, bits := bitsOf x.dtype, cp := cp, wo := dim d.dims 1 })

def convPieces (e : Env) (x b d : View) : List Piece :=
  [.arrays (convProduct e x b d)] ++
    (if e.flag 4 then [.vector (pressRowsTime d)] else [])

/-- CONV2D (R172 to R174). -/
def convRun (e : Env) (c : Core) : Except Stop Run := do
  e.ready c
  let x ← e.arg c 0
  let b ← e.arg c 1
  let d ← e.arg c 2
  let bias ← e.optArg c (e.flag 5) 3
  let md ← e.optArg c (e.flag 3) 5
  let g := geomOf (e.word 4)
  let cp := padChannels x.view
  let k := g.kh * g.kw * cp
  let n := rowsOf b.view.dims
  let wo := dim d.view.dims 1
  let ho := dim d.view.dims 2
  let quads := (k + 3) / 4
  need (b.view.d0 == k && d.view.d0 == n && bias.all (fun y => y.view.d0 == n) &&
    md.all (fun y => decide (n * ((quads + 1) / 2) ≤ y.view.d0)) &&
    g.padOk (dim x.view.dims 1) (dim x.view.dims 2) wo ho) .malformed
  let sp := md.map (·.view.data)
  let scaled := x.view.group != 0 || x.view.hasRow
  let sq := e.split 0 (convProduct e x.view b.view d.view)
  let seg := segLen x.view b.view sq.kb scaled
  let relu := e.flags / 64 == 1
  let rows := (List.range (wo * ho)).map fun i => (List.range n).map fun j =>
    epilogue e.mode relu (bias.map fun y => y.view.val 0 j)
      (dot e.mode e.draw ((i * n + j) * 2 ^ 32) sq seg k (windowLine x.view g cp (i / wo) (i % wo)) b.view.dtype
        (staticRow b.view sp j) (b.view.scaleAt j))
  let w := outRows d.view e.mode (e.flag 4) rows
  let r : Run := { outs := e.outs c d w, counts := w.cnt.health, pieces := convPieces e x.view b.view d.view }
  let px := g.pixels (dim x.view.dims 1) (dim x.view.dims 2) wo ho
  let rb := if e.flag 3 then b.upTo (List.range n) (2 * quads) (2 * quads) k else b
  let rm := md.map fun (y : Arg) => ({ y with lost := y.metaLost n k k } : Arg)
  .ok (r.reading ([x.ofRows px, rb] ++ optLost bias ++ optLost rm ++ (if e.flag 4 then [] else d.storedScales (List.range d.view.rows)))
    (x.view.badTagIn px x.view.d0 || b.view.badTag k))

def execConv2d (c : Cmd) (s : State) : Host.Outcome State Fault Refusal :=
  onCoreA (Core.command 0x1002 c (runOnly convRun)) s

/-- The time of a DWCONV (R176). -/
def dwconvTime (e : Env) (x b d : View) : VecTime :=
  let g := geomOf (e.word 4)
  { entry := vecEntry (wide [x.dtype, b.dtype, d.dtype]), rows := d.rows, w := g.kh * g.kw + 2, d0 := d.d0, head := 20
    num := if isU d.dtype && e.flag 4 then 8 else 0, den := 256 }

/-- DWCONV (R175, R176): taps in order, each product and sum rounded. -/
def dwconvRun (e : Env) (c : Core) : Except Stop Run := do
  e.ready c
  let x ← e.arg c 0
  let b ← e.arg c 1
  let d ← e.arg c 2
  let bias ← e.optArg c (e.flag 5) 3
  let g := geomOf (e.word 4)
  let ch := x.view.d0
  let w := dim x.view.dims 1
  let h := dim x.view.dims 2
  let wo := dim d.view.dims 1
  let ho := dim d.view.dims 2
  need (b.view.d0 == ch && rowsOf b.view.dims == g.kh * g.kw && d.view.d0 == ch &&
    bias.all (fun y => y.view.d0 == ch) && g.padOk w h wo ho) .malformed
  let relu := e.flags / 64 == 1
  let rows := (List.range (wo * ho)).map fun i => (List.range ch).map fun j =>
    let acc := (List.range (g.kh * g.kw)).foldl (fun acc t =>
      match g.tap w h (i / wo) (i % wo) (t / g.kw) (t % g.kw) with
      | some p => add32 e.mode acc (mul32 e.mode (x.view.valM e.mode p j) (b.view.valM e.mode t j))
      | none => acc) .zero
    epilogue e.mode relu (bias.map fun y => y.view.val 0 j) acc
  let wr := outRows d.view e.mode (e.flag 4) rows
  let r : Run := { outs := e.outs c d wr, counts := wr.cnt.health }
  let px := g.pixels w h wo ho
  .ok ((r.vector (dwconvTime e x.view b.view d.view)).reading ([x.ofRows px, b] ++ optLost bias ++ (if e.flag 4 then [] else d.storedScales (List.range d.view.rows)))
    (x.view.badTagIn px ch || b.view.badTag ch))

def execDwconv (c : Cmd) (s : State) : Host.Outcome State Fault Refusal :=
  onCoreA (Core.command 0x1003 c (runOnly dwconvRun)) s

/-! ### ATTEND -/

/-- log2(e) as an FP32 constant (R177, R235). -/
def log2e32 : FVal := f32 0x3FB8AA3B

/-- Softmax weights of a row before conversion: e · recip(Σe), sums in a free order (R177). -/
def softWeights (mode : Bool) (draw base : Nat) (s : List FVal) : List FVal :=
  let m := s.tail.foldl FVal.max (s.headD .zero)
  let es := s.zipIdx.map fun x => vsfn 0 (Config.ulp draw (base + x.2)) (mul32 mode (sub32 mode x.1 m) log2e32)
  let r := vsfn 2 (Config.ulp draw (base + s.length)) (sumFree mode draw base es)
  es.map fun x => mul32 mode x r

/-- Key `j` is visible to query row `i` (R178). -/
def visible (kvlen lq lk : Nat) (causal : Bool) (mask : Option Memory) (i j : Nat) : Bool :=
  decide (j < kvlen) && (!causal || decide (j + lq ≤ kvlen + i)) &&
    (match mask with
      | some m => bitAt (j % 8) (Memory.byte m (i * ((lk + 7) / 8) + j / 8)).toNat
      | none => true)

/-- The scores and the weighted values of an ATTEND over `kvlen` keys. -/
def attendProducts (q k : View) (kvlen : Nat) : Product × Product :=
  (productOf q.dtype k.dtype false false 0 q.rows kvlen q.d0 none, productOf q.dtype k.dtype false false 0 q.rows q.d0 kvlen none)

/-- The work of an ATTEND (R177, R259): K and V from DRAM where they lie there, the scores, their softmax on the vector units
(Table 8-6), the weighted values. -/
def attendPieces (e : Env) (c : Core) (q k v : View) (kvlen : Nat) : List Piece :=
  let x := attendProducts q k kvlen
  let rows (a : View) : Nat := kvlen * rowBytes a.dtype a.d0
  [if e.inDram c 1 || e.inDram c 2 then
      e.staging c ((if e.inDram c 1 then rows k else 0) + (if e.inDram c 2 then rows v else 0)) else noPiece,
    .arrays x.1,
    .vector { entry := 19, rows := q.rows, w := 4, d0 := kvlen, head := 24, num := 2, den := 32 },
    .arrays x.2]

/-- ATTEND (R177, R178). Dimensions that break a relation come before a KVLEN above Lk (DESIGN CHOICE, log 52). -/
def attendRun (e : Env) (c : Core) : Except Stop Run := do
  e.ready c
  let q ← e.arg c 0
  let k ← e.arg c 1
  let v ← e.arg c 2
  let o ← e.arg c 3
  let mask ← e.optArg c (e.flag 5) 5
  let dh := q.view.d0
  let lq := q.view.rows
  let lk := rowsOf k.view.dims
  need (k.view.d0 == dh && v.view.dims == k.view.dims && o.view.d0 == dh && q.view.dims.tail == o.view.dims.tail &&
    mask.all (fun m => decide (lq * ((lk + 7) / 8) ≤ m.view.d0))) .malformed
  let kvlen ← match lenOperand (e.int 4) lk with
    | some x => .ok x
    | none => .error (.fail .shapeExceedsPlan none)
  let px := attendProducts q.view k.view kvlen
  let kq := e.split 0 px.1
  let kp := e.split 1 { px.2 with k := lk }
  let sc := rsqrt32 e.mode dh
  let pt := if isF8 q.view.dtype then 3 else q.view.dtype
  let see (i : Nat) : List Nat :=
    (List.range kvlen).filter fun j => visible kvlen lq lk (e.flag 4) (mask.map (·.view.data)) i j
  let rows := (List.range lq).map fun i =>
    let vis := see i
    let base := i * 2 ^ 64
    let s := vis.map fun j =>
      mul32 e.mode (dot e.mode e.draw (base + j * 2 ^ 32) kq kq.kb dh (q.view.line i) k.view.dtype (staticRow k.view none j)
        (k.view.scaleAt j)) sc
    let p := (softWeights e.mode e.draw (base + 2 ^ 60) s).map fun x => ((fmtOf pt).conv e.mode x).1
    let pl : Line :=
      { dtype := pt, scale := fun _ => (.one, 0)
        code := fun j => match vis.idxOf? j with
          | some t => p[t]?
          | none => none }
    (List.range dh).map fun d =>
      if vis.isEmpty then .zero
      else dot e.mode e.draw (base + 2 ^ 61 + d * 2 ^ 32) kp kp.kb kvlen pl v.view.dtype (vis.map fun j => (j, v.view.code j d))
        (fun _ => (.one, 0))
  let w := convRows o.view e.mode 0 rows
  let none_ := (List.range lq).any fun i => (see i).isEmpty
  let r : Run := { outs := e.outs c o w, counts := w.cnt.health, status := if none_ then .empty else .ok
                   pieces := attendPieces e c q.view k.view v.view kvlen }
  let keys := (List.range kvlen).filter fun j => (List.range lq).any fun i =>
    visible kvlen lq lk (e.flag 4) (mask.map (·.view.data)) i j
  .ok (r.reading
    ([q, k.upTo keys dh dh dh, v.upTo keys dh dh dh] ++ optLost mask) false)

def execAttend (c : Cmd) (s : State) : Host.Outcome State Fault Refusal :=
  onCoreA (Core.command 0x1004 c (runOnly attendRun)) s

/-! ### TRANSPOSE, COPY, FILL -/

/-- A row with everything that travels with it: codes, group scales with zero points, row-scale entry. -/
structure RowImg where
  codes : List Nat
  gs    : List (Nat × Nat) := []
  rs    : List Byte := []
  deriving DecidableEq, Repr

/-- Code of the group scale and zero point at group `g` of row `r`. -/
def View.groupCode (v : View) (r g : Nat) : Nat × Nat :=
  let ix := r * ceilDiv v.d0 (groupSize v.group) + g
  let base := 64 * (ix / 16)
  let k := ix % 16
  if isMX v.dtype then ((Memory.byte v.scale (base + k)).toNat, 0)
  else (leNat (Memory.read v.scale (base + 2 * k) 2), (v.scaleAt r (g * groupSize v.group)).2)

def View.rowImg (v : View) (r : Nat) : RowImg :=
  { codes := (List.range v.d0).map (v.code r)
    gs := if v.group == 0 then [] else (List.range (ceilDiv v.d0 (groupSize v.group))).map (v.groupCode r)
    rs := if v.hasRow then Memory.read v.rowS (8 * r) 8 else [] }

/-- A row as it moves to another tensor: its row-scale entry is written anew (R134, R179). -/
def View.movedRow (v : View) (r : Nat) : RowImg :=
  { v.rowImg r with rs := if v.hasRow then v.scaleEntry r else [] }

/-- Contents from rows, scale blocks rewritten with the destination's tags (R131, R132, R179). -/
def assemble (dst : View) (rows : List RowImg) : Written :=
  { data := packRows dst.dtype (rows.map (·.codes))
    scale := if dst.group == 0 then none else some (packScales dst.dtype (rows.flatMap (·.gs)))
    rowS := if dst.hasRow then some (rows.flatMap (·.rs)) else none }

/-- Scale blocks of a tensor of which only some rows are written: a block that holds no group of a written row stays as it
was (R180, R181). -/
def keepBlocks (dst : View) (written : Nat → Bool) (new : List Byte) : List Byte :=
  let per := ceilDiv dst.d0 (groupSize dst.group)
  (List.range (new.length / 64)).flatMap fun b =>
    if (List.range 16).any fun k => decide ((16 * b + k) / max 1 per < dst.rows) && written ((16 * b + k) / max 1 per) then
      (new.drop (64 * b)).take 64
    else Memory.read dst.scale (64 * b) 64

/-- Contents of a tensor of which the rows `written` are written. -/
def assembleOver (dst : View) (written : Nat → Bool) (rows : List RowImg) : Written :=
  let w := assemble dst rows
  { w with scale := w.scale.map (keepBlocks dst written) }

/-- A row synthesised whole (R129, R228, R350): zero codes with a fresh row-scale entry of scale 1.0, zero point 0. -/
def blankRow (dst : View) : RowImg :=
  { codes := List.replicate dst.d0 0, rs := if dst.hasRow then rowEntry 0x3F800000 0 false else [] }

/-- A mover stage in one scratchpad (R182). -/
def Run.mover (r : Run) (bytes per extra entry : Nat) : Run :=
  { r with pieces := r.pieces ++ [.move bytes per extra [(entry, 1)]] }

/-- Equal types and arrangements of two operands (R179, R180). -/
def sameArr (a b : Desc) : Bool :=
  a.dtype == b.dtype && a.group == b.group && (a.scaleH == 0) == (b.scaleH == 0) && (a.rowH == 0) == (b.rowH == 0)

/-- Indices of position `i` in row order over dimensions, innermost first; and back. -/
def unflat : List Nat → Nat → List Nat
  | [], _ => []
  | d :: r, i => (if d == 0 then 0 else i % d) :: unflat r (if d == 0 then 0 else i / d)
def flat : List Nat → List Nat → Nat
  | d :: r, i :: s => i + d * flat r s
  | _, _ => 0

/-- Fields of a permutation word below the rank (R179). -/
def permOf (w rank : Nat) : List Nat := (List.range rank).map fun i => w / 8 ^ i % 8

/-- The fields form a permutation and those above the rank are 0. -/
def permOk (w rank : Nat) : Bool :=
  (List.range rank).all (fun i => (permOf w rank).contains i) && w / 8 ^ rank == 0

/-- Source index of a destination index: source dimension field i holds destination index i. -/
def permSrc (p idx : List Nat) : List Nat :=
  (List.range p.length).map fun s => idx.getD (p.idxOf s) 0

/-- TRANSPOSE (R179). The movers check scale-block tags as arrays and vector units do (R136; DESIGN CHOICE, log 52). -/
def transposeRun (e : Env) (c : Core) : Except Stop Run := do
  e.ready c
  let a ← e.arg c 0
  let b ← e.arg c 1
  let p := permOf (e.word 2) a.desc.rank
  need (permOk (e.word 2) a.desc.rank && b.view.dims == p.map (dim a.view.dims)) .malformed
  let rows := (List.range b.view.rows).map fun r =>
    let up := unflat b.view.dims.tail r
    if p.headD 0 == 0 then
      a.view.movedRow (flat a.view.dims.tail (permSrc p (0 :: up)).tail)
    else
      { codes := (List.range b.view.d0).map fun j =>
          let s := permSrc p (j :: up)
          a.view.code (flat a.view.dims.tail s.tail) (s.headD 0) }
  let w := assemble b.view rows
  let r : Run := { outs := e.outs c b w }
  .ok ((r.mover a.view.bytes 128 32 21).reading [a] (a.view.badTag a.view.d0))

def execTranspose (c : Cmd) (s : State) : Host.Outcome State Fault Refusal :=
  onCoreA (Core.command 0x1010 c (runOnly transposeRun)) s

/-- Pages of a PAGED copy that rows touch and that are not allocated yet (R258). -/
def newPages (c : Core) (b : Buffer) (key : CopyKey) (first count : Nat) : List Nat :=
  let per := 16 * 2 ^ b.page
  if b.kind != 2 || count == 0 then []
  else
    (((List.range ((first + count - 1) / per + 1 - first / per)).map (· + first / per)).filter
      fun p => !(c.copy b.part b.num key).pages.contains p)

/-- The DRAM of new pages fits the quota (R258). -/
def pagesFit (c : Core) (b : Buffer) (pages : List Nat) : Bool :=
  pages.isEmpty || c.dramFits b.part (pages.length * pageBytes b) 0

/-- COPY (R180); a PAGED destination takes its pages as it starts, whatever becomes of it (R258). Tags as in TRANSPOSE (log 52). -/
def copyRun (e : Env) (c : Core) : Except Stop Run := do
  e.ready c
  let a ← e.arg c 0
  let b ← e.arg c 1
  let o := if e.sub == 0 then 0 else e.int 2
  need (if e.sub == 0 then a.view.dims == b.view.dims
    else a.view.d0 == b.view.d0 && decide (0 ≤ o) && decide (o.toNat + a.view.rows ≤ b.view.rows)) .malformed
  let pages := newPages c b.buf b.key o.toNat a.view.rows
  need (pagesFit c b.buf pages) (.fail .noSpace none)
  let moved (r : Nat) : Bool := decide (o.toNat ≤ r) && decide (r < o.toNat + a.view.rows)
  let rows := (List.range b.view.rows).map fun r =>
    if moved r then a.view.movedRow (r - o.toNat) else b.view.rowImg r
  let w := assembleOver b.view moved rows
  let whole := a.view.rows == b.view.rows
  let outs := (e.outs c b w).map fun x => { x with
    whole := x.whole && whole
    words := if x.buf == b.buf.num then
        wordsIn (o.toNat * rowBytes b.view.dtype b.view.d0) (a.view.rows * rowBytes b.view.dtype b.view.d0) else []
    pages := if x.buf == b.buf.num then pages else [] }
  let r : Run := { outs := outs }
  .ok ((r.mover a.view.bytes 256 16 20).reading [a] (a.view.badTag a.view.d0))

def execCopy (c : Cmd) (s : State) : Host.Outcome State Fault Refusal :=
  onCoreA (Core.command 0x1011 c (runOnly copyRun)) s

/-- The value that FILL writes (R181). -/
def fillRow (dst : View) (r : Nat) (v : DWord) : RowImg × Cnt :=
  let old := dst.rowImg r
  let n := v.toNat
  if isU dst.dtype || isBytes dst.dtype then ({ old with codes := List.replicate dst.d0 (n % 2 ^ bitsOf dst.dtype) }, {})
  else if isI dst.dtype then
    let b := bitsOf dst.dtype
    let x := clampI (-(2 ^ (b - 1) : Int)) (2 ^ (b - 1) - 1) v.toInt
    ({ old with codes := List.replicate dst.d0 (unsigned b x.1) }, {})
  else if isMX dst.dtype then
    let bs := (chunks 32 (List.replicate dst.d0 (f32 n))).map (mxBlock dst.dtype false)
    ({ codes := bs.flatMap fun x => x.2.1, gs := bs.map fun x => (x.1, 0) }, {})
  else ({ old with codes := (List.range dst.d0).map fun j => (encElem dst false r j (f32 n)).1 }, {})

/-- FILL (R181). Tags of the rows that it fills, as in TRANSPOSE (log 52). -/
def fillRun (e : Env) (c : Core) : Except Stop Run := do
  e.ready c
  let b ← e.arg c 0
  let first := if e.sub == 0 then 0 else e.nat 2
  let count := if e.sub == 0 then b.view.rows else e.nat 3
  need (count != 0) (.fail .zeroShape none)
  need (decide (first + count ≤ b.view.rows)) .malformed
  let filled (r : Nat) : Bool := decide (first ≤ r) && decide (r < first + count)
  let rows := (List.range b.view.rows).map fun r =>
    if filled r then (fillRow b.view r (e.value (e.word 1))).1 else b.view.rowImg r
  let w := assembleOver b.view filled rows
  let keep := isU b.view.dtype || isF8 b.view.dtype
  let w := if keep then { w with scale := none, rowS := none } else w
  let outs := (e.outs c b w).map fun x => { x with
    whole := x.whole && count == b.view.rows
    words := if x.buf != b.buf.num then [] else wordsIn (first * rowBytes b.view.dtype b.view.d0) (count * rowBytes b.view.dtype b.view.d0) }
  let r : Run := { outs := outs }
  let rs := (List.range count).map (· + first)
  .ok ((r.mover (count * rowBytes b.view.dtype b.view.d0) 256 16 20).reading
    (if isF8 b.view.dtype then [b.stored rs] else []) (isF8 b.view.dtype && b.view.badTagIn rs b.view.d0))

def execFill (c : Cmd) (s : State) : Host.Outcome State Fault Refusal :=
  onCoreA (Core.command 0x1012 c (runOnly fillRun)) s

end Sys2Proof.Machine
end

