-- ==== Sys2Proof/Machine/Vector.lean ====
section
/-! DEFINITION. The vector commands VEW to VSCAN (R211 to R239, R496). Integers are exact values here and saturate where
they are written (R215); floating results are rounded once to FP32 and then converted. -/

namespace Sys2Proof.Machine

/-! ### Writing and masks -/

/-- Bytes of an element mask over a tensor (R216). -/
def maskBytes (d0 rows : Nat) : Nat := rows * ((d0 + 7) / 8)

/-- An optional element mask over the tensor `x`: long enough, and which elements it leaves active. -/
def maskFits (m : Option Arg) (x : View) : Bool := m.all fun a => decide (maskBytes x.d0 x.rows ≤ a.view.count)
def active (m : Option Arg) (x : View) (r j : Nat) : Bool :=
  match m with
  | some a => maskBit a.view.data x.d0 r j
  | none => true

/-- Rounds a floating result to FP32; integers stay exact (R215). -/
def vround (t : Nat) (mode : Bool) (v : FVal) : FVal := if isF t then r32 mode v else v

/-- Code and counts of one written element; only integer results count in SAT (R215, Table 10-5). -/
def vcode (dst : View) (mode : Bool) (r j : Nat) (v : FVal) : Nat × Cnt :=
  let x := encElem dst mode r j v
  (x.1, if isI dst.dtype then x.2 else { x.2 with sat := 0 })

/-- Code of a value that Table 8-5 gives a slot: no element is converted, so nothing is counted (R226). -/
def vfill (dst : View) (mode : Bool) (r j : Nat) (v : FVal) : Nat × Cnt := ((vcode dst mode r j v).1, {})

/-- Writes a tensor code by code. -/
def vcodes (dst : View) (f : Nat → Nat → Nat × Cnt) : Written :=
  let es := (List.range dst.rows).map fun r => (List.range dst.d0).map fun j => f r j
  { data := packRows dst.dtype (es.map fun r => r.map (·.1)), cnt := cntSum ((es.flatMap id).map (·.2)) }

/-- Writes a tensor element by element; none keeps the element of the previous version (R220). -/
def vwrite (dst : View) (mode : Bool) (f : Nat → Nat → Option FVal) : Written :=
  vcodes dst fun r j =>
    match f r j with
    | some v => vcode dst mode r j v
    | none => (dst.code r j, {})

/-! ### Times of Table 8-6 -/

def sfnTime (ts : List Nat) (x : View) : VecTime := { laneTime ts 2 x 16 with entry := 19 }
/-- VNORM and VSOFTMAX. -/
def rowTime (w : Nat) (ts : List Nat) (x : View) : VecTime := { laneTime ts w x 24 with entry := 19, num := 2, den := 32 }
def redTime (axis : Nat) (ts : List Nat) (x : View) : VecTime :=
  if axis == 0 then { laneTime ts 1 x 16 with num := 1, den := 32 }
  else if axis == 1 then laneTime ts 1 x 16 else { laneTime ts 1 x 24 with tail := 24 }
def spreadTime (p y : View) : VecTime := laneTime [p.dtype, y.dtype] 2 (if p.count < y.count then y else p) 16
def topkTime (x : View) (vt k : Nat) : VecTime :=
  { entry := vecEntry (wide [x.dtype, vt]), rows := x.rows, per := 4 * ceilDiv x.d0 256 * clog2 (max k 2) + 24 }
/-- `n` boxes of which `m` are kept. -/
def nmsTime (n m : Nat) : VecTime :=
  { entry := 16, split := false, rows := m, per := ceilDiv n 256, head := 4 * ceilDiv n 256 * clog2 (max n 2) + 32 }
def assocTime (nr nc : Nat) : VecTime := { entry := 16, split := false, rows := nr, per := 4 * nc + 64, head := 32 }
def poolTime (glob : Bool) (g : Geom) (x y : View) : VecTime :=
  if glob then { laneTime [x.dtype, y.dtype] 1 x 16 with head := ceilDiv x.d0 256 + 16 }
  else laneTime [x.dtype, y.dtype] (g.kh * g.kw + 1) y 16

/-- Status EMPTY where a condition holds (R226, R227). -/
def emptyIf (b : Bool) : Status := if b then .empty else .ok

/-- The scalar of word 4 with its write enable (R218). -/
def Env.scalar (e : Env) (v : DWord) : Option (Nat × DWord) :=
  (scalarOut e.op e.sub (e.word 4)).map fun n => (n, v)

/-- Signed 64-bit value of a result: rounded and saturated, NaN 0 (R225). -/
def scalarOf (mode : Bool) (v : FVal) : DWord := BitVec.ofInt 64 (v.toRange mode (-(2 ^ 63 : Int)) (2 ^ 63 - 1) 0).1

/-- A type and the types of other operands are on the same side of F and I, with BYTES for itself (R215). -/
def sameSide (t : Nat) (l : List Nat) : Bool := l.all fun u => isF u == isF t && isI u == isI t

/-- A destination of which a command reads the stored scales that form its codes, on every row. -/
def Arg.stores (y : Arg) : List Arg := y.storedScales (List.range y.view.rows)

/-! ### VEW -/

/-- An element as an integer. -/
def FVal.int (v : FVal) : Int := (v.toInt false).getD 0

/-- Bitwise results and shifts (Table 8-3) of integers of a width; SHRL shifts the bits of the element. -/
def vewBits (sub w : Nat) (a b : Int) : Int :=
  let x := BitVec.ofInt 64 a
  let y := BitVec.ofInt 64 b
  let out := decide (b < 0) || decide ((w : Int) ≤ b)
  match sub with
  | 16 => (x &&& y).toInt
  | 17 => (x ||| y).toInt
  | 18 => (x ^^^ y).toInt
  | 19 => (~~~ x).toInt
  | 20 => if out then 0 else a * 2 ^ b.toNat
  | 21 => if out then (if a < 0 then -1 else 0) else a / 2 ^ b.toNat
  | _ => if out then 0 else signed w (unsigned w a / 2 ^ b.toNat)

/-- A compare of Table 8-3; with a NaN only CMPNE holds. -/
def vewCmp (sub : Nat) (a b : FVal) : Bool :=
  match sub with
  | 10 => FVal.eqv a b
  | 11 => !FVal.eqv a b
  | 12 => FVal.lt a b
  | 13 => FVal.le a b
  | 14 => FVal.lt b a
  | _ => FVal.le b a

/-- Exact result of a VEW sub-operation that writes a value; `on` is the mask bit that SELECT looks at. -/
def vewVal (sub w : Nat) (bytes on : Bool) (a b c : FVal) : FVal :=
  match sub with
  | 0 => a.add b
  | 1 => a.sub b
  | 2 => a.mul b
  | 3 => (a.mul b).add c
  | 4 => FVal.min a b
  | 5 => FVal.max a b
  | 6 => a.abs
  | 7 => a.neg
  | 8 => if a.isNan || FVal.lt .zero a then a else .zero
  | 9 => if on then a else b
  | _ => .ofInt (if bytes then vewBits sub w a.int b.int % 256 else vewBits sub w a.int b.int)

/-- VEW (R220, R222). The tags of all scale blocks of its rows are compared, those of blocks that hold only masked-off elements too
(DESIGN CHOICE, log 52): R136 does not say whether a vector unit reads these. -/
def vewRun (e : Env) (c : Core) : Except Stop Run := do
  e.ready c
  let unary := e.sub == 6 || e.sub == 7 || e.sub == 8 || e.sub == 19
  let a ← e.arg c 0
  let b ← e.optArg c (!unary && !e.flag 4) 1
  let y ← e.arg c 2
  let m ← e.optArg c (e.flag 5) 3
  let k ← e.optArg c (e.sub == 3) 5
  let x := a.view
  let cmp := decide (10 ≤ e.sub) && decide (e.sub ≤ 15)
  need ((if cmp then decide (maskBytes x.d0 x.rows ≤ y.view.count) else y.view.dims == x.dims) &&
    b.all (fun z => if e.flag 6 then z.view.d0 == x.d0 else z.view.dims == x.dims) &&
    k.all (fun z => z.view.dims == x.dims) && maskFits m x) .malformed
  let imm : FVal := if isF x.dtype then e.f32 1 else .ofInt (e.int 1)
  let bv (r j : Nat) : FVal :=
    match b with
    | some z => if e.flag 6 then z.view.real 0 j else z.view.real r j
    | none => if e.flag 4 then imm else .zero
  let kv (r j : Nat) : FVal := (k.map fun z => z.view.real r j).getD .zero
  let w : Written :=
    if cmp then
      let bits := (List.range x.rows).flatMap fun r => packBits ((List.range x.d0).map fun j =>
        if active m x r j then vewCmp e.sub (x.real r j) (bv r j) else maskBit y.view.data x.d0 r j)
      { data := Memory.read (Memory.write y.view.data 0 bits) 0 y.view.count }
    else
      vwrite y.view e.mode fun r j =>
        if active m x r j || e.sub == 9 then
          some (vround x.dtype e.mode
            (vewVal e.sub (bitsOf x.dtype) (isBytes x.dtype) (active m x r j) (x.real r j) (bv r j) (kv r j)))
        else none
  let ts := [x.dtype] ++ (b.map (·.view.dtype)).toList ++ (k.map (·.view.dtype)).toList ++ (if cmp then [] else [y.view.dtype])
  let r : Run := { outs := e.outs c y w, counts := w.cnt.health }
  .ok ((r.vector (laneTime ts 1 x 12)).reading
    ([a] ++ optLost b ++ optLost m ++ optLost k ++ (if m.isSome && e.sub != 9 then [y] else y.stores))
    (x.badTag x.d0 || (b.toList ++ k.toList).any fun z => z.view.badTag z.view.d0))

def execVew (c : Cmd) (s : State) : Host.Outcome State Fault Refusal :=
  onCoreA (Core.command 0x2001 c (runOnly vewRun)) s

/-! ### VSFN -/

def vsfnRun (e : Env) (c : Core) : Except Stop Run := do
  e.ready c
  let a ← e.arg c 0
  let y ← e.arg c 1
  let m ← e.optArg c (e.flag 5) 2
  let x := a.view
  need (y.view.dims == x.dims && maskFits m x) .malformed
  let w := vwrite y.view false fun r j =>
    if active m x r j then some (vsfn e.sub (Config.ulp e.draw (r * x.d0 + j)) (x.val r j)) else none
  let r : Run := { outs := e.outs c y w, counts := w.cnt.health }
  .ok ((r.vector (sfnTime [x.dtype, y.view.dtype] x)).reading
    ([a] ++ optLost m ++ (if m.isSome then [y] else y.stores)) (x.badTag x.d0))

def execVsfn (c : Cmd) (s : State) : Host.Outcome State Fault Refusal :=
  onCoreA (Core.command 0x2005 c (runOnly vsfnRun)) s

/-! ### VRED -/

/-- Dimensions of the result along an axis (R224). -/
def redDims (axis : Nat) (d : List Nat) : List Nat :=
  if axis == 0 then (if d.length == 1 then [1] else d.tail)
  else if axis == 1 then d.headD 0 :: d.drop 2 else [1]

/-- Items of result `t`: index along the axis, row, column (R224). -/
def redItems (axis : Nat) (x : View) (t : Nat) : List (Nat × Nat × Nat) :=
  if axis == 0 then (List.range x.d0).map fun j => (j, t, j)
  else if axis == 1 then
    let d1 := dim x.dims 1
    (List.range d1).map fun i => (i, i + d1 * (t / x.d0), t % x.d0)
  else (List.range x.count).map fun i => (i, i / x.d0, i % x.d0)

/-- Takes the first item that no other beats; a NaN beats every number (R225). -/
def redPick (least : Bool) : List (Nat × FVal) → Nat × FVal
  | [] => (0, .nan)
  | p :: r => r.foldl (fun b x =>
      if b.2.isNan then b
      else if x.2.isNan then x
      else if (if least then FVal.ltZ x.2 b.2 else FVal.ltZ b.2 x.2) then x else b) p

/-- Lowest and highest value of Table 8-5 in a type: infinities, or the ends of an integer range. -/
def lowOf (t : Nat) : FVal := if isI t then .ofInt (-(2 ^ (bitsOf t - 1) : Int)) else .inf true
def highOf (t : Nat) : FVal := if isI t then .ofInt (2 ^ (bitsOf t - 1) - 1) else .inf false

/-- Value of an empty reduction (Table 8-5); the conversion to UINT8 gives its codes. -/
def redEmpty (sub dt : Nat) : FVal :=
  match sub with
  | 1 => .one
  | 2 => lowOf dt
  | 3 => highOf dt
  | 4 | 5 => .ofInt (-1)
  | _ => .zero

/-- A rounded integer quotient. -/
def quotI (mode : Bool) (v : Int) (n : Nat) : Int :=
  let q : Int := rndDiv mode v.natAbs n
  if v < 0 then -q else q

/-- Result of a reduction over at least one item (R225). -/
def redVal (e : Env) (t base : Nat) (l : List (Nat × FVal)) : FVal :=
  let vs := l.map (·.2)
  let isum := vs.foldl (fun (n : Int) v => n + v.int) 0
  match e.sub with
  | 0 => if isF t then sumFree e.mode e.draw base vs else .ofInt isum
  | 1 => if isF t then prodFree e.mode e.draw base vs else .ofInt (vs.foldl (fun (n : Int) v => n * v.int) 1)
  | 2 => vround t e.mode (redPick false l).2
  | 3 => vround t e.mode (redPick true l).2
  | 4 => .ofInt (redPick false l).1
  | 5 => .ofInt (redPick true l).1
  | 6 => if isF t then div32 e.mode (sumFree e.mode e.draw base vs) (.ofInt l.length)
    else .ofInt (quotI e.mode isum l.length)
  | _ => .ofInt l.length

def vredRun (e : Env) (c : Core) : Except Stop Run := do
  e.ready c
  let a ← e.arg c 0
  let y ← e.arg c 1
  let m ← e.optArg c (e.flag 5) 2
  let x := a.view
  let axis := e.flags / 64
  need (y.view.dims == redDims axis x.dims && maskFits m x) .malformed
  let res (t : Nat) : Option FVal :=
    let l := (redItems axis x t).filter fun i => active m x i.2.1 i.2.2
    if l.isEmpty && e.sub != 7 then none
    else some (redVal e x.dtype (t * 2 ^ 32) (l.map fun i => (i.1, x.real i.2.1 i.2.2)))
  let none_ (t : Nat) : Bool := ((redItems axis x t).filter fun i => active m x i.2.1 i.2.2).isEmpty
  let es := (List.range y.view.count).map fun t =>
    let r := t / y.view.d0
    let j := t % y.view.d0
    match res t with
    | some v => vcode y.view e.mode r j v
    | none => vfill y.view e.mode r j (redEmpty e.sub y.view.dtype)
  let w : Written := { data := packRows y.view.dtype (chunks y.view.d0 (es.map (·.1))), cnt := cntSum (es.map (·.2)) }
  let first : DWord :=
    match res 0 with
    | some v => scalarOf e.mode (if isI y.view.dtype then (FVal.ofInt (v.toRange e.mode (-(2 ^ (bitsOf y.view.dtype - 1) : Int))
        (2 ^ (bitsOf y.view.dtype - 1) - 1) 0).1) else v)
    | none => if e.sub == 4 || e.sub == 5 then 0xFFFFFFFF else scalarOf e.mode (redEmpty e.sub y.view.dtype)
  let ts := if e.sub == 4 || e.sub == 5 then [x.dtype] else [x.dtype, y.view.dtype]
  let r : Run :=
    { outs := e.outs c y w, counts := w.cnt.health, scalar := e.scalar first
      status := emptyIf ((List.range y.view.count).any none_) }
  .ok ((r.vector (redTime axis ts x)).reading ([a] ++ optLost m ++ y.stores) (x.badTag x.d0))

def execVred (c : Cmd) (s : State) : Host.Outcome State Fault Refusal :=
  onCoreA (Core.command 0x2002 c (runOnly vredRun)) s

/-! ### VWIN and VSPREAD -/

/-- A row of floating codes with every NaN in the encoding of Table 5-2 (R125). -/
def canonCodes (t : Nat) (cs : List Nat) : List Nat :=
  if isWide t || isF8 t then cs.map fun k => if ((fmtOf t).decode k).isNan then (fmtOf t).nanCode else k else cs

/-- Moves a row with its row-scale entry, or converts its values where the types differ (R228). -/
def moveRow (src dst : View) (from_ dest : Nat) : RowImg × Cnt :=
  if src.dtype == dst.dtype then
    let x := src.movedRow from_
    ({ x with gs := [], codes := canonCodes src.dtype x.codes }, {})
  else
    let es := (List.range dst.d0).map fun j => vcode dst false dest j (vround src.dtype false (src.real from_ j))
    ({ (dst.rowImg dest) with codes := es.map (·.1) }, cntSum (es.map (·.2)))

/-- Moves one element of a rank-1 tensor. -/
def moveElem (src dst : View) (from_ dest : Nat) : Nat × Cnt := vcode dst false 0 dest (vround src.dtype false (src.real 0 from_))

/-- A written operand from its rows. -/
def fromRows (dst : View) (rows : List (RowImg × Cnt)) : Written :=
  { (assemble dst (rows.map (·.1))) with scale := none, cnt := cntSum (rows.map (·.2)) }

/-- An INT32 tensor from its entries. -/
def ints (l : List Nat) : List Byte := l.flatMap (leBytes 4)

def vwinRun (e : Env) (c : Core) : Except Stop Run := do
  e.ready c
  let a ← e.arg c 0
  let m ← e.arg c 1
  let p ← e.arg c 2
  let map ← e.optArg c (e.flag 4) 3
  let x := a.view
  let rows := e.sub == 1
  let n := if rows then x.rows else x.d0
  need (p.view.dims == x.dims && decide ((n + 7) / 8 ≤ m.view.count) && map.all (fun y => y.view.dims == [n])) .malformed
  let src := (List.range n).filter fun i => rowMaskBit m.view.data i
  let w : Written :=
    if rows then
      fromRows p.view ((List.range n).map fun i =>
        match src[i]? with
        | some k => moveRow x p.view k i
        | none => (blankRow p.view, {}))
    else
      let es := (List.range n).map fun i =>
        match src[i]? with
        | some k => moveElem x p.view k i
        | none => (p.view.synth 0 i, {})
      { data := packRow p.view.dtype (es.map (·.1)), cnt := cntSum (es.map (·.2)) }
  let mo := match map with
    | some y => [y.whole (ints ((List.range n).map fun i => (src[i]?).getD 0xFFFFFFFF))]
    | none => []
  let ts := [x.dtype, p.view.dtype]
  let r : Run :=
    { outs := e.outs c p w ++ mo, counts := w.cnt.health, scalar := e.scalar (BitVec.ofNat 64 src.length)
      status := emptyIf src.isEmpty }
  .ok ((r.vector (laneTime ts 2 x 16)).reading
    ([a, m] ++ (if rows && x.dtype == p.view.dtype then [] else p.stores)) (x.badTag x.d0))

def execVwin (c : Cmd) (s : State) : Host.Outcome State Fault Refusal :=
  onCoreA (Core.command 0x2003 c (runOnly vwinRun)) s

/-- A resolved count (R94): 0 is ZERO_SHAPE, more than its limit SHAPE_EXCEEDS_PLAN. -/
def Env.resolve (e : Env) (k limit : Nat) : Except Stop Nat := do
  need (e.nat k != 0) (.fail .zeroShape none)
  need (decide (e.nat k ≤ limit)) (.fail .shapeExceedsPlan none)
  .ok (e.nat k)

def vspreadRun (e : Env) (c : Core) : Except Stop Run := do
  e.ready c
  let p ← e.arg c 0
  let map ← e.arg c 1
  let y ← e.arg c 2
  let rows := e.sub == 1
  let cap := if rows then p.view.rows else p.view.d0
  let size := if rows then y.view.rows else y.view.d0
  let n ← e.resolve 3 cap
  need (map.view.dims == [cap] && (!rows || p.view.d0 == y.view.d0)) .malformed
  let dests := (List.range n).map fun i => map.view.code 0 i
  let last (pos : Nat) : Option Nat := (List.range n).foldl (fun b i => if dests.getD i 0 == pos then some i else b) none
  let w : Written :=
    if rows then
      fromRows y.view ((List.range size).map fun k =>
        match last k with
        | some i => moveRow p.view y.view i k
        | none => (if e.flag 4 then blankRow y.view else y.view.rowImg k, {}))
    else
      let es := (List.range size).map fun k =>
        match last k with
        | some i => moveElem p.view y.view i k
        | none => (if e.flag 4 then y.view.synth 0 k else y.view.code 0 k, {})
      { data := packRow y.view.dtype (es.map (·.1)), cnt := cntSum (es.map (·.2)) }
  let r : Run := { outs := e.outs c y w, counts := w.cnt.health }
  let r := (r.vector (spreadTime p.view y.view)).reading
    ([p, map] ++ (if !e.flag 4 then [y] else if rows && p.view.dtype == y.view.dtype then [] else y.stores)) (p.view.badTag p.view.d0)
  .ok (if r.status == .ok && dests.any fun k => decide (size ≤ k) then { r with status := .malformed } else r)

def execVspread (c : Cmd) (s : State) : Host.Outcome State Fault Refusal :=
  onCoreA (Core.command 0x2004 c (runOnly vspreadRun)) s

/-! ### VTOPK, VNMS, VASSOC -/

/-- Orders items by value, largest or smallest first, ties in increasing index. -/
def ordered (small : Bool) (l : List (Nat × FVal)) : List (Nat × FVal) :=
  sortBy (fun a b => if small then FVal.le a.2 b.2 else FVal.le b.2 a.2) l

def vtopkRun (e : Env) (c : Core) : Except Stop Run := do
  e.ready c
  let a ← e.arg c 0
  let v ← e.arg c 1
  let ix ← e.arg c 2
  let m ← e.optArg c (e.flag 5) 4
  let x := a.view
  let cap := v.view.d0
  let k ← e.resolve 3 cap
  need (v.view.dims.tail == x.dims.tail && ix.view.dims == v.view.dims && decide (x.d0 ≤ 4096) &&
    decide (1 ≤ cap) && decide (cap ≤ 1024) && maskFits m x) .malformed
  let small := e.sub == 1
  let on (r : Nat) : List (Nat × FVal) :=
    ((List.range x.d0).filter fun j => active m x r j).map fun j => (j, x.real r j)
  let sel (r : Nat) : List (Nat × FVal) := (ordered small ((on r).filter fun i => !i.2.isNan)).take k
  let fill := if small then highOf v.view.dtype else lowOf v.view.dtype
  let w := vcodes v.view fun r j =>
    if k ≤ j then (v.view.code r j, {})
    else
      match (sel r)[j]? with
      | some i => vcode v.view false r j (vround x.dtype false i.2)
      | none => vfill v.view false r j fill
  let idx := ints ((List.range x.rows).flatMap fun r => (List.range cap).map fun j =>
    if k ≤ j then ix.view.code r j else ((sel r)[j]?).elim 0xFFFFFFFF (·.1))
  let nans := (List.range x.rows).foldl (fun n r => n + ((on r).filter fun i => i.2.isNan).length) 0
  let r : Run :=
    { outs := e.outs c v w ++ [ix.whole idx], counts := { w.cnt.health with nonfinite := w.cnt.nonfin + nans }
      status := emptyIf ((List.range x.rows).any fun r => (sel r).isEmpty) }
  .ok ((r.vector (topkTime x v.view.dtype k)).reading ([a, v, ix] ++ optLost m) (x.badTag x.d0))

def execVtopk (c : Cmd) (s : State) : Host.Outcome State Fault Refusal :=
  onCoreA (Core.command 0x2006 c (runOnly vtopkRun)) s

/-- Intersection over union in FP32, mode 0 (R231). -/
def iou (a b : List FVal) : FVal :=
  let g (l : List FVal) (i : Nat) : FVal := l.getD i .zero
  let side (hi lo : FVal) : FVal := FVal.max .zero (sub32 false hi lo)
  let iw := side (FVal.min (g a 2) (g b 2)) (FVal.max (g a 0) (g b 0))
  let ih := side (FVal.min (g a 3) (g b 3)) (FVal.max (g a 1) (g b 1))
  let inter := mul32 false iw ih
  let area (l : List FVal) : FVal := mul32 false (side (g l 2) (g l 0)) (side (g l 3) (g l 1))
  let un := sub32 false (add32 false (area a) (area b)) inter
  if FVal.lt .zero un then div32 false inter un else .zero

/-- Greedy suppression over boxes in order; at most `m` are kept. -/
def nmsKeep (beats : Nat → Nat → Bool) (m : Nat) : List Nat → List Nat → List Nat
  | [], kept => kept
  | i :: r, kept =>
    if m ≤ kept.length then kept
    else nmsKeep beats m r (if kept.any fun k => beats k i then kept else kept ++ [i])

def vnmsRun (e : Env) (c : Core) : Except Stop Run := do
  e.ready c
  let b ← e.arg c 0
  let sc ← e.arg c 1
  let o ← e.arg c 2
  let cl ← e.optArg c (e.flag 4) 5
  let n := dim b.view.dims 1
  let m := o.view.d0
  need (b.view.d0 == 4 && decide (1 ≤ n) && decide (n ≤ 4096) && sc.view.dims == [n] && decide (1 ≤ m) &&
    decide (m ≤ 4096) && cl.all (fun x => x.view.dims == [n])) .malformed
  let tau := e.f32 3
  need (FVal.le .zero tau && FVal.le tau .one) .malformed
  let box (i : Nat) : List FVal := (List.range 4).map (b.view.real i)
  let ok (i : Nat) : Bool := !(sc.view.real 0 i).isNan && (box i).all FVal.isFin
  let act := (List.range n).filter ok
  let order := (ordered false (act.map fun i => (i, sc.view.real 0 i))).map (·.1)
  let same (i j : Nat) : Bool := cl.all fun x => x.view.code 0 i == x.view.code 0 j
  let kept := nmsKeep (fun k i => same k i && FVal.lt tau (iou (box k) (box i))) m order []
  let r : Run :=
    { outs := [o.whole (ints ((List.range m).map fun i => (kept[i]?).getD 0xFFFFFFFF))]
      counts := { nonfinite := n - act.length }, scalar := e.scalar (BitVec.ofNat 64 kept.length)
      status := emptyIf act.isEmpty }
  .ok ((r.vector (nmsTime n kept.length)).reading ([b, sc] ++ optLost cl) false)

def execVnms (c : Cmd) (s : State) : Host.Outcome State Fault Refusal :=
  onCoreA (Core.command 0x2007 c (runOnly vnmsRun)) s

/-! Assignment by successive cheapest augmenting paths, on exact costs. A path is a list of row and column pairs, the
last first; a distance is the cost of the cheapest path found to a column. -/

/-- Distances to columns, after paths over one more matched row are tried. -/
def assocRelax (nc : Nat) (cost : Nat → Nat → Option Int) (m : List (Option Nat))
    (d : List (Option (Int × List (Nat × Nat)))) : List (Option (Int × List (Nat × Nat))) :=
  (List.range nc).map fun k =>
    m.zipIdx.foldl (fun best x =>
      match x.1 with
      | none => best
      | some k' =>
        match d.getD k' none, cost x.2 k', cost x.2 k with
        | some p, some old, some new =>
          if p.2.any fun q => q.1 == x.2 then best
          else
            let v := p.1 - old + new
            match best with
            | none => some (v, (x.2, k) :: p.2)
            | some b => if v < b.1 then some (v, (x.2, k) :: p.2) else best
        | _, _, _ => best) (d.getD k none)

def assocDist (nc : Nat) (cost : Nat → Nat → Option Int) (m : List (Option Nat)) :
    Nat → List (Option (Int × List (Nat × Nat))) → List (Option (Int × List (Nat × Nat)))
  | 0, d => d
  | fuel + 1, d => assocDist nc cost m fuel (assocRelax nc cost m d)

/-- Adds one pair by the cheapest path from an unassigned row to an unassigned column; stops where there is none. -/
def assocGrow (nr nc : Nat) (cost : Nat → Nat → Option Int) : Nat → List (Option Nat) → List (Option Nat)
  | 0, m => m
  | fuel + 1, m =>
    let start := (List.range nc).map fun k =>
      (List.range nr).foldl (fun (best : Option (Int × List (Nat × Nat))) r =>
        if m.getD r none != none then best
        else
          match cost r k with
          | none => best
          | some v =>
            match best with
            | none => some (v, [(r, k)])
            | some b => if v < b.1 then some (v, [(r, k)]) else best) none
    let d := assocDist nc cost m nr start
    let free := (List.range nc).filter fun k => !m.contains (some k)
    let best := free.foldl (fun (b : Option (Int × List (Nat × Nat))) k =>
      match d.getD k none, b with
      | some p, none => some p
      | some p, some q => if p.1 < q.1 then some p else some q
      | none, b => b) none
    match best with
    | none => m
    | some p => assocGrow nr nc cost fuel (p.2.foldl (fun m q => m.set q.1 (some q.2)) m)

/-- Pairs and exact total of an assignment of allowed pairs with no column twice; none where it is not one. -/
def assocTotal (nc : Nat) (cost : Nat → Nat → Option Int) (m : List (Option Nat)) : Option (Nat × Int) :=
  let cols := m.filterMap id
  if cols.dedup.length != cols.length || cols.any fun k => decide (nc ≤ k) then none
  else
    m.zipIdx.foldl (fun t x =>
      match t, x.1 with
      | some t, some k => (cost x.2 k).map fun v => (t.1 + 1, t.2 + v)
      | t, none => t
      | none, _ => none) (some (0, 0))

/-- The assignment taken (R232): the one that a free choice spells, digit by digit, if it qualifies; else the least. -/
def assocPick (nr nc : Nat) (shape : List Nat) (cost : Nat → Nat → Option Int) (top : Nat) : List (Option Nat) :=
  let least := assocGrow nr nc cost nr (List.replicate nr none)
  let w := Config.assocPick shape
  let prop : List (Option Nat) := (List.range nr).map fun r =>
    let x := w / (nc + 1) ^ r % (nc + 1)
    if x == 0 then none else some (x - 1)
  match assocTotal nc cost prop, assocTotal nc cost least with
  | some p, some l => if p.1 == l.1 && decide ((p.2 - l.2) * 2 ^ 22 ≤ nr * top) then prop else least
  | _, _ => least

def vassocRun (e : Env) (c : Core) : Except Stop Run := do
  e.ready c
  let a ← e.arg c 0
  let ra ← e.arg c 1
  let ca ← e.optArg c (e.flag 4) 2
  let x := a.view
  let nc := x.d0
  let nr := dim x.dims 1
  need (decide (1 ≤ nc) && decide (nc ≤ 256) && decide (1 ≤ nr) && decide (nr ≤ 256) && ra.view.dims == [nr] &&
    ca.all (fun y => y.view.dims == [nc])) .malformed
  let gate := e.f32 3
  need (!gate.isNan) .malformed
  -- every FP32 value is a whole multiple of 2^-149
  let cost (r k : Nat) : Option Int :=
    let v := x.real r k
    match v with
    | .fin s m q => if FVal.le v gate then some (sig s m q (-149)) else none
    | _ => none
  let all := (List.range nr).flatMap fun r => (List.range nc).filterMap fun k => cost r k
  let top := all.foldl (fun t v => max t v.natAbs) 0
  let m := assocPick nr nc ([nr, nc] ++ (List.range nr).flatMap fun r => (List.range nc).map (x.code r)) cost top
  let pairs := (m.filterMap id).length
  let cols := (List.range nc).map fun k => (m.idxOf? (some k)).getD 0xFFFFFFFF
  let co := match ca with
    | some y => [y.whole (ints cols)]
    | none => []
  let r : Run :=
    { outs := [ra.whole (ints (m.map fun k => k.getD 0xFFFFFFFF))] ++ co
      scalar := e.scalar (BitVec.ofNat 64 pairs), status := emptyIf all.isEmpty }
  .ok ((r.vector (assocTime nr nc)).reading [a] false)

def execVassoc (c : Cmd) (s : State) : Host.Outcome State Fault Refusal :=
  onCoreA (Core.command 0x2008 c (runOnly vassocRun)) s

/-! ### VPOOL, VNORM, VSOFTMAX, VSCAN -/

/-- Exact sum of values. -/
def exactSum (l : List FVal) : FVal := l.foldl FVal.add .zero

/-- A mean: the exact sum divided and rounded once (R215). -/
def meanOf (mode : Bool) (l : List FVal) (n : Nat) : FVal := div32 mode (exactSum l) (.ofInt n)

/-- Maximum of values, NaN where one is. -/
def maxOf (l : List FVal) : FVal := l.tail.foldl FVal.max (l.headD .zero)

def vpoolRun (e : Env) (c : Core) : Except Stop Run := do
  e.ready c
  let a ← e.arg c 0
  let y ← e.arg c 1
  let x := a.view
  let w := dim x.dims 1
  let h := dim x.dims 2
  let ch := x.d0
  let g := geomOf (e.word 4)
  let glob := decide (3 ≤ e.sub)
  let wo := dim y.view.dims 1
  let ho := dim y.view.dims 2
  need (if glob then y.view.dims == [ch] else y.view.d0 == ch && g.padOk w h wo ho) .malformed
  let taps (r j : Nat) : List FVal :=
    if glob then (List.range (w * h)).map fun p => x.real p j
    else (List.range (g.kh * g.kw)).filterMap fun t =>
      (g.tap w h (r / wo) (r % wo) (t / g.kw) (t % g.kw)).map fun p => x.real p j
  let isMax := e.sub == 0 || e.sub == 3
  let wr := vcodes y.view fun r j =>
    let l := taps r j
    if l.isEmpty then vfill y.view e.mode r j (if isMax then .inf true else .zero)
    else vcode y.view e.mode r j (if isMax then r32 e.mode (maxOf l)
      else meanOf e.mode l (if e.sub == 2 then g.kh * g.kw else l.length))
  let none_ := !glob && (List.range (wo * ho)).any fun r => (taps r 0).isEmpty
  let r : Run := { outs := e.outs c y wr, counts := wr.cnt.health, status := emptyIf none_ }
  let px := if glob then List.range (w * h) else g.pixels w h wo ho
  .ok ((r.vector (poolTime glob g x y.view)).reading (a.ofRows px :: y.stores) (x.badTagIn px ch))

def execVpool (c : Cmd) (s : State) : Host.Outcome State Fault Refusal :=
  onCoreA (Core.command 0x2009 c (runOnly vpoolRun)) s

/-- One row of VNORM (R234), and whether its variance term is 0. -/
def normRow (e : Env) (base : Nat) (eps : FVal) (gam bet : Option View) (xs : List FVal) : List FVal × Bool :=
  let n := FVal.ofInt xs.length
  let rms := e.sub == 1
  let mean := if rms then .zero else div32 e.mode (sumFree e.mode e.draw base xs) n
  let ds := if rms then xs else xs.map fun x => sub32 e.mode x mean
  let var := div32 e.mode (sumFree e.mode e.draw (base + 2 ^ 30) (ds.map fun d => mul32 e.mode d d)) n
  let den := add32 e.mode var eps
  let b (j : Nat) : FVal := (bet.map fun v => v.real 0 j).getD .zero
  if den.isZero then ((List.range xs.length).map b, true)
  else
    let r := vsfn 3 (Config.ulp e.draw base) den
    (ds.zipIdx.map (fun d =>
      let y := mul32 e.mode d.1 r
      let y := match gam with
        | some v => mul32 e.mode y (v.real 0 d.2)
        | none => y
      match bet with
      | some v => add32 e.mode y (v.real 0 d.2)
      | none => y), false)

def vnormRun (e : Env) (c : Core) : Except Stop Run := do
  e.ready c
  let a ← e.arg c 0
  let y ← e.arg c 1
  let gam ← e.optArg c (e.flag 4) 2
  let bet ← e.optArg c (e.flag 5) 3
  let x := a.view
  need (y.view.dims == x.dims && gam.all (fun v => v.view.d0 == x.d0) && bet.all (fun v => v.view.d0 == x.d0)) .malformed
  let eps := e.f32 4
  need (eps.isFin && FVal.le .zero eps) .malformed
  let rows := (List.range x.rows).map fun r =>
    normRow e (r * 2 ^ 32) eps (gam.map (·.view)) (bet.map (·.view)) ((List.range x.d0).map (x.valM e.mode r))
  let w := vwrite y.view e.mode fun r j => some ((rows.getD r ([], false)).1.getD j .zero)
  let r : Run :=
    { outs := e.outs c y w
      counts := { w.cnt.health with zeroVar := (rows.filter (·.2)).length } }
  let ts := [x.dtype, y.view.dtype] ++ (gam.toList ++ bet.toList).map (·.view.dtype)
  .ok ((r.vector (rowTime 3 ts x)).reading
    ([a] ++ optLost gam ++ optLost bet ++ y.stores) (x.badTag x.d0))

def execVnorm (c : Cmd) (s : State) : Host.Outcome State Fault Refusal :=
  onCoreA (Core.command 0x200A c (runOnly vnormRun)) s

/-- Softmax of the active values of a row (R235). -/
def softRow (e : Env) (base : Nat) (xs : List FVal) : List FVal :=
  let m := maxOf xs
  if m.isNan then xs.map fun _ => .nan
  else if m == .inf false then
    let q := (xs.filter (· == .inf false)).length
    xs.map fun x => if x == .inf false then div32 e.mode .one (.ofInt q) else .zero
  else
    let es := xs.zipIdx.map fun x =>
      vsfn 0 (Config.ulp e.draw (base + x.2)) (mul32 e.mode (sub32 e.mode x.1 m) log2e32)
    let t := sumFree e.mode e.draw base es
    es.map fun v => div32 e.mode v t

def vsoftmaxRun (e : Env) (c : Core) : Except Stop Run := do
  e.ready c
  let a ← e.arg c 0
  let y ← e.arg c 1
  let m ← e.optArg c (e.flag 5) 2
  let x := a.view
  need (y.view.dims == x.dims && maskFits m x) .malformed
  let on (r : Nat) : List Nat := (List.range x.d0).filter fun j => active m x r j
  let val (r j : Nat) : FVal := if e.flag 4 then mul32 e.mode (e.f32 4) (x.valM e.mode r j) else x.valM e.mode r j
  let rows := (List.range x.rows).map fun r => softRow e (r * 2 ^ 32) ((on r).map (val r))
  let w := vwrite y.view e.mode fun r j =>
    some (match (on r).idxOf? j with
      | some i => (rows.getD r []).getD i .zero
      | none => .zero)
  let r : Run :=
    { outs := e.outs c y w, counts := w.cnt.health
      status := emptyIf ((List.range x.rows).any fun r => (on r).isEmpty) }
  .ok ((r.vector (rowTime 4 [x.dtype, y.view.dtype] x)).reading
    ([a] ++ optLost m ++ y.stores) (x.badTag x.d0))

def execVsoftmax (c : Cmd) (s : State) : Host.Outcome State Fault Refusal :=
  onCoreA (Core.command 0x200B c (runOnly vsoftmaxRun)) s

/-- The identity of a scan, which an inactive element contributes (R236); the range is that of X (DESIGN CHOICE, log 52). -/
def scanUnit (sub t : Nat) : FVal := if sub < 2 then .zero else if sub == 2 then lowOf t else highOf t

/-- Result of a scan over the first items of a row (R236). -/
def scanVal (e : Env) (t base : Nat) (l : List FVal) : FVal :=
  if e.sub < 2 then
    (if isF t then sumFree e.mode e.draw base l else .ofInt (l.foldl (fun (n : Int) v => n + v.int) 0))
  else if e.sub == 2 then l.foldl FVal.max (lowOf t)
  else l.foldl FVal.min (highOf t)

def vscanRun (e : Env) (c : Core) : Except Stop Run := do
  e.ready c
  let a ← e.arg c 0
  let y ← e.arg c 1
  let m ← e.optArg c (e.flag 5) 2
  let x := a.view
  need (y.view.dims == x.dims && maskFits m x) .malformed
  let w := vwrite y.view e.mode fun r j =>
    let n := if e.sub == 1 then j else j + 1
    some (scanVal e x.dtype ((r * x.d0 + j) * 2 ^ 32)
      ((List.range n).map fun i => if active m x r i then x.real r i else scanUnit e.sub x.dtype))
  let ts := [x.dtype, y.view.dtype]
  let r : Run := { outs := e.outs c y w, counts := w.cnt.health }
  .ok ((r.vector (laneTime ts 2 x 16)).reading ([a] ++ optLost m) false)

def execVscan (c : Cmd) (s : State) : Host.Outcome State Fault Refusal :=
  onCoreA (Core.command 0x200C c (runOnly vscanRun)) s

end Sys2Proof.Machine
end

