-- ==== Sys2Proof/Machine/Checks.lean ====
section
/-! DEFINITION. What PROG_LOAD checks in each command and descriptor of an image (R99, R130, R139, R155, R160, R164 to
R167, R173, R179, R180, R219, R221, R224, R228, R243, R246, R316, R343), on static dimensions and planned maxima. -/

namespace Sys2Proof.Machine

/-! ### Static dimensions -/

/-- Dimension `i` where it is static. -/
def Desc.sd (d : Desc) (i : Nat) : Option Nat := if dynDim (dim d.dims i) then none else some (dim d.dims i)
def Desc.sdims (d : Desc) : List (Option Nat) := (List.range d.rank).map d.sd
def Desc.maxAt (d : Desc) (i : Nat) : Nat := dim d.maxDims i
/-- Rows at the planned maxima. -/
def Desc.maxRows (d : Desc) : Nat := rowsOf d.maxDims

/-- Two dimensions that are both static are equal. -/
def agree : Option Nat → Option Nat → Bool
  | some a, some b => a == b
  | _, _ => true
def agreeL (a b : List (Option Nat)) : Bool := a.length == b.length && (a.zip b).all fun x => agree x.1 x.2
/-- Of some dimensions, or shapes, those that are static are equal. -/
def agreeAll (l : List (Option Nat)) : Bool := l.all fun a => l.all (agree a)
def agreeLs (l : List (List (Option Nat))) : Bool := l.all fun a => l.all (agreeL a)
/-- A static dimension passes a test. -/
def known (a : Option Nat) (p : Nat → Bool) : Bool := a.all p
/-- Product of dimensions where all are static. -/
def prodS : List (Option Nat) → Option Nat
  | [] => some 1
  | none :: _ => none
  | some a :: r => (prodS r).map (a * ·)

/-- No scales of either arrangement. -/
def Desc.bare (d : Desc) : Bool := d.group == 0 && d.scaleH == 0 && d.rowH == 0
/-- Row scales and no groups. -/
def Desc.rowScaled (d : Desc) : Bool := d.group == 0 && d.scaleH == 0 && d.rowH != 0
def Desc.isType (d : Desc) (t : Nat) : Bool := d.dtype == t

/-- A BYTES operand of rank 1 that holds at least a number of bytes (R216). -/
def bytesFor (m : Desc) (n : Option Nat) : Bool :=
  isBytes m.dtype && m.rank == 1 &&
    match m.sd 0, n with
    | some a, some b => decide (b ≤ a)
    | _, _ => true

/-- Bytes of an element mask over a tensor. -/
def Desc.maskNeed (x : Desc) : Option Nat := (prodS x.sdims.tail).bind fun r => (x.sd 0).map fun d => maskBytes d r

/-! ### Types -/

/-- Streaming and stationary pairs of Table 5-5. -/
def pairOk (a b : Nat) : Bool :=
  (a == 1 && (b == 1 || b == 2)) || (a == 2 && b == 2) || (isF8 a && isF8 b) || (a == 0xA && b == 0xA) ||
    ((a == 5 || a == 6 || a == 0xA) && isMX b && !(a == 0xA && b == 0xA)) ||
    ((a == 7 || a == 8 || a == 9) && (b == 7 || b == 8 || b == 9)) || (a == 0xB && b == 0xB) || (a == 0xC && b == 0xC)

/-- Output types of MATMUL and CONV2D, with OUTPRESS (R164). -/
def outOk (d : Desc) (press : Bool) : Bool :=
  if isU d.dtype then d.rowScaled else (isWide d.dtype || isF8 d.dtype) && d.bare && !press

/-- An F or I output of a vector command (R215). -/
def vecOut (t : Nat) (y : Desc) : Bool :=
  if isI t then isI y.dtype else (isWide y.dtype || (y.isType 1 && y.rowScaled))
/-- An F or I input beside one of type `t`. -/
def vecIn (t : Nat) (y : Desc) : Bool := if isI t then isI y.dtype else isF y.dtype
def FI (t : Nat) : Bool := isF t || isI t

/-! ### Relations -/

/-- Two dimensions that are both static pass a test. -/
def both (a b : Option Nat) (p : Nat → Nat → Bool) : Bool :=
  match a, b with
  | some x, some y => p x y
  | _, _ => true

/-- Convolution shapes: ranks, channels, padding (R172, R173), limits. -/
def convShape (w : Nat) (x y : Desc) : Bool :=
  let g := geomOf w
  x.rank == 3 && y.rank == 3 &&
  g.startOk && both (x.sd 2) (y.sd 2) g.bottomOk && both (x.sd 1) (y.sd 1) g.rightOk
def convLimits (x y : Desc) : Bool :=
  decide (x.maxAt 0 ≤ 65536) && decide (y.maxAt 0 ≤ 65536) &&
    decide (x.maxAt 1 ≤ 8192) && decide (x.maxAt 2 ≤ 8192) && decide (y.maxAt 1 ≤ 8192) && decide (y.maxAt 2 ≤ 8192)

/-- Channels of a convolution's reduction, padded where X has scales (R172). -/
def Desc.padded (x : Desc) (c : Nat) : Nat := if x.bare then c else (c + 31) / 32 * 32

/-- Bytes of sparsity metadata for N rows over K positions (R165). -/
def metaBytes (n k : Option Nat) : Option Nat := n.bind fun a => k.map fun b => a * (((b + 3) / 4 + 1) / 2)

/-- Static checks of one command whose words are clean; `lc` tells the class of the program. -/
def checkCmd (lc : Bool) (op : Nat) (c : Cmd) (D : Nat → Option Desc) : Bool :=
  let sub := c.sub.toNat
  let f := c.flags.toNat
  let b (k : Nat) : Bool := bitAt k f
  let w (k : Nat) : Nat := (cmdWords c).getD k 0
  let opt (p : Bool) (k : Nat) (t : Desc → Bool) : Bool := !p || (D k).any t
  let press := b 4
  let bias (ns : List (Option Nat)) (top : Nat) (d : Desc) : Bool :=
    d.isType 0xD && d.rank == 1 && agreeAll (d.sd 0 :: ns) && decide (d.maxAt 0 ≤ top)
  let mask (x m : Desc) : Bool := bytesFor m x.maskNeed
  Option.getD (dflt := false) <| match op with
  | 0x000B => do
    let x ← D 0
    some (emitType sub x.dtype && known (x.sd 0) (emitWidth sub))
  | 0x1001 => do
    let x ← D 0
    let y ← D 1
    let z ← D 2
    let tr (d : Desc) : Bool := !d.transposed || (d.bare && (isF8 d.dtype || d.isType 0xB || d.isType 0xC))
    some (decide (2 ≤ x.rank) && y.rank == 2 && agree (x.sd 0) (y.sd 0) && agree (z.sd 0) (y.sd 1) &&
      agreeL x.sdims.tail z.sdims.tail && pairOk x.dtype y.dtype && outOk z press && tr x && tr y && !z.transposed &&
      decide (f / 64 < 2) && opt (b 5) 3 (bias [y.sd 1, z.sd 0] 1048576) &&
      (!b 3 || (!y.transposed && (isU y.dtype || isF8 y.dtype || isMX y.dtype) && !x.isType 0xB && !x.isType 0xC)) &&
      opt (b 3) 5 (fun m => bytesFor m (metaBytes ((y.sd 1).or (z.sd 0)) ((y.sd 0).or (x.sd 0)))) &&
      decide (x.maxAt 0 ≤ 1048576) && decide (y.maxAt 0 ≤ 1048576) && decide (y.maxAt 1 ≤ 1048576) &&
      decide (x.maxRows ≤ 16777216) && decide (z.maxAt 0 ≤ 1048576) && decide (z.maxRows ≤ 16777216))
  | 0x1002 => do
    let x ← D 0
    let y ← D 1
    let z ← D 2
    let g := geomOf (w 4)
    some (y.rank == 2 && agree (y.sd 0) ((x.sd 0).map fun ch => g.kh * g.kw * x.padded ch) && agree (z.sd 0) (y.sd 1) &&
      convShape (w 4) x z && convLimits x z && decide (y.maxAt 1 ≤ 65536) && pairOk x.dtype y.dtype && outOk z press && decide (f / 64 < 2) &&
      opt (b 5) 3 (bias [y.sd 1, z.sd 0] 65536) &&
      (!b 3 || ((isU y.dtype || isF8 y.dtype || isMX y.dtype) && !x.isType 0xB && !x.isType 0xC)) &&
      opt (b 3) 5 (fun m => bytesFor m (metaBytes ((y.sd 1).or (z.sd 0))
        ((y.sd 0).or ((x.sd 0).map fun ch => g.kh * g.kw * x.padded ch)))))
  | 0x1003 => do
    let x ← D 0
    let y ← D 1
    let z ← D 2
    let g := geomOf (w 4)
    some (y.rank == 2 && agree (y.sd 0) (x.sd 0) && known (y.sd 1) (· == g.kh * g.kw) && agree (z.sd 0) (x.sd 0) &&
      convShape (w 4) x z && convLimits x z && decide (y.maxAt 0 ≤ 65536) && isF x.dtype && isF y.dtype &&
      (isWide z.dtype && !press || z.isType 1 && z.rowScaled) && decide (f / 64 < 2) && agree (y.sd 0) (z.sd 0) &&
      opt (b 5) 3 (bias [x.sd 0, y.sd 0, z.sd 0] 65536))
  | 0x1004 => do
    let q ← D 0
    let k ← D 1
    let v ← D 2
    let o ← D 3
    let types := (q.isType 0xB && k.isType 0xB && v.isType 0xB) || (q.isType 0xC && k.isType 0xC && v.isType 0xC) ||
      (isF8 q.dtype && isF8 k.dtype && isF8 v.dtype)
    some (k.rank == 2 && agreeL k.sdims v.sdims && agreeAll [q.sd 0, k.sd 0, v.sd 0, o.sd 0] &&
      agreeL q.sdims.tail o.sdims.tail && q.rank == o.rank && types && isWide o.dtype && q.bare && k.bare && v.bare &&
      opt (b 5) 5 (fun m => bytesFor m ((prodS q.sdims.tail).bind fun a => (k.sd 1).map fun l => a * ((l + 7) / 8))) &&
      decide (q.maxAt 0 ≤ 256) && decide (k.maxAt 0 ≤ 256) && decide (v.maxAt 0 ≤ 256) && decide (o.maxAt 0 ≤ 256) &&
      decide (q.maxRows ≤ 4096) && decide (o.maxRows ≤ 4096) && decide (k.maxAt 1 ≤ 1048576) && decide (v.maxAt 1 ≤ 1048576))
  | 0x1010 => do
    let x ← D 0
    let y ← D 1
    let p := permOf (w 2) x.rank
    some (sameArr x y && x.group == y.group && permOk (w 2) x.rank && agreeL y.sdims (p.map x.sd) &&
      (p.headD 0 == 0 || (x.bare && decide (8 ≤ bitsOf x.dtype))))
  | 0x1011 => do
    let x ← D 0
    let y ← D 1
    some (sameArr x y && x.group == y.group && (if sub == 0 then agreeL x.sdims y.sdims else agree (x.sd 0) (y.sd 0)))
  | 0x2001 => do
    let x ← D 0
    let y ← D 2
    let t := x.dtype
    let cmp := decide (10 ≤ sub) && decide (sub ≤ 15)
    let unary := sub == 6 || sub == 7 || sub == 8 || sub == 19
    let types := if 20 ≤ sub then isI t else if 16 ≤ sub then isI t || isBytes t else FI t
    let inOk (d : Desc) : Bool := if isBytes t then isBytes d.dtype else vecIn t d
    let outOk := if isBytes t then isBytes y.dtype else vecOut t y
    some (types && (sub != 9 || b 5) && !(unary && (b 4 || b 6)) && opt (b 5) 3 (mask x) &&
      (if cmp then mask x y else outOk && agreeL x.sdims y.sdims) &&
      opt (!unary && !b 4) 1 (fun d => inOk d &&
        (if b 6 then d.rank == 1 && agree (d.sd 0) (x.sd 0) && (cmp || agree (d.sd 0) (y.sd 0))
         else agreeLs ([d.sdims, x.sdims] ++ if cmp then [] else [y.sdims]))) &&
      opt (sub == 3) 5 (fun d => inOk d && agreeLs [d.sdims, x.sdims, y.sdims] &&
        (b 4 || (D 1).all fun z => if b 6 then agree (z.sd 0) (d.sd 0) else agreeL z.sdims d.sdims)))
  | 0x2002 => do
    let x ← D 0
    let y ← D 1
    let ax := f / 64
    let want := if ax == 0 then (if x.rank == 1 then [some 1] else x.sdims.tail)
      else if ax == 1 then x.sd 0 :: x.sdims.drop 2 else [some 1]
    some (ax != 3 && FI x.dtype && (ax != 1 || decide (2 ≤ x.rank)) && agreeL y.sdims want && opt (b 5) 2 (mask x) &&
      (if sub == 4 || sub == 5 || sub == 7 then y.isType 0xE else vecOut x.dtype y))
  | 0x2003 => do
    let x ← D 0
    let m ← D 1
    let y ← D 2
    let n := if sub == 0 then x.sd 0 else x.sd 1
    some (x.rank == sub + 1 && agreeL x.sdims y.sdims && FI x.dtype && vecOut x.dtype y && (x.bare || x.rowScaled) &&
      bytesFor m (n.map fun k => (k + 7) / 8) &&
      opt (b 4) 3 (fun d => d.isType 0xE && d.rank == 1 && agreeAll [d.sd 0, n, if sub == 0 then y.sd 0 else y.sd 1]))
  | 0x2004 => do
    let x ← D 0
    let m ← D 1
    let y ← D 2
    let n := if sub == 0 then x.sd 0 else x.sd 1
    some (x.rank == sub + 1 && y.rank == x.rank && FI x.dtype && vecOut x.dtype y && (x.bare || x.rowScaled) &&
      m.isType 0xE && m.rank == 1 && agree (m.sd 0) n && (sub == 0 || agree (x.sd 0) (y.sd 0)))
  | 0x2005 => do
    let x ← D 0
    let y ← D 1
    some (isWide x.dtype && isWide y.dtype && agreeL x.sdims y.sdims && opt (b 5) 2 (mask x))
  | 0x2006 => do
    let x ← D 0
    let v ← D 1
    let i ← D 2
    some (FI x.dtype && vecOut x.dtype v && i.isType 0xE && agreeL v.sdims.tail x.sdims.tail && v.rank == x.rank &&
      agreeL i.sdims v.sdims && decide (x.maxAt 0 ≤ 4096) && decide (v.maxAt 0 ≤ 1024) && opt (b 5) 4 (mask x))
  | 0x2007 => do
    let x ← D 0
    let s ← D 1
    let o ← D 2
    let list (d : Desc) : Bool := d.rank == 1 && agree (d.sd 0) (x.sd 1)
    some (x.isType 0xD && x.rank == 2 && known (x.sd 0) (· == 4) && decide (x.maxAt 1 ≤ 4096) && isWide s.dtype &&
      list s && o.isType 0xE && o.rank == 1 && decide (o.maxAt 0 ≤ 4096) && opt (b 4) 5 (fun d => d.isType 0xE && list d))
  | 0x2008 => do
    let x ← D 0
    let r ← D 1
    some (x.isType 0xD && x.rank == 2 && decide (x.maxAt 0 ≤ 256) && decide (x.maxAt 1 ≤ 256) && r.isType 0xE &&
      r.rank == 1 && agree (r.sd 0) (x.sd 1) && opt (b 4) 2 (fun d => d.isType 0xE && d.rank == 1 && agree (d.sd 0) (x.sd 0)))
  | 0x2009 => do
    let x ← D 0
    let y ← D 1
    some (isF x.dtype && vecOut 0xD y && agree (x.sd 0) (y.sd 0) && x.rank == 3 &&
      (if sub < 3 then convShape (w 4) x y else y.rank == 1))
  | 0x200A => do
    let x ← D 0
    let y ← D 1
    let par (d : Desc) : Bool := d.isType 0xD && d.rank == 1 && agreeAll [d.sd 0, x.sd 0, y.sd 0] &&
      opt (b 4 && b 5) 2 fun z => agree (z.sd 0) (d.sd 0)
    some (isF x.dtype && vecOut 0xD y && agreeL x.sdims y.sdims && opt (b 4) 2 par && opt (b 5) 3 par)
  | 0x200B => do
    let x ← D 0
    let y ← D 1
    some (isF x.dtype && vecOut 0xD y && agreeL x.sdims y.sdims && opt (b 5) 2 (mask x))
  | 0x200C => do
    let x ← D 0
    let y ← D 1
    some ((x.isType 0xD && y.isType 0xD || isI x.dtype && isI y.dtype) && agreeL x.sdims y.sdims && opt (b 5) 2 (mask x))
  | 0x3001 => do
    let x ← D 0
    let y ← D 1
    some (isWide x.dtype && isU y.dtype && agreeL x.sdims y.sdims && x.handle != y.handle)
  | 0x3002 => do
    let x ← D 0
    let y ← D 1
    some ((isU x.dtype || isF8 x.dtype || isMX x.dtype) && isWide y.dtype && agreeL x.sdims y.sdims && x.handle != y.handle)
  | 0x3003 => do
    let x ← D 0
    let y ← D 1
    some (isU x.dtype && isU y.dtype && agreeL x.sdims y.sdims && x.handle != y.handle)
  | 0x3004 => do
    let x ← D 0
    let y ← D 1
    let ok (t : Nat) : Bool := isWide t || isF8 t || isMX t || isI t
    some (ok x.dtype && ok y.dtype && agreeL x.sdims y.sdims && x.handle != y.handle)
  | 0x4005 => do
    let y ← D 0
    let p ← D 1
    let m := w 2
    let rank := if sub == 2 then 4 else 3
    let dy (l : List Desc) : Bool := l.all fun d => !d.dynamic
    some ((isWide y.dtype && y.bare || y.isType 1 && y.rowScaled) && dy ([y, p] ++ (D 5).toList) &&
      known (y.sd 0) (· == (if m % 4 == 0 then 1 else 3)) && m / 64 % 4 != 3 && m / 16 % 4 != 3 && y.rank == rank &&
      decide (y.maxAt 1 ≤ 4096) && decide (y.maxAt 2 ≤ 4096) && (sub != 2 || decide (y.maxAt 3 ≤ 64)) &&
      p.isType 0xD && p.rank == 1 && known (p.sd 0) (· == 8) &&
      (sub != 1 || (decide (1 ≤ w 4 % 65536) && decide (w 4 % 65536 ≤ 8192) && decide (1 ≤ w 4 / 65536) &&
        decide (w 4 / 65536 ≤ 8192))) &&
      opt (sub == 2 && b 4) 5 (fun d => d.isType 0xE && d.rank == 2 && known (d.sd 0) (· == 4) && agree (d.sd 1) (y.sd 3)))
  | 0x5002 => some (!(lc && sub == 1))
  | 0x5003 | 0x5004 => some (!lc)
  | 0x5005 => some (!(lc && (sub == 1 || sub == 3)))
  | _ => some true

/-! ### Whole images -/

/-- Branch, loop and call targets lie inside, and a LOOP's last body command after it (R99). -/
def targetsOk (op idx count : Nat) (c : Cmd) : Bool :=
  match op with
  | 0x0006 => decide (c.w2.toNat < count)
  | 0x0007 => decide (c.w1.toNat < count) && decide (idx < c.w1.toNat) && decide (1 ≤ c.w2.toNat) && decide (c.w2.toNat ≤ 65535)
  | 0x0008 => decide (c.w0.toNat < count)
  | _ => true

/-- Buffer kinds that a command of a program may name: WEIGHT outputs, PAGED uses (R243). -/
def kindsOk (op sub flags : Nat) (kind : Nat → Option Nat) : Bool :=
  (outWords op sub flags).all (fun k => kind k != some 1 || op == 0x6003 || op == 0x5004) &&
  (dWords op sub flags).all fun k => kind k != some 2 ||
    (op == 0x1004 && (k == 1 || k == 2)) || (op == 0x1011 && (k == 0 || (sub == 1 && k == 1)))

/-- An output names no buffer that an input of the same command names (R160, R219); OPTIM_STEP works in place. -/
def apart (op sub flags : Nat) (D : Nat → Option Desc) : Bool :=
  !((0x1001 ≤ op && op < 0x1100) || (0x2001 ≤ op && op < 0x2100)) ||
  (outWords op sub flags).all fun o => (inWords op sub flags).all fun i =>
    match D o, D i with
    | some x, some y => x.handle != y.handle
    | _, _ => true

/-- A descriptor agrees with the declaration of the buffer that it names (R246). -/
def Desc.agrees (d : Desc) (b : Desc) : Bool :=
  d.dtype == b.dtype && d.rank == b.rank && d.group == b.group && d.scope == b.scope && d.scaleH == b.scaleH &&
    d.rowH == b.rowH && (List.range d.rank).all fun i => decide (d.maxAt i ≤ b.maxAt i)

/-- A program image as read: class, allowance, weight, entry, commands with opcodes, descriptors. -/
structure Image32 where
  lc    : Bool
  allow : Nat
  glw   : Nat
  entry : Nat
  cmds  : List (Nat × Cmd)
  descs : List (Option Desc)
  deriving DecidableEq, Repr

/-- A command from its 32 bytes (Table 4-10), with its opcode. -/
def parseCmd (src : Src) (l : List Byte) : Nat × Cmd :=
  (leAt l 0 2,
    { src := src, flags := BitVec.ofNat 8 (leAt l 2 1), sub := BitVec.ofNat 8 (leAt l 3 1)
      tag := BitVec.ofNat 32 (leAt l 4 4), w0 := BitVec.ofNat 32 (leAt l 8 4), w1 := BitVec.ofNat 32 (leAt l 12 4)
      w2 := BitVec.ofNat 32 (leAt l 16 4), w3 := BitVec.ofNat 32 (leAt l 20 4), w4 := BitVec.ofNat 32 (leAt l 24 4)
      w5 := BitVec.ofNat 32 (leAt l 28 4) })

/-- An image from its bytes; none where the header or the length is inconsistent (R99, Table 4-14). -/
def parseImage (l : List Byte) : Option Image32 :=
  let n := leAt l 8 4
  let m := leAt l 12 4
  let f := leAt l 6 2
  let gl := bitAt 0 f
  let glw := leAt l 20 1
  if leAt l 0 4 == 0x50534341 && leAt l 4 2 == 1 && f / 8 == 0 && 1 ≤ n && n ≤ 65536 && m ≤ 65536 && leAt l 16 4 < n &&
      (if gl then decide (1 ≤ glw) else glw == 0) && zeroAt l 21 64 && l.length == 64 + 32 * n + 64 * m && 64 ≤ l.length then
    some {
      lc := !gl, allow := f / 2 % 4, glw := glw, entry := leAt l 16 4
      cmds := (List.range n).map fun i => parseCmd (.ring 0) ((l.drop (64 + 32 * i)).take 32)
      descs := (List.range m).map fun i => parseDesc ((l.drop (64 + 32 * n + 64 * i)).take 64) }
  else none

/-- A descriptor that breaks R93, or does not agree with a declared buffer of the partition (R246). -/
def Core.descBad (c : Core) (part : Nat) : Option Desc → Bool
  | none => true
  | some d =>
    !d.ok ||
      match c.buf? part (handleNum d.handle) with
      | none => true
      | some b => !d.agrees b.desc

/-- Handles of other partitions in a descriptor: the first of them (R99). -/
def foreignIn (part : Nat) : Option Desc → Option Nat
  | none => none
  | some d => [d.handle, d.scaleH, d.rowH].find? fun h => h != 0 && handlePart h != part

/-- Command `idx` of an image is at fault by itself. -/
def Core.cmdBad (c : Core) (part : Nat) (im : Image32) (idx : Nat) (x : Nat × Cmd) : Bool :=
  let op := x.1
  let sub := x.2.sub.toNat
  let f := x.2.flags.toNat
  let D (k : Nat) : Option Desc := (im.descs[(cmdWords x.2).getD k 0 % 65536]?).bind id
  let ks := dWords op sub f
  !(opSources op).p || !cmdClean true op x.2 ||
  ks.any (fun k => decide (im.descs.length ≤ (cmdWords x.2).getD k 0 % 65536)) ||
  !targetsOk op idx im.cmds.length x.2 ||
  ks.any (fun k => bitAt 31 ((cmdWords x.2).getD k 0) && (D k).any fun d => d.scope != 2) ||
  ks.any (fun k => !(op == 0x1001 && k < 2) && (D k).any fun d => d.transposed) ||
  ks.any (fun k => (D k).any fun d => isBytes d.dtype && d.rank != if op == 0x5003 && k == 2 then 2 else 1) ||
  !kindsOk op sub f (fun k => ((D k).bind fun d => c.buf? part (handleNum d.handle)).map (·.kind)) ||
  !apart op sub f D || !checkCmd im.lc op x.2 D

/-- The first offending command index of an image (R99): none where nothing is wrong, 0xFFFF where no command names the
descriptor at fault. -/
def Core.imageFault (c : Core) (part : Nat) (im : Image32) : Option Nat :=
  let badD := (List.range im.descs.length).filter fun i => c.descBad part (im.descs.getD i none)
  let names (x : Nat × Cmd) : Bool :=
    (dWords x.1 x.2.sub.toNat x.2.flags.toNat).any fun k => badD.contains ((cmdWords x.2).getD k 0 % 65536)
  match im.cmds.zipIdx.find? fun y => names y.1 || c.cmdBad part im y.2 y.1 with
  | some y => some y.2
  | none => if badD.isEmpty then none else some 0xFFFF

end Sys2Proof.Machine
end

