-- ==== Sys2Proof/Machine/Program.lean ====
section
/-! DEFINITION. PROG_LOAD (R98, R99) and BIND (R100). -/

namespace Sys2Proof.Machine

/-- One of the numbers below `n` that are not in use, by a free choice (R95 does not say which); none where all are. -/
def pickFree (draw n : Nat) (used : List Nat) : Option Nat :=
  let l := (List.range n).filter fun i => !used.contains i
  if l.isEmpty then none else some (l.getD (Config.freeNat draw 0 % l.length) 0)

/-- A detail word of R97 with its own low half. -/
def Env.detailAt (e : Env) (low : Nat) : Option Nat := some (e.op * 65536 + low)

/-- PROG_LOAD sub-operation 0: the image checked and loaded. -/
def progLoad (e : Env) (c : Core) : Except Stop (Core × Option Run) := do
  let l ← e.hostRead c (e.long 0) (e.word 2)
  match parseImage l with
  | none => .error (.fail .malformed (e.detailAt 0xFFFF))
  | some im =>
    match im.descs.findSome? (foreignIn e.part) with
    | some h => .error (.violation 1 h)
    | none =>
      match c.imageFault e.part im with
      | some i => .error (.fail .malformed (e.detailAt i))
      | none =>
        match pickFree e.draw 256 ((c.programs.filter (·.part == e.part)).map (·.num)) with
        | none => .error (.fail .noSpace none)
        | some n =>
          let p : Program :=
            { part := e.part, num := n, lc := im.lc, allow := im.allow, glw := im.glw, entry := im.entry
              cmds := im.cmds, descs := im.descs.filterMap id }
          .ok ({ c with programs := c.programs ++ [p] }, some (quick (handleOf e.part n)))

/-- PROG_LOAD sub-operation 1: STATE while a binding or an unfinished instance of the program exists; the manual gives
no code for it (log 18). -/
def progUnload (e : Env) (c : Core) : Except Stop (Core × Option Run) := do
  let p ← c.progOf e.part (e.word 0)
  need (!(c.bindings.any fun b => b.part == e.part && b.prog == p.num) &&
    !(c.insts.any fun i => i.part == e.part && i.prog == p.num)) (.fail .state none)
  .ok ({ c with programs := c.programs.filter fun x => !(x.part == e.part && x.num == p.num) }, some (quick 0))

/-- What a PROG_LOAD does, by its sub-operation. -/
def progCmd (e : Env) (c : Core) : Except Stop (Core × Option Run) := if e.sub == 0 then progLoad e c else progUnload e c

def execProgLoad (c : Cmd) (s : State) : Host.Outcome State Fault Refusal := onCoreA (Core.command 0x7005 c progCmd) s

/-- The instances of an ended binding and its copies make way for a new binding of its number (R110): they keep each other under a
number that no binding can have. -/
def Core.vacate (c : Core) (n : Nat) : Core :=
  let m := n + 4096 * (1 + (c.insts.filterMap (·.binding)).foldl (fun m b => max m (b / 4096)) 0)
  { c with
    insts := c.insts.map fun i => if i.binding == some n then { i with binding := some m } else i
    copies := c.copies.map fun x => if x.key == .binding n then { x with key := .binding m } else x }

/-- The copies of one binding have their resting places from BIND on (R245). -/
def Core.reserveBound (c : Core) (part : Nat) (p : Program) (n : Nat) : Core :=
  p.bufs.foldl (fun c b =>
    if (c.buf? part b).any fun x => x.kind == 0 && x.desc.scope == 2 then c.reserve part b (.binding n) else c) c

/-- BIND sub-operation 0. -/
def bindMake (e : Env) (c : Core) : Except Stop (Core × Option Run) := do
  let p ← c.progOf e.part (e.word 0)
  let k := e.word 1 % 4096
  let x := c.ctx k
  need (x.state == .closed || x.part == e.part) (.violation 1 k)
  need (x.state == .opened || x.state == .running || x.state == .stopped) (.state (cstateCode x.state))
  need (c.dramFits e.part (c.bindBytes e.part p) 0) (.fail .noSpace none)
  match (pickFree e.draw 4096 (c.bindings.map (·.num) ++ c.insts.filterMap (·.binding))).orElse fun _ =>
      pickFree e.draw 4096 (c.bindings.map (·.num)) with
  | none => .error (.fail .noSpace none)
  | some n =>
    let b : Binding :=
      { num := n, part := e.part, prog := p.num, ctx := k
        allow := if bitAt 2 (e.word 2) then e.word 2 % 4 else p.allow
        tag := e.cmd.w3, param := e.cmd.w4, queue := e.q }
    let c := if c.insts.any (·.binding == some n) then c.vacate n else c
    let c := ({ c with bindings := c.bindings ++ [b] }).reserveBound e.part p n
    .ok ((c.updCtx k fun x => x.scan true).activate e.part, some (quick n))

/-- BIND sub-operation 1: the binding ends at the next build. One that is marked already is no longer in force: MALFORMED (DESIGN
CHOICE, log 52). -/
def bindEnd (e : Env) (c : Core) : Except Stop (Core × Option Run) :=
  match c.binding? (e.word 0) with
  | none => .error .malformed
  | some b =>
    if b.part != e.part then .error (.violation 1 (e.word 0))
    else if b.ending then .error .malformed
    else .ok ({ c with bindings := listSet c.bindings (·.num == e.word 0) fun x => { x with ending := true } }, some (quick 0))

/-- What a BIND does, by its sub-operation. -/
def bindCmd (e : Env) (c : Core) : Except Stop (Core × Option Run) := if e.sub == 0 then bindMake e c else bindEnd e c

def execBind (c : Cmd) (s : State) : Host.Outcome State Fault Refusal := onCoreA (Core.command 0x7006 c bindCmd) s

end Sys2Proof.Machine
end

