-- ==== Sys2Proof/Machine/Buffers.lean ====
section
/-! DEFINITION. Memory commands: BUF_DECLARE, BUF_RELEASE, PIN_HINT, HOST_READ, HOST_WRITE, MODEL_LOAD and MODEL_UNLOAD
(R241 to R249, R257 to R264, R498). -/

namespace Sys2Proof.Machine

/-- A buffer handle of the queue's partition (R95). -/
def Core.bufOf (c : Core) (part h : Nat) : Except Stop Buffer :=
  if handlePart h != part then .error (.violation 1 h)
  else
    match c.buf? part (handleNum h) with
    | some b => .ok b
    | none => .error .malformed

/-- A scale handle in a declaration: 0, or a BYTES buffer of the partition and kind (R244). -/
def Core.scaleRef (c : Core) (part kind h : Nat) : Except Stop Unit :=
  if h == 0 then .ok ()
  else do
    let b ← c.bufOf part h
    need (isBytes b.desc.dtype && b.kind == kind) .malformed

/-- Pages of one copy at the planned maximum (R245, R257). -/
def pageCount (d : Desc) (page : Nat) : Nat := ceilDiv d.maxRows (16 * 2 ^ page)

/-- What R244 asks of a declaration of a kind, its scale handles apart. BYTES is of rank 1 (Table 4-12), and of rank 2 for the labels
of Table 14-4, which a declaration cannot tell apart (log 52). -/
def declOk (d : Desc) (kind page : Nat) : Bool :=
  d.handle == 0 && d.ok && decide (kind < 3) && (kind == 2 || page == 0) && decide (page ≤ 4) &&
    (kind != 1 || !d.dynamic) && (!isBytes d.dtype || decide (d.rank ≤ 2)) &&
    (kind != 2 || (d.rank == 2 && (d.isType 0xB || d.isType 0xC || isF8 d.dtype) && d.bare && decide (pageCount d page ≤ 65536)))

/-- On-chip room of a partition for one TENSOR copy (R241, R245). -/
def Part.room (p : Part) : Nat :=
  p.tillers.length * 12582912 + p.grants.granary * 65536 - p.tillers.length * 262144

/-- The next buffer number: numbers only rise, so none is used twice (R247); the step is a free choice below 256. -/
def nextNum (draw : Nat) (p : Part) : Nat := p.nextBuf + Config.freeNat draw 0 % 256

/-- BUF_DECLARE (R244, R245). -/
def declare (e : Env) (c : Core) : Except Stop (Core × Option Run) := do
  let l ← e.hostRead c (e.long 0) 64
  let kind := e.word 2 % 4
  let page := e.word 2 / 16 % 8
  match parseDesc l with
  | none => .error .malformed
  | some d =>
    c.scaleRef e.part kind d.scaleH
    c.scaleRef e.part kind d.rowH
    need (declOk d kind page) .malformed
    let p := c.part e.part
    need (decide ((c.buffers.filter (·.part == e.part)).length < 65536) && (kind != 0 || decide (d.capacity ≤ p.room)) &&
      (kind == 2 || d.scope != 0 || c.dramFits e.part d.capacity 0)) (.fail .noSpace none)
    let n := nextNum e.draw p
    let c := c.updPart e.part fun p => { p with nextBuf := n + 1 }
    let c := { c with buffers := c.buffers ++ [{ part := e.part, num := n, kind := kind, page := page, desc := d }] }
    .ok (if d.scope == 0 then c.reserve e.part n .shared else c, some (quick (handleOf e.part n)))

def execBufDeclare (c : Cmd) (s : State) : Host.Outcome State Fault Refusal :=
  onCoreA (Core.command 0x6001 c declare) s

/-- A loaded program names a buffer. -/
def Core.named (c : Core) (part n : Nat) : Bool := c.programs.any fun p => p.part == part && p.bufs.contains n

/-- An unfinished command reads or writes a buffer: one in flight, or a fetched transfer of another queue or ahead of
`e` in its own. -/
def Env.inUse (e : Env) (c : Core) (n : Nat) : Bool :=
  c.runs.any (fun r => r.part == e.part && (r.ins.contains n || r.outs.any (·.buf == n))) ||
  c.qs.any fun x => x.2.part == e.part && x.2.fetched.any fun f =>
    (f.op == 0x6003 || f.op == 0x6004) && handleNum f.cmd.w0.toNat == n && (x.1 != e.q || decide (f.n < e.n))

/-- BUF_RELEASE (R247). -/
def releaseBuf (e : Env) (c : Core) : Except Stop (Core × Option Run) := do
  let b ← c.bufOf e.part (e.word 0)
  need (e.sub == 0 || b.kind == 2) .malformed
  let key ← if e.sub == 1 && bitAt 31 (e.word 2) then
      (match c.binding? (e.word 2 % 4096) with
        | none => .error .malformed
        | some x => if x.part == e.part then .ok (CopyKey.binding x.num) else .error (.violation 1 (e.word 2 % 4096)))
    else .ok .shared
  need (!c.named e.part b.num && !e.inUse c b.num) (.state 0x31)
  if e.sub == 0 then
    .ok ({ c with buffers := listSet c.buffers (fun x => x.part == e.part && x.num == b.num) fun x => { x with releasing := true } },
      some (quick 0))
  else
    let first := ceilDiv (e.word 1) (16 * 2 ^ b.page)
    .ok ({ c with copies := listSet c.copies (fun x => x.part == e.part && x.buf == b.num && x.key == key) fun x =>
        { x with freeing := (x.freeing ++ x.pages.filter fun p => decide (first ≤ p)).dedup } }, some (quick 0))

def execBufRelease (c : Cmd) (s : State) : Host.Outcome State Fault Refusal :=
  onCoreA (Core.command 0x6002 c releaseBuf) s

/-- PIN_HINT (R263): a buffer handle and a program handle are not told apart, so every object that the handle names
takes the hint (log 26). -/
def pinHint (e : Env) (c : Core) : Except Stop (Core × Option Run) := do
  let h := e.word 0
  need (handlePart h == e.part) (.violation 1 h)
  let n := handleNum h
  need ((c.buf? e.part n).isSome || (c.prog? e.part n).isSome) .malformed
  let tier := e.word 1 % 4
  let group := e.word 1 / 256
  .ok ({ c with
    buffers := listSet c.buffers (fun x => x.part == e.part && x.num == n) fun x => { x with tier := tier, group := group }
    programs := listSet c.programs (fun x => x.part == e.part && x.num == n) fun x => { x with group := group } },
    some (quick 0))

def execPinHint (c : Cmd) (s : State) : Host.Outcome State Fault Refusal :=
  onCoreA (Core.command 0x6005 c pinHint) s

/-! ### Host transfers -/

/-- The transfer of `bytes` bytes between host memory and the granary or DRAM (Table 9-6): entries of the two ends. -/
def hostMove (c : Core) (rate bytes hostEntry entry : Nat) : Piece :=
  transfer 6 bytes 1000 rate (max 1 c.hostFull) [(hostEntry, bytes), (entry, bytes)]
    ((1, bytes) :: (if entry == 25 || entry == 26 then [(0, bytes)] else []))

/-- Stages of a transfer between host memory and a copy (Table 9-6): the host row to or from the granary, and what leads from there to
the copy's place or from it. -/
def hostPieces (e : Env) (c : Core) (bytes : Nat) (to_ : Bool) (p : Place) : List Piece :=
  let host := hostMove c (e.hostRate c) bytes (if to_ then 36 else 37) (if to_ then 24 else 23)
  match p with
  | .dram _ =>
    let leg := transfer 4 bytes 400 (e.dramRate c) 493000 (if to_ then [(23, bytes), (26, bytes)] else [(25, bytes), (24, bytes)]) [(0, bytes)]
    if to_ then [host, leg] else [leg, host]
  | .scratch .. =>
    let leg : Piece := .move bytes 1024 24 [(20, 1), (if to_ then 23 else 24, 1)]
    if to_ then [host, leg] else [leg, host]
  | _ => [host]

/-- The buffer and copy of a host transfer: a program names any copy, a ring only a shared one (R260). -/
def Env.hostBuf (e : Env) (c : Core) : Except Stop (Buffer × CopyKey) :=
  if e.inst.isSome then do
    let a ← e.arg c 0
    .ok (a.buf, a.key)
  else do
    let _ ← c.bufOf e.part (e.word 0)
    let b ← c.bufOf e.part (handleOf e.part (e.bufNum c (e.word 0)))
    need (b.desc.scope == 0) .malformed
    .ok (b, .shared)

/-- The checks of R260 in order: nothing to do, beyond the capacity, outside the windows. -/
def Env.hostRange (e : Env) (c : Core) (b : Buffer) (wr : Bool) : Except Stop Unit := do
  need (e.nat 4 != 0) (.fail .zeroShape none)
  need (decide (e.nat 3 + e.nat 4 ≤ b.desc.capacity)) .malformed
  e.window c wr (e.long 1) (e.nat 4)

/-- The handle that a host transfer names. -/
def Env.hostHandle (e : Env) : Nat := ((e.dWord 0).map (·.handle)).getD (e.word 0)

/-- HOST_READ. -/
def hostReadRun (e : Env) (c : Core) : Except Stop Run := do
  e.ready c
  let x ← e.hostBuf c
  let b := x.1
  e.hostRange c b false
  need (!c.isView e.part e.hostHandle) (.state 0x39)
  e.mayRead c
  let len := e.nat 4
  let off := e.nat 3
  let rb := rowBytes b.desc.dtype (dim b.desc.maxDims 0)
  let pages := newPages c b x.2 (off / rb) ((off + len - 1) / rb + 1 - off / rb)
  need (pagesFit c b pages) (.fail .noSpace none)
  let cp := c.copy e.part b.num x.2
  let data := Memory.read c.host.mem (e.long 1) len
  let r : Run :=
    { outs := [{ part := e.part, buf := b.num, key := x.2, data := Memory.write cp.data off data, patch := some (off, data)
                 whole := off == 0 && len == b.desc.capacity, words := wordsIn off len, pages := pages }] }
  .ok { r with pieces := hostPieces e c len true cp.place, bytes := len }

def execHostRead (c : Cmd) (s : State) : Host.Outcome State Fault Refusal :=
  onCoreA (Core.command 0x6003 c (runOnly hostReadRun)) s

/-- HOST_WRITE: posted writes of the bytes, issued when its last step ends. -/
def hostWriteRun (e : Env) (c : Core) : Except Stop Run := do
  e.ready c
  let x ← e.hostBuf c
  let b := x.1
  e.hostRange c b true
  let len := e.nat 4
  let off := e.nat 3
  let cp := c.copy e.part b.num x.2
  let r : Run :=
    { ins := [b.num], post := .hostWrite (e.long 1) (Memory.read cp.data off len)
      status := if cp.lost.any fun l => (wordsOf off len).contains l then .dataLost else .ok }
  .ok { r with pieces := hostPieces e c len false cp.place, bytes := len }

def execHostWrite (c : Cmd) (s : State) : Host.Outcome State Fault Refusal :=
  onCoreA (Core.command 0x6004 c (runOnly hostWriteRun)) s

/-! ### Models -/

/-- Entry `i` of a model image, counted from 0: descriptor with references, offset, length; none where a reserved byte
is not 0 or the descriptor cannot be read (Table 9-4). -/
def modelEntry (l : List Byte) (i : Nat) : Option (Desc × Nat × Nat) :=
  let x := (l.drop (64 + 128 * i)).take 128
  match parseDesc (x.take 64) with
  | none => none
  | some d => if zeroAt x 80 128 then some (d, leAt x 64 8, leAt x 72 8) else none

/-- A reference of an entry names a BYTES entry of the image, or is 0 (R248). -/
def refOk (es : List (Option (Desc × Nat × Nat))) (r : Nat) : Bool :=
  r == 0 ||
    match es[r - 1]? with
    | some (some x) => isBytes x.1.dtype
    | _ => false

/-- Entry checks of R248. -/
def modelEntryOk (es : List (Option (Desc × Nat × Nat))) (len : Nat) : Option (Desc × Nat × Nat) → Bool
  | none => false
  | some (d, off, n) => declOk d 1 0 && n == d.capacity && decide (off + n ≤ len) && refOk es d.scaleH && refOk es d.rowH

/-- MODEL_LOAD (R248). -/
def modelLoad (e : Env) (c : Core) : Except Stop (Core × Option Run) := do
  let p := c.part e.part
  let len := e.word 2
  let l ← e.hostRead c (e.long 0) len
  let n := leAt l 8 4
  need (leAt l 0 4 == 0x4D534341 && leAt l 4 2 == 1 && decide (1 ≤ n) && decide (n ≤ 65535) && zeroAt l 6 8 &&
    zeroAt l 12 64 && decide (64 + 128 * n ≤ len)) (.fail .malformed (e.detailAt 0))
  let es := (List.range n).map (modelEntry l)
  match (List.range n).find? fun i => !modelEntryOk es len (es.getD i none) with
  | some i => .error (.fail .malformed (e.detailAt (i + 1)))
  | none => do
    need (!p.modelRun) (.state (pstateCode .loading))
    let ds := es.filterMap id
    need (decide ((c.buffers.filter (·.part == e.part)).length + n ≤ 65536) &&
      c.dramFits e.part (ds.foldl (fun t x => t + if x.1.scope == 0 then x.1.capacity else 0) 0) 0) (.fail .noSpace none)
    let first := nextNum e.draw p
    let h (r : Nat) : Nat := if r == 0 then 0 else handleOf e.part (first + r - 1)
    let bufs := ds.zipIdx.map fun x =>
      ({ part := e.part, num := first + x.2, kind := 1, page := 0, model := true
         desc := { x.1.1 with scaleH := h x.1.1.scaleH, rowH := h x.1.1.rowH } } : Buffer)
    let outs := ds.zipIdx.map fun x =>
      ({ part := e.part, buf := first + x.2, key := .shared, whole := true
         data := Memory.write [] 0 ((l.drop x.1.2.1).take x.1.2.2) } : Out)
    let c := c.updPart e.part fun p => { p with nextBuf := first + n, modelRun := true }
    let r : Run := { outs := outs, post := .modelLoad e.part, detail := handleOf e.part first }
    let bytes := ds.foldl (fun t x => t + x.2.2) 0
    let c := { c with buffers := c.buffers ++ bufs }
    let c := (bufs.filter (·.desc.scope == 0)).foldl (fun c b => c.reserve e.part b.num .shared) c
    .ok (c, some { r with pieces := hostPieces e c bytes true (.dram 0), bytes := bytes })

def execModelLoad (c : Cmd) (s : State) : Host.Outcome State Fault Refusal :=
  onCoreA (Core.command 0x7003 c modelLoad) s

/-- MODEL_UNLOAD (R249): it completes at the boundary that releases the buffers. A second one while one waits for that boundary
completes with STATE, detail 0x13 for RESIDENT (DESIGN CHOICE, log 52): no rule names it. -/
def modelUnload (e : Env) (c : Core) : Except Stop (Core × Option Run) := do
  need (c.part e.part).unloading.isNone (.state (pstateCode .resident))
  need (!(c.buffers.any fun b => b.part == e.part && b.model && c.named e.part b.num)) (.state 0x31)
  .ok (c.updPart e.part fun p => { p with unloading := some e.cmd }, none)

def execModelUnload (c : Cmd) (s : State) : Host.Outcome State Fault Refusal :=
  onCoreA (Core.command 0x7004 c modelUnload) s

end Sys2Proof.Machine
end

