-- ==== Sys2Proof/Machine/Streams.lean ====
section
/-! DEFINITION. Stream commands: STREAM_OPEN, STREAM_FEED with its resumption, STREAM_RESYNC and STREAM_CLOSE (R295 to
R302, R311, R312). -/

namespace Sys2Proof.Machine

/-- A stream descriptor within Table 11-3. -/
def streamDesc (l : List Byte) : Option Ctx :=
  let codec := leAt l 0 1
  let f := leAt l 1 1
  let depth := leAt l 2 1
  let refs := leAt l 3 1
  let w := leAt l 4 2
  let h := leAt l 6 2
  let rate := leAt l 8 4
  let units := leAt l 12 4
  let refsOk := if codec == 4 then refs == 0 else if codec == 3 then refs == 8 else decide (1 ≤ refs) && decide (refs ≤ 16)
  if 1 ≤ codec && codec ≤ 4 && f / 4 == 0 && (depth == 8 || (depth == 10 && codec != 4)) && refsOk &&
      16 ≤ w && w ≤ 8192 && w % 2 == 0 && 16 ≤ h && h ≤ 4320 && h % 2 == 0 && 1 ≤ rate && rate ≤ 1000000 &&
      4 ≤ units && units ≤ 1024 && zeroAt l 16 64 then
    some { codec := codec, live := bitAt 0 f, periodic := bitAt 1 f, depth := depth, refs := refs, maxW := w, maxH := h
           rate := rate, bufUnits := units }
  else none

/-- The decoder with the lowest planned load of the last 64 builds, the lowest number in a tie (R261). -/
def Core.homeDec (c : Core) : Nat :=
  let load (d : Nat) : Nat := c.decPlan.foldl (fun n l => n + l.getD d 0) 0
  (List.range 8).foldl (fun b d => if load d < load b then d else b) 0

/-- STREAM_OPEN (R298, R299). -/
def streamOpen (e : Env) (c : Core) : Except Stop (Core × Option Run) := do
  let k := e.word 2
  let l ← e.hostRead c (e.long 0) 64
  match streamDesc l with
  | none => .error .malformed
  | some x =>
    need ((c.ctx k).state == .closed) (.state (cstateCode (c.ctx k).state))
    need (c.dramFits e.part 0 x.segs) (.fail .noSpace none)
    let home := c.homeDec
    .ok (c.updCtx k fun _ => { x with
      state := .opened, part := e.part, queue := e.q, home := home, event := true, key := e.draw },
      some (quick (k + 65536 * home)))

def execStreamOpen (c : Cmd) (s : State) : Host.Outcome State Fault Refusal :=
  onCoreA (Core.command 0x4001 c streamOpen) s

/-- The owner checks of R295; a CLOSED context belongs to nobody. -/
def Env.owns (e : Env) (c : Core) (k : Nat) : Except Stop Unit :=
  let x := c.ctx k
  if x.state == .closed then .ok ()
  else if x.part != e.part then .error (.violation 1 k)
  else need (x.queue == e.q) .malformed

/-- The checks of a feed before its bytes meet the buffer (R295, R297, R300). -/
def feedChecks (e : Env) (c : Core) : Except Stop Unit := do
  let k := e.word 0
  let x := c.ctx k
  let len := e.word 3
  e.owns c k
  need (x.state == .closed || (decide (1 ≤ len) && decide (len ≤ x.cap))) .malformed
  need (x.state == .opened || x.state == .running) (.state (cstateCode x.state))
  e.window c false (e.long 1) len
  e.mayRead c

/-- STREAM_FEED: the chunk is copied, or all data is discarded first (R302), or the stream stops with OVERSIZE (R301);
a feed that does not fit waits. -/
def feedBody (au : AuInfo) (e : Env) (c : Core) : Except Stop (Core × Option Run) := do
  feedChecks e c
  let k := e.word 0
  let len := e.word 3
  let run : Run := { post := .feed k len (e.flag 4) au }
  let run := { run with pieces := [hostMove c (max 1 (c.hostFull * c.host.intake / 64)) len 36 26], bytes := len }
  match c.feedFit k len with
  | .fits => .ok (c, some run)
  | .flush => .ok (c.updCtx k Ctx.flush, some run)
  | .oversize =>
    let c := c.stopStream e.now k 6 (c.ctx k).next none
    .ok (c, some { status := .state, detail := cstateCode .stopped })
  | .waits => .error .wait

/-- A feed at hand that passes its checks and does not fit is noted in its context, so that R301 can end or start it. -/
def Core.noteFeed (cmd : Cmd) (au : AuInfo) (a : Amb) (c : Core) : Core :=
  match c.atHand a.tick 0x4002 cmd with
  | none => c
  | some e =>
    match (do c.gate e; feedChecks e c) with
    | .ok _ =>
      if c.feedFit (e.word 0) (e.word 3) == Fit.waits then c.updCtx (e.word 0) fun x => { x with waitFeed := some (cmd, au) } else c
    | .error _ => c

def execStreamFeed (c : Cmd) (au : AuInfo) (s : State) : Host.Outcome State Fault Refusal :=
  onCoreA (fun a k => Core.command 0x4002 c (feedBody au) a (k.noteFeed c au a)) s

/-- STREAM_FEED_RESUME (R301): the waiting feed starts once it fits. -/
def execStreamFeedResume (k : Nat) (s : State) : Host.Outcome State Fault Refusal :=
  onCoreA (fun a c =>
    match (c.ctx k).waitFeed with
    | none => c
    | some (cmd, au) =>
      if c.feedFit k cmd.w3.toNat == Fit.waits || (c.atHand a.tick 0x4002 cmd).isNone then c
      else Core.command 0x4002 cmd (feedBody au) a (c.updCtx k fun x => { x with waitFeed := none })) s

/-! ### RESYNC and CLOSE -/

/-- The picture whose decode runs or is carried. -/
def Ctx.decoding (x : Ctx) : Option Pic := x.pics.find? fun p => p.started && !p.decoded

/-- A decode step of a stream is running. -/
def Core.decActive (c : Core) (k : Nat) : Bool :=
  c.runs.any fun r => !r.active.isEmpty && match r.post with
    | .decode y _ => y == k
    | _ => false

/-- The data that RESYNC discards (R311): up to the next random access point that begins a complete access unit, or all
of it, save an unfinished access unit that begins at one. Pictures decoded keep their place. -/
def Ctx.resyncCut (x : Ctx) : Ctx × Nat :=
  let done := x.pics.filter (·.decoded)
  let rest := x.pics.filter fun p => !p.decoded
  let kept := (rest.filter fun p => !p.started).dropWhile fun p => !AuKind.isRap p.info.kind
  let gone := (rest.filter fun p => !kept.any (·.num == p.num)).foldl (fun n p => n + p.bytes) 0
  let openGone := kept.isEmpty && !x.openRap
  let n := gone + (if openGone then x.open_ else 0)
  ({ (x.discard n) with
    pics := done.map (fun p => { p with isRef := false }) ++ kept.map fun p => { p with made := false, parsed := false }
    open_ := if openGone then 0 else x.open_
    cutAu := x.cutAu || (openGone && decide (x.open_ ≠ 0)) }, n)

/-- The context becomes OPEN (R311, R327): decoding starts again at a random access point. -/
def Core.reopen (c : Core) (k : Nat) : Core :=
  (c.updCtx k fun x => (({ x with
    state := .opened, event := true, reason := 0, errOff := 0xFFFFFFFF, synced := false, recover := none
    raslSkip := false, force := [], pending := none, resync := none } : Ctx).scan (c.bound k))).prunePics k

/-- Abandons the instances of some pictures of a stream, each with a CHAFF record (R311). -/
def Core.abandonPics (c : Core) (now : Nat) (l : List Inst) : Core := l.foldl (fun c i => c.abandon now 3 i) c

/-- STREAM_RESYNC (R311). With a decode step running, the context becomes OPEN when that step ends. -/
def streamResync (e : Env) (c : Core) : Except Stop (Core × Option Run) := do
  let k := e.word 0
  let x := c.ctx k
  e.owns c k
  need (x.state == .running || x.state == .stopped) (.state (cstateCode x.state))
  need x.resync.isNone .wait
  let cut := x.resyncCut
  let n := min 0xFFFFFFFF cut.2
  let und := c.undecoded k
  let c := c.finishClips e.now 3 fun z => z.ctx == k
  if c.decActive k then
    let cur := x.decoding
    let c := c.abandonPics e.now (und.filter fun i => i.pic.map (·.2) != cur.map (·.num))
    .ok (c.updCtx k fun _ => { cut.1 with pics := cut.1.pics ++ cur.toList.map (fun p => { p with bytes := 0 }), resync := some (e.cmd, n) }, none)
  else
    let c := c.abandonPics e.now und
    let c := c.dropDecodes k fun _ => true
    .ok ((c.updCtx k fun _ => cut.1).reopen k, some (quick n))

def execStreamResync (c : Cmd) (s : State) : Host.Outcome State Fault Refusal :=
  onCoreA (Core.command 0x4003 c streamResync) s

/-- The decode step that a RESYNC waited for has ended: its picture's instances end, the command completes. A context
that is DRAINING by then stays so (Table 11-1). -/
def Core.finishResync (c : Core) (now k : Nat) : Core :=
  let x := c.ctx k
  match x.resync with
  | none => c
  | some (cmd, n) =>
    let c := c.abandonPics now (c.undecoded k)
    let c := c.dropDecodes k fun _ => true
    let c := c.updCtx k fun y => { y with resync := none, pics := y.pics.filter fun p => !(p.started && !p.decoded) }
    let c := if x.state == .draining then c else c.reopen k
    c.completeLate x.queue 0x4003 (bitAt 1 cmd.flags.toNat) { tag := cmd.tag.toNat, status := .ok, tick := now, detail := n }

/-- STREAM_CLOSE (R312): it completes when the context reaches CLOSED. -/
def streamClose (e : Env) (c : Core) : Except Stop (Core × Option Run) := do
  let k := e.word 0
  let x := c.ctx k
  e.owns c k
  need (x.state == .opened || x.state == .running || x.state == .stopped) (.state (cstateCode x.state))
  .ok ((c.drainCtx e.now k).updCtx k fun y => { y with closing := some e.cmd }, none)

def execStreamClose (c : Cmd) (s : State) : Host.Outcome State Fault Refusal :=
  onCoreA (Core.command 0x4004 c streamClose) s

end Sys2Proof.Machine
end

