-- ==== Sys2Proof/Machine/Shape.lean ====
section
/-! DEFINITION. SHAPE (R316 to R326, R330), ROI_SET (R327 to R329) and MOTION_EXPORT (R314, R315). Decoded samples and
motion are free values behind the codec standards (log 12); each value of R321 and R322 is moved by a free error within
its bound (R323, log 11). -/

namespace Sys2Proof.Machine

/-! ### Geometry (R318 to R320) -/

def ratCeil (r : Rat) : Int := -(Rat.floor (-r))

/-- One axis of the source: start, size, output size, ratio. -/
structure Axis where
  start : Int
  size  : Int
  out   : Nat
  ratio : Rat
  deriving DecidableEq, Repr

/-- Resizes an axis about its centre to a ratio (R318). -/
def Axis.resize (a : Axis) (r : Rat) : Axis :=
  let n := ratCeil ((a.out : Rat) * r)
  { a with start := a.start - (n - a.size) / 2, size := n, ratio := r }

/-- Clamps a ratio to 1/8 to 8. -/
def Axis.limit (a : Axis) : Axis :=
  if a.ratio < 1 / 8 then a.resize (1 / 8) else if 8 < a.ratio then a.resize 8 else a

/-- The applied rectangle as two axes (R318). -/
def applied (x0 y0 w h : Int) (ow oh : Nat) (fit : Bool) : Axis × Axis :=
  let ax : Axis := ⟨x0, w, ow, (w : Rat) / (ow : Rat)⟩
  let ay : Axis := ⟨y0, h, oh, (h : Rat) / (oh : Rat)⟩
  let r := max ax.ratio ay.ratio
  let ax := if fit && ax.ratio < r then ax.resize r else ax
  let ay := if fit && ay.ratio < r then ay.resize r else ay
  (ax.limit, ay.limit)

/-- Source position of an output sample (R319). -/
def Axis.at_ (a : Axis) (o : Nat) : Rat := (a.start : Rat) + ((o : Rat) + 1 / 2) * a.ratio - 1 / 2

/-- Boxes of source samples averaged on an axis (R320). -/
def boxOf (r : Rat) : Nat := if r ≤ 2 then 1 else if r ≤ 4 then 2 else 4

/-- sin(pi t) for t in units of 2^-32, as a rational over 2^96, by its series on [-1, 1]. -/
def sinTerms (x2 : Int) : Nat → Nat → Int → Int
  | 0, _, _ => 0
  | n + 1, k, term => term + sinTerms x2 n (k + 2) (-(term * x2 / 2 ^ 96) / ((k + 1) * (k + 2)))

/-- pi in units of 2^-96. -/
def piFix : Int := 248902613312231085230521944622

def sinPi (t : Rat) : Rat :=
  let u := t - 2 * ((Rat.floor ((t + 1) / 2) : Int) : Rat)
  let x := Rat.floor (u * (piFix : Rat))
  ((sinTerms (x * x / 2 ^ 96) 24 1 x : Int) : Rat) / ((2 ^ 96 : Nat) : Rat)

def sinc (t : Rat) : Rat := if t = 0 then 1 else sinPi t / (t * ((piFix : Rat) / ((2 ^ 96 : Nat) : Rat)))

/-- Weights of the sharp filter at a phase, in 1/1,024 (R320). -/
def sharpWeights (c phase : Rat) : List Int :=
  let ws := (List.range 8).map fun (i : Nat) =>
    let d : Rat := ((i : Int) - 3 : Int) - phase
    Rat.floor (c * sinc (c * d) * sinc (d / 4) * 1024 + 1 / 2)
  let near := if phase ≤ 1 / 2 then 3 else 4
  let rest := 1024 - ws.foldl (· + ·) 0
  ws.zipIdx.map fun w => if w.2 == near then w.1 + rest else w.1

/-- Taps of a filter around a position in boxed coordinates: sample and weight (R320). -/
def filterTaps (filter : Nat) (residual x : Rat) : List (Int × Rat) :=
  let i := Rat.floor x
  let f := x - (i : Rat)
  match filter with
  | 0 =>
    let c : Rat := min 1 (1 / residual)
    let phase : Rat := ((Rat.floor (f * 64 + 1 / 2) : Int) : Rat) / 64
    (sharpWeights c phase).zipIdx.map fun w => (i + w.2 - 3, (w.1 : Rat) / 1024)
  | 1 => [(i, 1 - f), (i + 1, f)]
  | _ => [(Rat.floor (x + 1 / 2), 1)]

/-- Samples and weights along one axis of a plane, positions outside taken at the edge (R319, R320). -/
def axisTaps (filter : Nat) (ratio x : Rat) (n : Nat) : List (Nat × Rat) :=
  let f := boxOf ratio
  (filterTaps filter (ratio / (f : Rat)) ((x + 1 / 2) / (f : Rat) - 1 / 2)).flatMap fun t =>
    (List.range f).map fun (k : Nat) =>
      let p : Int := t.1 * f + k
      ((max 0 (min ((n : Int) - 1) p)).toNat, t.2 / (f : Rat))

/-! ### Planes and colour (R320 to R322) -/

/-- A decoded sample of a picture (log 12), within its depth. -/
def planeSample (key : Nat) (p : Pic) (plane x y : Nat) : Nat := Config.sample key p.num plane x y % 2 ^ p.info.depth

/-- A filtered value of a plane. -/
def filtered (key : Nat) (p : Pic) (plane w h filter : Nat) (rx ry x y : Rat) : Rat :=
  let tx := axisTaps filter rx x w
  (axisTaps filter ry y h).foldl (fun acc v =>
    acc + v.2 * tx.foldl (fun a u => a + u.2 * (planeSample key p plane u.1 v.1 : Rat)) 0) 0

/-- Luma position of a chroma sample's origin, in half samples: horizontal and vertical (R320). -/
def siting (kind : Nat) : Rat × Rat :=
  match kind with
  | 1 => (1 / 2, 1 / 2)
  | 2 => (0, 0)
  | _ => (0, 1 / 2)

/-- Siting by the codec (R320): the signalled type 0, 1 or 2 of H.264 and H.265, type 2 or 0 of AV1, type 1 of JPEG. -/
def sitingOf (codec kind : Nat) : Rat × Rat :=
  siting (if codec == 4 then 1 else if codec == 3 && kind != 2 then 0 else kind)

/-- Full range (R321): the format word's, or the stream's. -/
def isFull (range codec : Nat) (a : AuInfo) : Bool :=
  match range with
  | 1 => false
  | 2 => true
  | _ => a.full.getD (codec == 4)

/-- kr and kb of a matrix (Table 12-4). -/
def matrixOf (sel codec code : Nat) : Rat × Rat :=
  let m := if sel != 0 then sel else if codec == 4 || code == 5 || code == 6 then 1 else if code == 9 then 3 else 2
  match m with
  | 1 => (299 / 1000, 114 / 1000)
  | 3 => (2627 / 10000, 593 / 10000)
  | _ => (2126 / 10000, 722 / 10000)

/-- Y', Cb', Cr' at an output sample (R321). -/
def yuvAt (key : Nat) (p : Pic) (codec fw : Nat) (ax ay : Axis) (ox oy : Nat) : Rat × Rat × Rat :=
  let a := p.info
  let x := ax.at_ ox
  let y := ay.at_ oy
  let flt := fw / 64 % 4
  let full := isFull (fw / 16 % 4) codec a
  let s : Rat := (2 ^ (a.depth - 8) : Nat)
  let top : Rat := (2 ^ a.depth - 1 : Nat)
  let lum := filtered key p 0 a.width a.height flt ax.ratio ay.ratio x y
  let chroma (pl : Nat) : Rat :=
    if a.mono then 0
    else
      let o := sitingOf codec a.chroma
      let v := filtered key p pl ((a.width + 1) / 2) ((a.height + 1) / 2) flt (ax.ratio / 2) (ay.ratio / 2)
        ((x - o.1) / 2) ((y - o.2) / 2)
      if full then (v - (2 ^ (a.depth - 1) : Nat)) / top else (v - 128 * s) / (224 * s)
  (if full then lum / top else (lum - 16 * s) / (219 * s), chroma 1, chroma 2)

/-- Clamps to [0, 1] in units of 2^-20. -/
def unit20 (v : Int) : Int := max 0 (min (2 ^ 20) v)

/-- Channel values of an output sample in 2^-20: the formulas, moved by a free error of less than 2^-10 (R322, R323). -/
def channelsAt (draw : Nat) (key : Nat) (p : Pic) (codec fw : Nat) (ax ay : Axis) (slot ox oy : Nat) : List Int :=
  let v := yuvAt key p codec fw ax ay ox oy
  let k := matrixOf (fw / 4 % 4) codec p.info.matrix
  let r := v.1 + 2 * (1 - k.1) * v.2.2
  let b := v.1 + 2 * (1 - k.2) * v.2.1
  let g := (v.1 - k.1 * r - k.2 * b) / (1 - k.1 - k.2)
  let q (c : Nat) (x : Rat) : Int :=
    Rat.floor (x * (2 ^ 20 : Nat) + 1 / 2) + max (-1023) (min 1023 (Config.shapeErr draw c (slot * 4096 + ox) oy))
  match fw % 4 with
  | 0 => [q 0 v.1]
  | 1 => [q 0 v.1, q 1 v.2.1, q 2 v.2.2]
  | 2 => [unit20 (q 0 r), unit20 (q 1 g), unit20 (q 2 b)]
  | _ => [unit20 (q 0 b), unit20 (q 1 g), unit20 (q 2 r)]

/-! ### SHAPE -/

/-- The picture that created the instance (R317): none of it makes the command MALFORMED; it is due once decoded. -/
def Env.picture (e : Env) (c : Core) : Except Stop (Nat × Pic) :=
  match e.inst.bind (·.pic) with
  | none => .error .malformed
  | some x =>
    match (c.ctx x.1).pics.find? (·.num == x.2) with
    | none => .error .malformed
    | some p => if p.decoded then .ok (x.1, p) else .error .wait

/-- Source rectangles of the slots (R317, R330). -/
def shapeRects (e : Env) (x : Ctx) (p : Pic) (cap : Nat) : List (Int × Int × Int × Int) :=
  match e.sub with
  | 0 => [(0, 0, (p.info.width : Int), (p.info.height : Int))]
  | 1 => [(signed 16 (e.word 3 % 65536), signed 16 (e.word 3 / 65536), ((e.word 4 % 65536 : Nat) : Int), ((e.word 4 / 65536 : Nat) : Int))]
  | _ => ((x.force.drop (e.word 3)).take cap).map fun r => (r.1, r.2.1, r.2.2.1 - r.1, r.2.2.2 - r.2.1)

/-- Steps and ns of the shaping of `slots` slots (R324), at the output rate. -/
def shapeTime (ow oh slots : Nat) : Nat × Nat :=
  let rows := max 1 (358400 / max 1 ow)
  let k := slots * ceilDiv oh rows
  (k, (slots * ow * oh + 3) / 4 + 200 * k)

/-- Bytes that the shaping of one picture reads (R324): per step the source of its rows, 4f samples wider on each side
and cut to the picture, at the stream's compressed ratio plus 10 %; nothing where every output sample is a pad. -/
def shapeReads (x : Ctx) (p : Pic) (ow oh : Nat) (app : List (Axis × Axis)) : Nat :=
  let rows := max 1 (358400 / max 1 ow)
  let span (a : Axis) (o1 o2 n : Nat) : Nat :=
    let f := 4 * (boxOf a.ratio : Int)
    let lo := max 0 (Rat.floor ((a.start : Rat) + (o1 : Rat) * a.ratio) - f)
    let hi := min (n : Int) (ratCeil ((a.start : Rat) + (o2 : Rat) * a.ratio) + f)
    (hi - lo).toNat
  let meets (a : Axis) (o1 o2 n : Nat) : Bool :=
    (List.range (o2 - o1)).any fun i => decide (0 ≤ a.at_ (o1 + i)) && decide (a.at_ (o1 + i) < (n : Rat))
  let area := app.foldl (fun s a => (List.range (ceilDiv oh rows)).foldl (fun s k =>
    let r1 := k * rows
    let r2 := min oh (r1 + rows)
    if meets a.1 0 ow p.info.width && meets a.2 r1 r2 p.info.height then
      s + span a.1 0 ow p.info.width * span a.2 r1 r2 p.info.height
    else s) s) 0
  let bytes : Rat := ((area * (if 8 < p.info.depth then 2 else 1) : Nat) : Rat) * (if p.info.mono then 1 else 3 / 2)
  (Rat.floor (bytes * x.compress * 11 / 10)).toNat

/-- The steps of a SHAPE that reads `reads` bytes of reference store at a DRAM rate in bytes per µs (R324). -/
def shapePiece (rate fw ow oh slots reads : Nat) : Piece :=
  let t := shapeTime ow oh slots
  let n := max 1 t.1
  let ns (r : Nat) : Nat := max (ceilDiv t.2 n) (ceilDiv (1000 * ceilDiv reads n) (max 1 r) + 200)
  .even 2 n (ns rate) (ns 493000) [(if fw % 4 < 2 then 32 else 33, slots * ow * oh), (25, reads)] [(0, reads)]

def shapeRun (e : Env) (c : Core) : Except Stop Run := do
  e.ready c
  let d ← e.arg c 0
  let par ← e.arg c 1
  let rects ← e.optArg c (e.sub == 2 && e.flag 4) 5
  let kp ← e.picture c
  let x := c.ctx kp.1
  let p := kp.2
  let y := d.view
  let ow := dim y.dims 1
  let oh := dim y.dims 2
  let cap := if e.sub == 2 then dim y.dims 3 else 1
  let P (i : Nat) : FVal := par.view.real 0 i
  let u8 := isU y.dtype
  let qs := P 6
  let qz := P 7
  let zp := (qz.toInt false).getD 256
  need (!u8 || (qs.isFin && !qs.isZero && !qs.isNeg && qz.isFin && qz.floor == qz.ceil && decide (0 ≤ zp) && decide (zp ≤ 255)))
    .malformed
  let fw := e.word 2
  let src := shapeRects e x p cap
  let app := src.map fun r => applied r.1 r.2.1 r.2.2.1 r.2.2.2 ow oh (bitAt 8 fw)
  let code (ch : Nat) (v : Int) : Nat :=
    let t := mul32 e.mode (sub32 e.mode (.fin (decide (v < 0)) v.natAbs (-20)) (P ch)) (P (3 + ch))
    if u8 then quantCode 1 e.mode qs zp.toNat t else ((fmtOf y.dtype).conv e.mode t).1
  let pad := if u8 then zp.toNat else 0
  let inside (ax ay : Axis) (ox oy : Nat) : Bool :=
    decide (0 ≤ ax.at_ ox) && decide (ax.at_ ox < (p.info.width : Rat)) && decide (0 ≤ ay.at_ oy) &&
      decide (ay.at_ oy < (p.info.height : Rat))
  let rows := (List.range (cap * oh * ow)).map fun i =>
    let slot := i / (ow * oh)
    let oy := i / ow % oh
    let ox := i % ow
    match app[slot]? with
    | some a =>
      if inside a.1 a.2 ox oy then (channelsAt e.draw x.key p x.codec fw a.1 a.2 slot ox oy).zipIdx.map fun v => code v.2 v.1
      else List.replicate y.d0 pad
    | none => List.replicate y.d0 pad
  let w : Written :=
    { data := packRows y.dtype rows
      rowS := if u8 then some ((List.range y.rows).flatMap fun _ => rowEntry (code32 qs) zp.toNat false) else none }
  let m := src.length
  let ro := match rects with
    | some r => [r.whole (ints ((List.range cap).flatMap fun i =>
        match app[i]? with
        | some a => [a.1.start, a.2.start, a.1.start + a.1.size, a.2.start + a.2.size].map (unsigned 32)
        | none => List.replicate 4 0xFFFFFFFF))]
    | none => []
  let r : Run :=
    { outs := e.outs c d w ++ ro, scalar := if e.sub == 2 then e.scalar (BitVec.ofNat 64 m) else none
      status := emptyIf (e.sub == 2 && m == 0), pieces := [shapePiece (e.dramRate c) fw ow oh cap (shapeReads x p ow oh app)] }
  .ok (r.reading [par] false)

def execShape (c : Cmd) (s : State) : Host.Outcome State Fault Refusal :=
  onCoreA (Core.command 0x4005 c (runOnly shapeRun)) s

/-! ### ROI_SET -/

/-- A region as an integer rectangle (R328); none where it is dropped. -/
def regionOf (l : List FVal) : Option (Int × Int × Int × Int) :=
  let clampC (v : Int) : Int := max (-8192) (min 16384 v)
  let g (i : Nat) : FVal := l.getD i .nan
  if l.any fun v => !v.isFin then none
  else
    let x0 := clampC (g 0).floor
    let y0 := clampC (g 1).floor
    let x1 := clampC (g 2).ceil
    let y1 := clampC (g 3).ceil
    if x1 ≤ x0 || y1 ≤ y0 then none else some (x0, y0, x1, y1)

def roiRun (e : Env) (c : Core) : Except Stop Run := do
  e.ready c
  let b ← match e.inst.bind (·.binding) with
    | some b => .ok b
    | none => .error .malformed
  let pic ← match e.inst.bind (·.pic) with
    | some p => .ok p
    | none => .error .malformed
  let cost := [(20, 1, 0)]
  if e.sub == 1 then .ok { post := .regions pic.1 pic.2 b [], costs := cost }
  else
    let a ← e.arg c 0
    need (a.view.dtype == 0xD && a.view.dims.length == 2 && a.view.d0 == 4 && decide (a.view.rows ≤ 64)) .malformed
    let n ← e.resolve 1 a.view.rows
    let rs := (List.range n).filterMap fun i => regionOf ((List.range 4).map (a.view.real i))
    .ok ({ ({ post := .regions pic.1 pic.2 b rs, costs := cost, status := emptyIf rs.isEmpty
              counts := { nonfinite := n - rs.length } } : Run) with detail := 0 }.reading [a] false)

def execRoiSet (c : Cmd) (s : State) : Host.Outcome State Fault Refusal :=
  onCoreA (Core.command 0x4006 c (runOnly roiRun)) s

/-! ### MOTION_EXPORT -/

/-- Channels of one cell: the MV tensor's and the statistics tensor's (Table 11-9), as exact integers. -/
def motionCell (key codec : Nat) (pic g x y : Nat) : List Int × List Int :=
  let raw (t ch : Nat) : Int := Config.motion key pic t g ch x y
  let mode := if codec == 4 then 0 else (raw 1 0).natAbs % 4
  let k : Int := if codec == 3 then 1 else 2
  let mv := (List.range 4).map fun ch =>
    if mode == 0 || (mode == 1 && 2 ≤ ch) then 0 else k * raw 0 ch
  (mv, [(mode : Int), raw 1 1, ((raw 1 2).natAbs : Int), if mode == 0 then 0 else raw 1 3])

/-- The steps of a MOTION_EXPORT on a grid of `g` (R316), charged in one of the instances of the picture (R307). -/
def motionPiece (w h g : Nat) (mine : Bool) : Piece :=
  let area := ceilDiv (w * h) 4096
  let n := ceilDiv (ceilDiv h g) (max 1 (49400 * 256 / (g * w)))
  let ns := ceilDiv ((16 * area + 600 * n) * 5) (3 * n)
  .even 1 n ns ns (if mine then [(31, area)] else []) []

def motionRun (e : Env) (c : Core) : Except Stop Run := do
  e.ready c
  let a ← e.arg c 0
  let b ← e.arg c 1
  let kp ← e.picture c
  let x := c.ctx kp.1
  let p := kp.2
  let g := 8 * 2 ^ e.sub
  let cw := ceilDiv p.info.width g
  let chh := ceilDiv p.info.height g
  need (a.view.dtype == 0xF && b.view.dtype == 0xF && a.view.dims == [4, cw, chh] && b.view.dims == a.view.dims) .malformed
  let cells := (List.range (cw * chh)).map fun i => motionCell x.key x.codec p.num g (i % cw) (i / cw)
  let enc (l : List Int) : List (Int × Bool) := l.map (clampI (-32768) 32767)
  let put (ls : List (List Int)) : List Byte := ls.flatMap fun l => (enc l).flatMap fun v => leBytes 2 (unsigned 16 v.1)
  let sats (ls : List (List Int)) : Nat := ls.foldl (fun n l => n + ((enc l).filter (·.2)).length) 0
  let mv := cells.map (·.1)
  let st := cells.map (·.2)
  -- one decoded picture serves every binding; the lowest binding number is charged (R307)
  let mine := c.insts.all fun i => i.pic != (e.inst.bind (·.pic)) || decide ((e.inst.bind (·.binding)).getD 0 ≤ i.binding.getD 0)
  let r : Run :=
    { outs := [a.whole (put mv), b.whole (put st)], counts := { sat := sats mv + sats st }
      pieces := [motionPiece p.info.width p.info.height g mine] }
  .ok r

def execMotionExport (c : Cmd) (s : State) : Host.Outcome State Fault Refusal :=
  onCoreA (Core.command 0x4009 c (runOnly motionRun)) s

end Sys2Proof.Machine
end

