-- ==== Sys2Proof/Machine/Clips.lean ====
section
/-! DEFINITION. CLIP_BEGIN and CLIP_END (R334 to R337). -/

namespace Sys2Proof.Machine

/-- A signed 16-bit field. -/
def s16 (v lo : Nat) : Int := signed 16 (v / 2 ^ lo % 65536)
def u16 (v lo : Nat) : Nat := v / 2 ^ lo % 65536

/-- The clip that CLIP_BEGIN's operands describe (Tables 13-2, 13-3). -/
def clipOf (e : Env) (i : Inst) (b : Nat) (p : Nat × Pic) (event : List Byte) : Clip :=
  let w := e.word 0
  { key := e.draw, binding := b, prog := handleOf e.part i.prog, lc := i.lc, part := e.part, queue := i.queue, ctx := p.1, codec := w % 4
    quality := w / 256 % 256, frames := w / 2 ^ 20 % 1024 + 1, stride := w / 65536 % 16 + 1
    x0 := s16 (e.nat 1) 0, y0 := s16 (e.nat 1) 16, w := u16 (e.nat 2) 0, h := u16 (e.nat 2) 16
    addr := e.nat 3, cap := e.nat 4, event := event, ten := p.2.info.depth == 10
    firstPic := p.2.num, lastPoc := p.2.info.poc, nextCons := p.2.num + (w / 65536 % 16 + 1), taken := [p.2.num] }

/-- Ranges of Tables 13-2 and 13-3, and the floor total within CAP (R339). -/
def Clip.inRange (k : Clip) : Bool :=
  (k.codec == 1 || k.codec == 2) && (k.codec == 2 || decide (k.quality ≤ 51)) &&
    k.x0 % 2 == 0 && k.y0 % 2 == 0 && decide (64 ≤ k.w) && decide (k.w ≤ 3840) && decide (64 ≤ k.h) && decide (k.h ≤ 2160) &&
    k.w % 2 == 0 && k.h % 2 == 0 && k.addr % 64 == 0 && decide (65536 ≤ k.cap) && decide (k.cap ≤ 4194304) &&
    decide (k.floorTotal ≤ k.cap)

/-- The instance, its binding and its picture: a clip command in an INVOKE instance is MALFORMED. -/
def Env.clipSide (e : Env) (c : Core) : Except Stop (Inst × Nat × Nat × Pic) :=
  match e.inst with
  | none => .error .malformed
  | some i =>
    match i.binding, i.pic with
    | some b, some x =>
      .ok (i, b, x.1, ((c.ctx x.1).pics.find? (·.num == x.2)).getD { num := x.2, bytes := 0, info := {}, ready := 0 })
    | _, _ => .error .malformed

/-- The run of a command that is charged the FIXED coefficient of the mover copy entry alone. -/
def fixedOnly : Run := { costs := [(20, 1, 0)] }

/-- CLIP_BEGIN (R335). -/
def clipBegin (e : Env) (c : Core) : Except Stop (Core × Option Run) := do
  e.ready c
  let x ← e.clipSide c
  let a ← e.arg c 5
  need (isBytes a.desc.dtype && a.desc.rank == 1 && decide (a.view.d0 ≤ 4032)) .malformed
  need (!a.lost) (.fail .dataLost none)
  let k := clipOf e x.1 x.2.1 (x.2.2.1, x.2.2.2) (Memory.read a.view.data 0 a.view.d0)
  need k.inRange .malformed
  e.window c true k.addr k.cap
  need (!(c.clips.any (·.binding == x.2.1))) (.state 0x35)
  need (decide (c.clips.length < 64)) (.state 0x37)
  .ok ({ c with clips := c.clips ++ [k] }, some fixedOnly)

def execClipBegin (c : Cmd) (s : State) : Host.Outcome State Fault Refusal :=
  onCoreA (Core.command 0x4007 c clipBegin) s

/-- CLIP_END (R336): pictures taken up to the instance's own are still coded; with none left the clip ends at once. -/
def clipEnd (e : Env) (c : Core) : Except Stop (Core × Option Run) := do
  e.deps c
  let x ← e.clipSide c
  match c.clips.find? (·.binding == x.2.1) with
  | none => .error (.state 0x36)
  | some k =>
    let num := x.2.2.2.num
    let num := min num (k.lastPic.getD num)
    let k' := { k with lastPic := some num, taken := k.taken.filter fun p => decide (p ≤ num) }
    let c := { c with clips := listSet c.clips (·.binding == x.2.1) fun _ => k' }
    let c := if k'.cur.isNone && k'.taken.isEmpty then c.finishClip e.now 1 k' else c
    .ok (c, some fixedOnly)

def execClipEnd (c : Cmd) (s : State) : Host.Outcome State Fault Refusal :=
  onCoreA (Core.command 0x4008 c clipEnd) s

end Sys2Proof.Machine
end

