-- ==== Sys2Proof/Machine/Adaptation.lean ====
section
/-! DEFINITION. Adapting models: CACHE_PUT, EPOCH_BEGIN, BATCH_DRAW, OPTIM_STEP and GRAFT (R343 to R359). -/

namespace Sys2Proof.Machine

/-- `n` transfers of `bytes` bytes each between a scratchpad and DRAM (Table 9-6): the DRAM leg at a rate, then the
scratchpad-and-granary leg at 256,000 bytes per µs, its 24 ac and the rounding of its bytes to whole ac. -/
def dramMoves (rate n bytes : Nat) (wr : Bool) : Piece :=
  let b := n * bytes
  transfer 4 b (400 + 96 + 4) (max 1 (rate * 256000 / (rate + 256000))) (493000 * 256000 / (493000 + 256000))
    [(20, b), (23, b), (24, b), (if wr then 26 else 25, b)] [(0, b)]

/-! ### CACHE_PUT -/

/-- A tensor has the type, rank and dimensions of a cache's samples, with row scales (R346, Table 14-3). -/
def Cache.takes (k : Cache) (a : Arg) : Bool :=
  a.desc.dtype == k.dtype && a.view.dims == k.dims && a.desc.rowH != 0

/-- CACHE_PUT (R346): the target slot is chosen when the put commits. -/
def cachePut (e : Env) (c : Core) : Except Stop Run := do
  e.ready c
  let ix := e.word 0
  let k := c.cache e.part ix
  let a ← e.arg c 1
  let l ← e.optArg c (e.flag 4) 2
  need (k.used && k.takes a &&
    l.all fun x => isBytes x.desc.dtype && x.desc.rank == 1 && x.view.d0 == k.labelB) .malformed
  let pic := (e.inst.bind (·.pic)).getD (0xFFFF, 0)
  let bytes := a.view.bytes
  let s : Slot :=
    { idx := 0, codes := Memory.write [] 0 (Memory.read a.view.data 0 bytes)
      scales := if a.view.hasRow then Memory.write [] 0 ((List.range a.view.rows).flatMap a.view.scaleEntry) else []
      label := match l with
        | some x => Memory.write [] 0 (Memory.read x.view.data 0 k.labelB)
        | none => []
      ctx := pic.1, dnum := pic.2, tick := e.now, put := 0, pseudo := e.flag 5, labelled := e.flag 4, damaged := false
      bad := false, inst := (e.inst.map (·.id)).getD 0, target := 0 }
  let r : Run := { post := .put ix s }
  .ok ({ r with pieces := [dramMoves (e.dramRate c) 1 k.slotSize true] }.reading (a :: optLost l) false)

def execCachePut (c : Cmd) (s : State) : Host.Outcome State Fault Refusal :=
  onCoreA (Core.command 0x5001 c (runOnly cachePut)) s

/-! ### EPOCH_BEGIN -/

/-- A cache descriptor within Table 14-2 (R344). -/
def cacheDesc (l : List Byte) : Option Cache :=
  let t := leAt l 0 1
  let rank := leAt l 1 1
  let label := leAt l 2 2
  let dims := (List.range 4).map fun i => leAt l (4 + 4 * i) 4
  let cap := leAt l 20 4
  let policy := leAt l 24 1
  let rq := leAt l 26 2
  let k : Cache :=
    { used := true, dtype := t, rank := rank, labelB := label, dims := dims.take rank, cap := cap, fifo := policy == 1
      resultQ := rq, seed := leAt l 28 8 }
  if isU t && 1 ≤ rank && rank ≤ 4 && label ≤ 4096 && ((List.range 4).all fun i =>
        if i < rank then decide (1 ≤ dim dims i) else dim dims i == 0) &&
      1 ≤ cap && cap ≤ 1048576 && policy ≤ 1 && (rq < 4096 || rq == 0xFFFF) && zeroAt l 25 26 && zeroAt l 36 64 &&
      k.rows * rowBytes t (dim k.dims 0) ≤ 4194304 then some k else none

/-- CONFIGURE (R344). -/
def epochConfigure (e : Env) (c : Core) : Except Stop (Core × Option Run) := do
  let l ← e.hostRead c (e.long 1) 64
  match cacheDesc l with
  | none => .error .malformed
  | some k =>
    need (k.resultQ == 0xFFFF || (c.q k.resultQ).func == (c.part e.part).owner) .malformed
    need (!(c.cache e.part (e.word 0)).used) (.state 0x38)
    .ok (c.updCache e.part (e.word 0) fun _ => k, some (quick 0))

/-- A draw of a cache that has started and not ended. -/
def Core.drawing (c : Core) (part ix : Nat) : Bool :=
  c.runs.any fun r => r.op == 0x5003 && r.part == part && r.cmd.w0.toNat % 4 == ix

/-- Moves that closing a cache makes (R348). -/
def Cache.moves (k : Cache) : Nat :=
  let n := k.slots.length + ((k.pend.map (·.target)).dedup.filter fun t => !k.slots.any (·.idx == t)).length
  k.pend.length + (k.slots.filter fun s => decide (n ≤ s.idx)).length

/-- Opens an epoch over the samples held; one of no samples closes at once (R348, R349). -/
def Core.openEpoch (c : Core) (now part ix number : Nat) : Core :=
  let c := c.updCache part ix fun k =>
    { k with isOpen := true, epoch := number, nextEpoch := (number + 1) % 2 ^ 31, n := k.slots.length, cursor := 0 }
  if (c.cache part ix).n == 0 then c.closeEpoch now part ix else c

/-- BEGIN (R348). -/
def epochBegin (e : Env) (c : Core) : Except Stop (Core × Option Run) := do
  e.deps c
  let ix := e.word 0
  let k := c.cache e.part ix
  let v := e.int 1
  need (k.used && decide (v < 2 ^ 31)) .malformed
  need (!c.drawing e.part ix) .wait
  let number := if v < 0 then k.nextEpoch else v.toNat
  let r : Run := {}
  let r := if !k.isOpen || k.moves == 0 then quick 0 else { r with pieces := [dramMoves (e.dramRate c) k.moves k.slotSize true] }
  .ok ((c.closeEpoch e.now e.part ix).openEpoch e.now e.part ix number, some r)

/-- DESTROY (Table 14-1): an open epoch closes, then the cache and its segments go. -/
def epochDestroy (e : Env) (c : Core) : Except Stop (Core × Option Run) := do
  need (c.cache e.part (e.word 0)).used .malformed
  .ok ((c.closeEpoch e.now e.part (e.word 0)).updCache e.part (e.word 0) fun _ => {}, some (quick 0))

/-- What an EPOCH_BEGIN does, by its sub-operation. -/
def epochCmd (e : Env) (c : Core) : Except Stop (Core × Option Run) :=
  if e.sub == 0 then epochConfigure e c else if e.sub == 1 then epochBegin e c else epochDestroy e c

def execEpochBegin (c : Cmd) (s : State) : Host.Outcome State Fault Refusal := onCoreA (Core.command 0x5002 c epochCmd) s

/-! ### BATCH_DRAW -/

/-- What a batch slot holds: the sample of a slot of the epoch, or nothing (R350, R351). -/
structure Drawn where
  slot : Option Slot
  /-- The slot drawn, when the draw met a corrupt or damaged sample. -/
  evict : Option Slot
  deriving DecidableEq, Repr

/-- Batch slot `i` (R350, R351). -/
def Cache.drawSlot (k : Cache) (keys : List Nat) (i : Nat) : Drawn :=
  if k.isOpen && decide (k.cursor + i < k.n) then
    match k.slots.find? (·.idx == perm keys k.n (k.cursor + i)) with
    | none => { slot := none, evict := none }
    | some s => if s.damaged || s.bad then { slot := none, evict := some s } else { slot := some s, evict := none }
  else { slot := none, evict := none }

/-- The cache after a draw of `b` positions. -/
def Cache.drew (k : Cache) (b : Nat) (ds : List Drawn) : Cache :=
  let bad := ds.filterMap (·.evict)
  let dam := (bad.filter (·.damaged)).length
  if k.isOpen then
    { k with
      cursor := k.cursor + b
      drawn := satAdd 0xFFFFFFFF k.drawn (min b (k.n - k.cursor))
      valid := satAdd 0xFFFFFFFF k.valid (ds.filter (·.slot.isSome)).length
      damaged := satAdd 0xFFFFFFFF k.damaged dam
      corrupt := satAdd 0xFFFFFFFF k.corrupt (bad.length - dam)
      slots := k.slots.filter fun s => !bad.any (·.idx == s.idx) }
  else k

/-- Bytes of a batch: what `f` takes from the sample of each slot, or what a masked slot holds. -/
def batchBytes (ds : List Drawn) (n : Nat) (f : Slot → Memory) (masked : List Byte) : List Byte :=
  ds.flatMap fun d =>
    match d.slot with
    | some s => Memory.read (f s) 0 n
    | none => masked

/-- An output that replaces the first bytes of a copy. -/
def Arg.first (a : Arg) (data : List Byte) : Out :=
  { part := a.buf.part, buf := a.buf.num, key := a.key, data := Memory.write a.view.data 0 data
    whole := decide (a.view.bytes ≤ data.length), words := wordsIn 0 data.length }

/-- BATCH_DRAW (R350, R351). Positions are taken here, where the command starts. -/
def batchDraw (e : Env) (c : Core) : Except Stop (Core × Option Run) := do
  e.ready c
  let ix := e.word 0
  let k := c.cache e.part ix
  let x ← e.arg c 1
  let l ← e.arg c 2
  let m ← e.arg c 3
  let o ← e.optArg c (e.flag 4) 5
  let b := dim x.view.dims k.rank
  need (k.used && x.desc.dtype == k.dtype && x.view.dims == k.dims ++ [b] && x.desc.rowH != 0 && decide (b ≤ 4096) &&
    isBytes l.desc.dtype && l.view.dims == [k.labelB, b] && isBytes m.desc.dtype && m.desc.rank == 1 &&
    decide ((b + 7) / 8 ≤ m.view.d0) && o.all fun z => z.desc.dtype == 0xE && z.view.dims == [b]) .malformed
  let keys := epochKeys k.seed k.epoch
  let ds := (List.range b).map (k.drawSlot keys)
  let n := k.rows * rowBytes k.dtype (dim k.dims 0)
  let blank := (List.range k.rows).flatMap fun _ => rowEntry 0x3F800000 0 false
  let scales := batchBytes ds (8 * k.rows) (·.scales) blank
  let outs := [x.whole (batchBytes ds n (·.codes) (zeros n)),
      e.sideOut c x.desc.rowH x.view.rowS scales,
      l.whole (batchBytes ds k.labelB (·.label) (zeros k.labelB)),
      m.first (packBits (ds.map (·.slot.isSome)))] ++
    (o.map fun z => z.whole (ds.flatMap fun d => leBytes 4 ((d.slot.map (·.idx)).getD 0xFFFFFFFF))).toList
  let valid := (ds.filter (·.slot.isSome)).length
  let r : Run :=
    { outs := outs, status := emptyIf (!k.isOpen || decide (k.n ≤ k.cursor)), scalar := e.scalar (BitVec.ofNat 64 valid) }
  let c := c.updCache e.part ix fun k => k.drew b ds
  let c := if k.isOpen && decide (k.n ≤ k.cursor + b) then c.closeEpoch e.now e.part ix else c
  .ok (c, some { r with pieces := [dramMoves (e.dramRate c) b k.slotSize false] })

def execBatchDraw (c : Cmd) (s : State) : Host.Outcome State Fault Refusal :=
  onCoreA (Core.command 0x5003 c batchDraw) s

/-! ### OPTIM_STEP -/

/-- Parameters of Table 14-5. -/
structure OptPar where
  lr : FVal
  b1 : FVal
  b2 : FVal
  eps : FVal
  lam : FVal
  gscale : FVal
  clip : FVal
  deriving DecidableEq, Repr

/-- Refusals of R353. -/
def OptPar.ok (p : OptPar) : Bool :=
  let fin := [p.lr, p.b1, p.b2, p.eps, p.lam, p.gscale, p.clip].all FVal.isFin
  let unit (v : FVal) : Bool := FVal.le .zero v && FVal.lt v .one
  fin && FVal.le .zero p.lr && FVal.le .zero p.eps && unit p.b1 && unit p.b2

/-- b to the power t, rounded once (R352). -/
def powR (mode : Bool) (b : FVal) (t : Nat) : FVal :=
  match b with
  | .fin s m e => r32 mode (.fin (s && t % 2 == 1) (m ^ t) (e * t))
  | v => v

/-- The normalised gradient of an element (R352). -/
def optGrad (mode : Bool) (p : OptPar) (n : Nat) (g : FVal) : FVal := div32 mode (mul32 mode g p.gscale) (r32 mode (.ofInt n))

/-- Clipping (R352). -/
def optClip (p : OptPar) (g : FVal) : FVal :=
  if FVal.lt .zero p.clip then FVal.min (FVal.max g p.clip.neg) p.clip else g

/-- One element: w, m, v and the normalised gradient to w, m, v (R352). `c1` and `c2` are the bias corrections. -/
def optElem (mode adam : Bool) (p : OptPar) (c1 c2 : FVal) (w m v g : FVal) : FVal × FVal × FVal :=
  let mul := mul32 mode
  let add := add32 mode
  if adam then
    let g := optClip p g
    let m := add (mul p.b1 m) (mul (sub32 mode .one p.b1) g)
    let v := add (mul p.b2 v) (mul (mul (sub32 mode .one p.b2) g) g)
    let den := add (sqrt32 mode (div32 mode v c2)) p.eps
    let d := add (div32 mode (div32 mode m c1) den) (mul p.lam w)
    (sub32 mode w (mul p.lr d), m, v)
  else
    let g := optClip p (add g (mul p.lam w))
    let m := add (mul p.b1 m) g
    (sub32 mode w (mul p.lr m), m, v)

/-- Bytes of an FP32 tensor from its elements. -/
def fp32Bytes (l : List FVal) : List Byte := l.flatMap fun v => leBytes 4 (code32 v)

/-- The time of an OPTIM_STEP (R354). -/
def optimTime (adam : Bool) (w : View) : VecTime :=
  { entry := 16, rows := w.rows, w := if adam then 9 else 5, d0 := w.d0, head := 24 }

/-- OPTIM_STEP (R352 to R354). -/
def optimStep (e : Env) (c : Core) : Except Stop Run := do
  e.ready c
  let w ← e.arg c 0
  let g ← e.arg c 1
  let st ← e.arg c 2
  let cp ← e.arg c 4
  let pa ← e.arg c 5
  let adam := e.sub == 1
  let dims := w.view.dims
  need (w.desc.dtype == 0xD && w.buf.kind == 1 && decide (w.desc.rank ≤ 4) && (g.desc.dtype == 0xD || g.desc.dtype == 0xB) &&
    g.view.dims == dims && st.desc.dtype == 0xD && st.view.dims == dims ++ [if adam then 2 else 1] &&
    cp.desc.dtype == 0xB && cp.buf.kind == 1 && cp.view.dims == dims && pa.desc.dtype == 0xD && pa.view.dims == [8] &&
    !c.isView e.part cp.desc.handle && !c.isView e.part w.desc.handle) .malformed
  let n := e.int 3
  need (n != 0) (.fail .zeroShape none)
  let v (i : Nat) : FVal := pa.view.val 0 i
  let p : OptPar := ⟨v 0, v 1, v 2, v 3, v 4, v 5, v 6⟩
  need (decide (0 < n) && p.ok) .malformed
  let mode := e.mode
  let cnt := w.view.count
  let d0 := w.view.d0
  let rows := w.view.rows
  let gs := (List.range cnt).map fun i => optGrad mode p n.toNat (g.view.val (i / d0) (i % d0))
  let t := w.buf.steps + 1
  let skip := !gs.all FVal.isFin
  let c1 := sub32 mode .one (powR mode p.b1 t)
  let c2 := sub32 mode .one (powR mode p.b2 t)
  let es := gs.zipIdx.map fun x =>
    let r := x.2 / d0
    let j := x.2 % d0
    optElem mode adam p c1 c2 (w.view.val r j) (st.view.val r j) (if adam then st.view.val (rows + r) j else .zero) x.1
  let keep (a : Arg) : Out := { a.whole [] with data := a.view.data }
  let outs := if skip then [keep w, keep st, keep cp] else
    [w.whole (fp32Bytes (es.map (·.1))),
     st.whole (fp32Bytes (es.map (·.2.1)) ++ if adam then fp32Bytes (es.map (·.2.2)) else []),
     cp.whole (es.flatMap fun x => leBytes 2 (fBF16.conv mode x.1).1)]
  let r : Run :=
    { outs := outs, counts := if skip then { nonfinite := 1, skipped := 1 } else {}
      post := if skip then .none else .optim w.buf.num t false }
  .ok ((r.vector (optimTime adam w.view)).reading [w, g, st, pa] false)

def execOptimStep (c : Cmd) (s : State) : Host.Outcome State Fault Refusal :=
  onCoreA (Core.command 0x5004 c (runOnly optimStep)) s

/-! ### GRAFT -/

/-- The buffer behind each handle of a table entry: shared BF16 WEIGHT of rank 2 (R355). -/
def Core.viewBufs (c : Core) (part : Nat) (e : Nat × Nat × Nat × Nat) : Except Stop (List Buffer) :=
  [e.1, e.2.1, e.2.2.1, e.2.2.2].mapM fun h =>
    if handlePart h != part then .error (.violation 1 h)
    else match c.buf? part (handleNum h) with
      | some b => .ok b
      | none => .error .malformed

/-- What R355 asks of an entry's buffers. -/
def viewOk (l : List Buffer) : Bool :=
  match l with
  | [] => false
  | b :: r =>
    let lo := min (dim b.desc.dims 0) (dim b.desc.dims 1)
    b.kind == 1 && b.desc.dtype == 0xB && b.desc.rank == 2 && b.desc.scope == 0 && decide (4 ≤ lo) && decide (lo ≤ 64) &&
      r.all fun x => x.kind == 1 && x.desc == b.desc

/-- DEFINE (R355). -/
def graftDefine (e : Env) (c : Core) : Except Stop (Core × Option Run) := do
  let ix := e.word 0 % 8
  let count := e.word 3
  let tau := f32 (e.word 4)
  need (decide (1 ≤ count) && decide (count ≤ 128) && tau.isFin && FVal.le .zero tau &&
    (decide (e.word 5 < 4096) || e.word 5 == 0xFFFF)) .malformed
  let l ← e.hostRead c (e.long 1) (16 * count)
  let es := (List.range count).map fun i => (leAt l (16 * i) 4, leAt l (16 * i + 4) 4, leAt l (16 * i + 8) 4, leAt l (16 * i + 12) 4)
  let bs ← es.mapM (c.viewBufs e.part)
  need (bs.all viewOk) .malformed
  need (!(c.adapter e.part ix).used) (.state 0x38)
  .ok (c.updAdapter e.part ix fun _ =>
    { used := true, up := bitAt 8 (e.word 0), tau := e.word 4, resultQ := e.word 5, entries := es, names := es },
    some (quick 0))

/-- An unfinished instance other than the command's own reads one of some buffers through a view (R358). -/
def Env.viewRead (e : Env) (c : Core) (hs : List Nat) : Bool :=
  c.insts.any fun i => i.part == e.part && (e.inst.map (·.id)) != some i.id &&
    i.views.any fun v => hs.contains v.2 &&
      match c.prog? i.part i.prog with
      | some p => p.bufs.contains (handleNum v.1)
      | none => false

/-- A COMMIT of an adapter is running. -/
def Core.committing (c : Core) (part ix : Nat) : Bool :=
  c.runs.any fun r => r.part == part && match r.post with
    | .commitView a _ => a == ix
    | _ => false

/-- COMMIT (Table 14-6, R358): the staged buffers are copied into those that have the CANDIDATE role. -/
def graftCommit (e : Env) (c : Core) : Except Stop (Core × Option Run) := do
  e.deps c
  let ix := e.word 0
  let a := c.adapter e.part ix
  need a.used (.state 0x3A)
  need a.swap.isNone (.state 0x3D)
  need (!c.committing e.part ix && !e.viewRead c (a.entries.map (·.2.2.1))) .wait
  let v := a.top + 1
  let outs := a.entries.map fun x =>
    ({ part := e.part, buf := handleNum x.2.2.1, key := .shared, whole := true
       data := (c.copy e.part (handleNum x.1) .shared).data } : Out)
  let lost := a.entries.any fun x => !(c.copy e.part (handleNum x.1) .shared).lost.isEmpty
  let bytes := a.entries.foldl (fun n x => n + ((c.buf? e.part (handleNum x.1)).map (·.desc.capacity)).getD 0) 0
  let r : Run :=
    { outs := outs, post := .commitView ix v, detail := if e.inst.isNone then v else 0
      ins := a.entries.map fun x => handleNum x.1
      scalar := if e.inst.isSome then e.scalar (BitVec.ofNat 64 v) else none
      status := if lost then .dataLost else .ok }
  .ok (c, some (r.mover bytes 256 (16 * a.entries.length) 20))

/-- The adapter that a GRAFT or EVALUATE names and the version, after the refusals of R356. -/
def Env.graftAt (e : Env) (c : Core) : Except Stop (Adapter × Nat) := do
  e.deps c
  let a := c.adapter e.part (e.word 0)
  need a.used (.state 0x3A)
  need a.swap.isNone (.state 0x3D)
  let v := e.nat 1
  need (decide (v ≤ a.top)) (.state 0x3B)
  need (v == a.live || a.cand == some v || a.prev == some v) (.state 0x3C)
  .ok (a, v)

/-- A swap that waits for its boundary (R358): the command stays in flight until then. -/
def Core.swapAt (c : Core) (e : Env) (v : Nat) (metric : Option Nat) : Core × Option Run :=
  let swap : Swap := { version := v, byEval := metric, op := e.op, src := e.cmd.src, cmd := e.cmd }
  (c.updAdapter e.part (e.word 0) fun a => { a with swap := some swap },
    some { waits := true, detail := if e.inst.isSome then 0 else if metric.isSome then v + 2 ^ 31 else 0 })

/-- GRAFT (Table 14-6): naming the live version has no effect. -/
def graftSwap (e : Env) (c : Core) : Except Stop (Core × Option Run) := do
  let x ← e.graftAt c
  if x.2 == x.1.live then .ok (c, some (quick 0)) else .ok (c.swapAt e x.2 none)

/-- The candidate improves on the live version (R357), compared exactly. -/
def improves (up : Bool) (tau l m : Nat) : Bool :=
  let d := if up then (f32 m).sub (f32 l) else (f32 l).sub (f32 m)
  FVal.le (f32 tau) d

/-- EVALUATE (R357). Of the live version it records the metric; of the previous one it has no effect that the manual
gives. -/
def graftEval (e : Env) (c : Core) : Except Stop (Core × Option Run) := do
  let x ← e.graftAt c
  let m := e.nat 2 % 2 ^ 32
  let ix := e.word 0
  let low := quick (if e.inst.isSome then 0 else x.2)
  if x.1.cand == some x.2 then
    match x.1.liveMetric with
    | none => .error (.state 0x3E)
    | some l =>
      if improves x.1.up x.1.tau l m then .ok (c.swapAt e x.2 (some m))
      else
        let c := c.updAdapter e.part ix fun a => { a with cand := none, candMetric := none }
        .ok (c.statsRec e.now x.1.resultQ e.part ((c.adapter e.part ix).stats ix 1 m ((c.part e.part).health.skipped)), some low)
  else if x.2 == x.1.live then
    .ok (c.updAdapter e.part ix fun a => { a with liveMetric := some m }, some low)
  else .ok (c, some low)

/-- What a GRAFT does, by its sub-operation. -/
def graftCmd (e : Env) (c : Core) : Except Stop (Core × Option Run) :=
  if e.sub == 0 then graftDefine e c else if e.sub == 1 then graftCommit e c
  else if e.sub == 2 then graftSwap e c else graftEval e c

def execGraft (c : Cmd) (s : State) : Host.Outcome State Fault Refusal := onCoreA (Core.command 0x5005 c graftCmd) s

/-- The boundary makes the swap that waits on an adapter, when its command is still in flight (R358), with its record
(R359). -/
def Core.swapNow (c : Core) (now part ix : Nat) : Core :=
  let a := c.adapter part ix
  match a.swap with
  | none => c
  | some w =>
    let c := c.updAdapter part ix fun x => { x with swap := none }
    match c.runs.find? fun r => r.op == 0x5005 && r.cmd == w.cmd && r.src == w.src && r.part == part && r.waits with
    | none => c
    | some r =>
      let graft := a.cand == some w.version
      let metric := if graft then (w.byEval.orElse fun _ => a.candMetric) else none
      let c := c.updAdapter part ix fun x =>
        if graft then { x with candMetric := metric }.graft else x.rollback
      let dec := if !graft then 3 else if w.byEval.isSome then 0 else 2
      let c := c.statsRec now a.resultQ part
        ((c.adapter part ix).stats ix dec (metric.getD 0) ((c.part part).health.skipped))
      c.endRun now r

end Sys2Proof.Machine
end

