-- ==== Sys2Proof/Machine/ChainOps.lean ====
section
/-! DEFINITION. Shared operations of the links: sending under credits (R418), routes (R429, R435), messages and replies
(R423), and commands that see more of the machine than the core. -/

namespace Sys2Proof.Machine

/-! ### Commands over the whole machine -/

def State.amb (s : State) : Amb := ⟨s.tick.count, s.led.coefNow, s.led.imgNow⟩

/-- As `Core.command`, for a command whose rules see the whole machine: with no entry of Control's left (R21) none takes effect that
would complete later. -/
def State.command (op : Nat) (cmd : Cmd) (f : State → Env → Except Stop (State × Option Run)) (s : State) :
    Host.Outcome State Fault Refusal :=
  match s.core.atHand s.tick.count op cmd with
  | none => .next s
  | some e =>
    match (do s.core.gate e; f s e) with
    | .error .wait => .next s
    | .error (.fail st d) => .next { s with core := ((s.core.take e).readEnded e st).stopCmd s.amb e st d }
    | .error (.violation k v) => .next { s with core := (s.core.take e).violate s.amb e k v }
    | .ok (t, r) =>
      match r with
      | some r => .next { t with core := (t.core.take e).launch t.amb e r }
      | none => .next (if s.core.controlFull then s else { t with core := (t.core.take e).defer e })

/-- Completes a command of queue 0 that took effect earlier. -/
def Core.doneLate (c : Core) (now op : Nat) (cmd : Cmd) (st : Status) (detail : Nat) : Core :=
  c.completeLate 0 op (bitAt 1 cmd.flags.toNat) { tag := cmd.tag.toNat, status := st, tick := now, detail := detail }

/-! ### Ports -/

def Link.port (l : Link) (p : Nat) : Port := Tab.get {} l.ports p
def Link.updPort (l : Link) (p : Nat) (f : Port → Port) : Link := { l with ports := Tab.upd {} l.ports p f }

/-- Credits of an empty receiver, by class TICK, SEAM, BULK, MGMT (Table 18-2). -/
def fullCredits : List Nat := [4, 768, 256, 64]

/-- Order of strict class priority: TICK, MGMT, SEAM, BULK (R418). -/
def clsRank (cls : Nat) : Nat := if cls == 0 then 0 else if cls == 3 then 1 else cls + 1

/-- Sends a flit that has a credit: into the replay buffer with the next SEQ. -/
def Port.emit (p : Port) (f : Flit) : Port :=
  { p with
    replay := p.replay ++ [{ f with seq := p.sendSeq }]
    sendSeq := (p.sendSeq + 1) % 65536
    credits := p.credits.set f.cls (p.credits.getD f.cls 0 - 1) }

/-- A flit may leave: its class has credit, the replay buffer has room. -/
def Port.mayEmit (p : Port) (f : Flit) : Bool := decide (0 < p.credits.getD f.cls 0) && decide (p.replay.length < 1024)

/-- Hands a flit to a port (R418): sent, held for want of credit behind earlier ones of its class, or discarded at a
port that is not up (R436). -/
def Port.send (p : Port) (f : Flit) : Port :=
  if p.state != 2 then { p with downDrop := satAdd 0xFFFFFFFF p.downDrop 1 }
  else if p.mayEmit f && !p.held.any (·.cls == f.cls) then p.emit f
  else { p with held := p.held ++ [f] }

/-- The held flit that leaves next: of the highest class that has credit, the oldest (R418). -/
def Port.nextHeld (p : Port) : Option Flit :=
  ([0, 3, 1, 2].filterMap fun c => p.held.find? fun f => f.cls == c).find? p.mayEmit

/-- Sends held flits while credit lasts. -/
def Port.drain : Nat → Port → Port
  | 0, p => p
  | n + 1, p =>
    match p.nextHeld with
    | none => p
    | some f => Port.drain n { (p.emit f) with held := p.held.erase f }

/-- Up ports. -/
def Link.upPorts (l : Link) : List Nat := (List.range 6).filter fun p => (l.port p).state == 2

/-! ### Routes and messages -/

def Link.route (l : Link) (dest : Nat) : Option Route := l.table.routes.find? (·.dest == dest)

/-- Port that R435 selects for a destination: the primary one, or the alternate one after a reroute. -/
def Route.port (r : Route) : Nat := if r.onAlt then r.alt else r.prim

/-- Sends a flit towards its destination, or to every up port but `from_`, or discards it (R429). -/
def Link.launch (l : Link) (from_ : Option Nat) (f : Flit) : Link :=
  if f.dest == 0xFFFF then
    (l.upPorts.filter fun p => from_ != some p).foldl (fun l p => l.updPort p fun x => x.send f) l
  else
    match l.route f.dest with
    | some r => l.updPort r.port fun x => x.send f
    | none => { l with noroute := satAdd 0xFFFFFFFF l.noroute 1 }

/-- A destination answers on its port, or no port leads there. -/
def Link.portTo (l : Link) (dest : Nat) : Nat := ((l.route dest).map Route.port).getD 0xFF

/-- Payload whose content no rule gives: a free value of 1 to 232 bytes. -/
def freeBytes (draw : Nat) : List Byte :=
  (List.range (1 + Config.freeNat draw 0 % 232)).map fun i => BitVec.ofNat 8 (Config.freeNat draw (i + 1))

/-- One MGMT flit of this module, its payload free (log 27). -/
def State.mgmtFlit (s : State) (dest unit : Nat) : Flit :=
  { dest := dest, src := s.link.table.id, unit := unit, cls := 3, first := true, last := true, window := 0
    epoch := Config.freeNat s.core.free 300 % 65536, seq := 0, offset := 0, data := freeBytes s.core.free }

/-- Sends a MGMT message that is to be answered (R423). -/
def State.sendNow (s : State) (dest unit : Nat) (what : SentFor) : State :=
  let l := s.link.launch none (s.mgmtFlit dest unit)
  { s with
    core := { s.core with free := s.core.free + 1 }
    link := { l with
      nextMsg := l.nextMsg + 1
      sent := l.sent ++ [{ id := l.nextMsg, port := l.portTo dest, what := what, tick := s.tick.count }] } }

/-- A port has an entry of the in-flight tracker left for a message (Table 1-5). -/
def Link.portRoom (l : Link) (dest : Nat) : Bool :=
  decide ((l.sent.filter (·.port == l.portTo dest)).length < (Source.link (l.portTo dest)).entries)

/-- A message waits where its port's entries are all in use (R21). -/
def State.sendMgmt (s : State) (dest unit : Nat) (what : SentFor) : State :=
  if s.link.portRoom dest then s.sendNow dest unit what
  else { s with link := { s.link with held := s.link.held ++ [(dest, unit, what)] } }

/-- Messages that waited go out as entries come free, in their order. -/
def State.sendHeld (s : State) : State :=
  s.link.held.foldl (fun s m => s.sendMgmt m.1 m.2.1 m.2.2) { s with link := { s.link with held := [] } }

/-- Members hear of grants that are released or taken back: in which message, no rule says (DESIGN CHOICE, log 37). -/
def State.tellMembers (s : State) : State :=
  s.core.untold.foldl (fun s m => s.sendMgmt m 0x20 .none) { s with core := { s.core with untold := [] } }

/-- Answers a message (R422, R423). -/
def State.reply (s : State) (dest id : Nat) (r : Reply) : State :=
  let l := s.link.launch none (s.mgmtFlit dest 0x20)
  { s with
    core := { s.core with free := s.core.free + 1 }
    link := { l with replies := l.replies ++ [(id, r)] } }

/-- Broadcasts a notice of this module in the MGMT class; a notice is not answered (R436, R467). -/
def State.broadcast (s : State) : State :=
  { s with
    core := { s.core with free := s.core.free + 1 }
    link := s.link.launch none (s.mgmtFlit 0xFFFF 0x20) }

end Sys2Proof.Machine
end

