-- ==== Sys2Proof/Machine/Partition.lean ====
section
/-! DEFINITION. PART_CREATE, PART_LIMITS and PART_DESTROY (R273 to R281, R499, R500). -/

namespace Sys2Proof.Machine

/-! ### Descriptors -/

/-- A member entry of Table 10-2: module ID, tillers, granary, DRAM; none where it is out of range. -/
def memberEntry (l : List Byte) : Option (Nat × Nat × Nat × Nat) :=
  let id := leAt l 0 2
  let t := leAt l 2 1
  let g := leAt l 4 2
  let d := leAt l 8 4
  if 1 ≤ id && id ≤ 0xFFFE && 1 ≤ t && t ≤ 16 && 4 * t ≤ g && g ≤ 960 && d ≤ 63488 && zeroAt l 3 4 && zeroAt l 6 8 &&
      zeroAt l 12 16 then some (id, t, g, d) else none

/-- A partition descriptor within Tables 10-1 and 10-2: its 64-byte head and its member entries. -/
def partDesc (l : List Byte) (ms : List (List Byte)) : Option Grants :=
  let g : Grants :=
    { tillers := leAt l 0 1, pfCopy := bitAt 0 (leAt l 1 1), healthQ := leAt l 2 2, resMw := leAt l 4 4
      granary := leAt l 8 2, dram := leAt l 12 4, decode := leAt l 16 1, shaping := leAt l 17 1, clip := leAt l 18 1
      dramShare := leAt l 19 1, link := leAt l 20 1, hostDma := leAt l 21 1, glMw := leAt l 24 4
      members := ms.filterMap memberEntry }
  if leAt l 1 1 / 2 == 0 && 1 ≤ g.tillers && g.tillers ≤ 16 && (g.healthQ < 4096 || g.healthQ == 0xFFFF) &&
      g.resMw ≤ 250000 && 4 * g.tillers ≤ g.granary && g.granary ≤ 960 && g.dram ≤ 63488 &&
      ([g.decode, g.shaping, g.clip, g.dramShare, g.link, g.hostDma].all fun x => decide (x ≤ 250)) &&
      g.glMw ≤ 250000 && leAt l 22 1 ≤ 15 && zeroAt l 10 12 && zeroAt l 23 24 && zeroAt l 28 64 &&
      ms.all fun m => (memberEntry m).isSome then some g else none

/-- The descriptor of a command in host memory, its windows checked. -/
def Env.partDesc (e : Env) (c : Core) : Except Stop (Option Grants) := do
  let a := e.long 0
  let l ← e.hostRead c a 64
  let n := leAt l 22 1
  let m ← e.hostRead c (a + 64) (16 * min n 15)
  .ok (Machine.partDesc l ((List.range (min n 15)).map fun i => (m.drop (16 * i)).take 16))

/-! ### What is free -/

/-- A partition whose grants count against the module totals: one that is not EMPTY, or is being created. -/
def Part.counts (p : Part) : Bool := p.state != .empty || p.creating.isSome

/-- The larger of the old and the new value of a grant, while a PART_LIMITS is pending (R499). -/
def Part.larger (p : Part) (f : Grants → Nat) : Nat :=
  match p.pend with
  | some x => max (f p.grants) (f x.grants)
  | none => f p.grants

/-- Sum of a grant over the partitions other than `k` (R273, R499). -/
def Core.others (c : Core) (k : Nat) (f : Grants → Nat) : Nat :=
  c.parts.foldl (fun n e => if e.1 != k && e.2.counts then n + e.2.larger f else n) 0

/-- Tillers in service that no partition holds and none has reserved, lowest first (R275, R280). -/
def Core.freeTillers (c : Core) : List Nat :=
  (List.range 16).filter fun t => !c.retired.contains t &&
    !c.parts.any fun e => e.2.tillers.contains t || match e.2.pend with
      | some x => x.tillers.contains t
      | none => false

/-- Contract of a strap code in watts (Table 3-1). -/
def strapW (code : Nat) : Nat := if code == 1 then 150 else if code == 2 then 250 else 75

/-- Module totals of Table 10-1 with the codes of R277: a grant, its total. -/
def grantTotals (strap : Nat) : List (Nat × (Grants → Nat) × Nat) :=
  [(2, (·.granary), 960), (3, (·.dram), 63488), (4, (·.resMw), 900 * strapW strap), (5, (·.decode), 250),
   (6, (·.shaping), 250), (7, (·.clip), 250), (8, (·.dramShare), 250), (9, (·.link), 250), (10, (·.hostDma), 250)]

/-- Code of the first resource short (R277): `held` tillers belong to the partition already. -/
def Core.short (c : Core) (strap k held : Nat) (old new : Grants) : Option Nat :=
  if held + c.freeTillers.length < new.tillers then some 1
  else
    ((grantTotals strap).find? fun x => decide (x.2.2 < c.others k x.2.1 + max (x.2.1 old) (x.2.1 new))).map (·.1)

/-! ### Checks of R277 -/

/-- MALFORMED cases: ranges, reserved fields, the health queue, the members' routes. -/
def partRange (s : State) (e : Env) (g : Option Grants) : Except Stop Grants :=
  let fn := e.word 2 / 256 % 32
  match g with
  | none => .error .malformed
  | some g => do
    need (decide (fn ≤ 16) &&
      (g.healthQ == 0xFFFF || g.healthQ == 0 || (s.core.q g.healthQ).func == fn) &&
      g.members.all fun m => (s.link.route m.1).isSome) .malformed
    .ok g

/-- OVER_BUDGET with the code of the first resource short, and the member's index for code 11. -/
def Env.overBudget (e : Env) (code member : Nat) : Stop := .fail .overBudget (some (e.op * 65536 + member * 256 + code))

/-- A chain without a master gives no member a partition (R430). -/
def State.masterless (s : State) (g : Grants) : Bool := !g.members.isEmpty && s.link.master == 0

/-- Asks the members of a partition for its grants (R278). -/
def State.askMembers (s : State) (k : Nat) (g : Grants) : State :=
  g.members.zipIdx.foldl (fun s m => s.sendMgmt m.1.1 0x20 (.grant k m.2)) s

/-! ### PART_CREATE -/

/-- PART_CREATE (R276 to R278): every grant is taken at once; with members the command waits for them. A second one of the partition
meanwhile completes with STATE, detail 0x12 for LOADING (DESIGN CHOICE, log 52). -/
def partCreate (s : State) (e : Env) : Except Stop (State × Option Run) := do
  let k := e.word 2 % 16
  let fn := e.word 2 / 256 % 32
  let d ← e.partDesc s.core
  let g ← partRange s e d
  let p := s.core.part k
  need (s.core.mstate == .ready || s.core.mstate == .serving) (.state (mstateCode s.core.mstate))
  need (p.state == .empty && p.creating.isNone) (.state (if p.state == .empty then pstateCode .loading else pstateCode p.state))
  need (fn == 0 || !s.core.parts.any fun x => x.2.owner == fn && x.2.counts && x.2.lead.isNone) (.state 0x33)
  need (!s.masterless g) (.state 0x43)
  match s.core.short s.led.strap k 0 {} g with
  | some code => .error (e.overBudget code 0)
  | none =>
    let p : Part := { owner := fn, grants := g, tillers := s.core.freeTillers.take g.tillers }
    if g.members.isEmpty then
      .ok ({ s with core := s.core.updPart k fun _ => { p with state := .loading } }, some (quick k))
    else
      let s := { s with core := s.core.updPart k fun _ => { p with creating := some (e.cmd, List.range g.members.length) } }
      .ok (s.askMembers k g, none)

def execPartCreate (c : Cmd) (s : State) : Host.Outcome State Fault Refusal := State.command 0x7001 c partCreate s

/-- Every member has granted: the partition is LOADING (R278). -/
def Core.createDone (c : Core) (now k : Nat) : Core :=
  match (c.part k).creating with
  | some (cmd, []) =>
    (c.updPart k fun p => { p with state := .loading, creating := none }).doneLate now 0x7001 cmd .ok k
  | _ => c

/-- The members of a partition are to hear of a change of its grants. -/
def Core.tell (c : Core) (g : Grants) : Core := { c with untold := c.untold ++ g.members.map (·.1) }

/-- A member refused, or did not answer in time: every grant is released, on the members too (R278). -/
def Core.createFailed (c : Core) (now k member : Nat) : Core :=
  match (c.part k).creating with
  | some (cmd, _) =>
    ((c.tell (c.part k).grants).updPart k fun _ => {}).doneLate now 0x7001 cmd .overBudget (0x7001 * 65536 + member * 256 + 11)
  | none => c

/-! ### PART_LIMITS -/

/-- PART_LIMITS (R279, R280): the changes take effect at the boundary that starts tick current + 2. -/
def partLimits (s : State) (e : Env) : Except Stop (State × Option Run) := do
  let k := e.word 2 % 16
  let d ← e.partDesc s.core
  let g ← partRange s e d
  let p := s.core.part k
  need (g.members.map (·.1) == p.grants.members.map (·.1) || p.state == .empty) .malformed
  need (e.word 2 / 256 % 32 == p.owner || p.state == .empty) .malformed
  need (p.state == .loading || p.state == .resident || p.state == .active) (.state (pstateCode p.state))
  need (p.pend.isNone) (.state 0x34)
  need (!(decide (g.dram < p.grants.dram) && decide (g.dram < s.core.dramUse k 0)) &&
    !(decide (g.granary < p.grants.granary) && decide (g.granary < s.core.granaryUnits k))) (.state 0x32)
  need (!s.masterless g) (.state 0x43)
  match s.core.short s.led.strap k p.tillers.length p.grants g with
  | some code => .error (e.overBudget code 0)
  | none =>
    let x : PendLimits :=
      { grants := g, effTick := e.now + 2, cmd := some e.cmd
        tillers := s.core.freeTillers.take (g.tillers - p.tillers.length)
        leaving := (sortBy (fun a b => decide (a ≤ b)) p.tillers).drop g.tillers
        members := List.range g.members.length }
    let s := { s with core := s.core.updPart k fun p => { p with pend := some x } }
    .ok (s.askMembers k g, none)

def execPartLimits (c : Cmd) (s : State) : Host.Outcome State Fault Refusal := State.command 0x7007 c partLimits s

/-- Completes a PART_LIMITS, on the module that has one to complete. -/
def Core.doneLimits (c : Core) (now : Nat) (cmd : Option Cmd) (st : Status) (detail : Nat) : Core :=
  match cmd with
  | some x => c.doneLate now 0x7007 x st detail
  | none => c

/-- A member refused the new grants of a PART_LIMITS: it has no effect on any module (R277). -/
def Core.limitsFailed (c : Core) (now k member : Nat) : Core :=
  match (c.part k).pend with
  | some x =>
    ((c.tell x.grants).updPart k fun p => { p with pend := none }).doneLimits now x.cmd .overBudget (0x7007 * 65536 + member * 256 + 11)
  | none => c

/-- The boundary that starts `tick`: grants and added tillers come into effect; tillers in `moved` that leave are
released; the command completes once nothing is left to change (R280). -/
def Core.limitsAt (c : Core) (tick k : Nat) (moved : List Nat) : Core :=
  match (c.part k).pend with
  | none => c
  | some x =>
    if tick < x.effTick || !x.members.isEmpty then c
    else
      let c := if x.applied then c else c.updPart k fun p => { p with grants := x.grants, tillers := p.tillers ++ x.tillers }
      let gone := x.leaving.filter moved.contains
      let rest := x.leaving.filter fun t => !moved.contains t
      let c := c.updPart k fun p => { p with
        tillers := p.tillers.filter fun t => !gone.contains t
        pend := if rest.isEmpty then none else some { x with tillers := [], leaving := rest, applied := true } }
      if rest.isEmpty then c.doneLimits tick x.cmd .ok (tick % 2 ^ 32) else c

/-! ### PART_DESTROY -/

/-- Ends what a partition does (R118, R296, R341, R500). An instance that a sealed sheaf has admitted goes on being planned at later
builds until it ends (DESIGN CHOICE, log 52). -/
def Core.drainPart (c : Core) (now k : Nat) : Core :=
  let c := match (c.part k).pend with
    | some x => ((c.tell x.grants).updPart k fun p => { p with pend := none }).doneLimits now x.cmd .state (pstateCode .draining)
    | none => c
  let c := c.updPart k fun p => { p with state := .draining }
  let c := { c with bindings := c.bindings.map fun (b : Binding) => if b.part == k then { b with ending := true } else b }
  let c := (c.insts.filter fun i => i.part == k && !i.admitted).foldl (fun c i => c.abandon now 2 i) c
  let c := c.finishClips now 5 fun x => x.part == k
  ((c.ctxs.filter fun x => x.2.part == k).foldl (fun c x => c.drainCtx now x.1) c).settleM

/-- PART_DESTROY (R281): it completes when the partition reaches EMPTY. -/
def partDestroy (e : Env) (c : Core) : Except Stop (Core × Option Run) := do
  let k := e.word 0
  let p := c.part k
  need (p.state == .loading || p.state == .resident || p.state == .active) (.state (pstateCode p.state))
  .ok ((c.drainPart e.now k).updPart k fun p => { p with destroying := some e.cmd }, none)

/-- The members of a spanned partition hear at once of a PART_LIMITS that it cancels (R500). -/
def partDestroyAll (s : State) (e : Env) : Except Stop (State × Option Run) := do
  let x ← partDestroy e s.core
  .ok (({ s with core := x.1 } : State).tellMembers, x.2)

def execPartDestroy (c : Cmd) (s : State) : Host.Outcome State Fault Refusal := State.command 0x7002 c partDestroyAll s

/-- A queue becomes DISABLED at once (R80): what was fetched and not started goes with it. -/
def Queue.off (e : Queue) : Queue :=
  { e with state := .disabled, draining := false, enable := false, fetched := [], waiting := [], reserved := 0
           refetch := false, partGone := false }

/-- A run that keeps a partition from EMPTY: not one that a frozen queue holds and no sealed sheaf has admitted, of which no step
runs or will (R118, R121). -/
def Core.keeps (c : Core) (r : Run) : Bool :=
  r.admitted || !r.active.isEmpty || !r.ofRing r.queue || (c.q r.queue).state != .frozen

/-- A DRAINING partition with nothing left reaches EMPTY at a boundary: buffers, programs, bindings and counters are
released, its queues become DISABLED (R118), one that is frozen at its THAW (R122), with what it holds; its members release theirs
(R281). -/
def Core.emptyPart (c : Core) (now k : Nat) : Core :=
  let p := c.part k
  if p.state != .draining || (c.runs.any fun r => r.part == k && c.keeps r) || c.insts.any (·.part == k) then c
  else
    let c := { c with
      buffers := c.buffers.filter (·.part != k), copies := c.copies.filter (·.part != k)
      programs := c.programs.filter (·.part != k), bindings := c.bindings.filter (·.part != k) }
    let c := (c.dropBlocks fun p _ => p == k).tell p.grants
    let c : Core := { c with runs := c.runs.map fun (r : Run) => if r.part == k then { r with outs := [], post := Post.none } else r }
    let c := match p.destroying with
      | some cmd => c.doneLate now 0x7002 cmd .ok 0
      | none => c
    let c := c.updPart k fun _ => {}
    { c with qs := Tab.mapAll {} c.qs fun _ q =>
      if q.part != k || q.state == .disabled then q else if q.state == .frozen then { q with partGone := true } else q.off }

end Sys2Proof.Machine
end

