-- ==== Sys2Proof/Machine/Mending.lean ====
section
/-! DEFINITION. Mending: the log and its causes (R441, R455), scrubbing (R442, R443), self-test and darning (R205 to
R207, R444 to R446), retirement (R209, R447, R448), flash read-verify (R449), MEND_START and MEND_STATUS (R450 to
R453). -/

namespace Sys2Proof.Machine

/-! ### The log -/

/-- A mending log entry, Table 19-4. -/
structure LogEntry where
  kind   : Nat
  tier   : Nat
  part   : Nat := 0xFF
  unit   : Nat := 0xFF
  array  : Nat := 0xFFFF
  row    : Nat := 0xFFFF
  handle : Nat := 0
  line   : Nat := 0xFFFFFFFF
  deriving DecidableEq, Repr

def LogEntry.bytes (e : LogEntry) (tick : Nat) : List Byte :=
  leBytes 1 e.kind ++ leBytes 1 e.tier ++ leBytes 1 e.part ++ leBytes 1 e.unit ++ leBytes 2 e.array ++ leBytes 2 e.row ++
    leBytes 8 tick ++ leBytes 4 e.handle ++ leBytes 4 e.line ++ zeros 8

/-- Cause bit of an entry (Table 19-7): 0 an uncorrectable error or a lost copy, 1 arrays, 2 retirement, 3 flash. -/
def LogEntry.bit (e : LogEntry) : Nat :=
  if e.kind == 1 || e.kind == 7 then 0 else if e.kind == 6 then 2 else if e.kind == 8 then 3 else 1

/-- Sets a bit of MND_CAUSE; one that becomes 1 sends a message (R455). -/
def State.mendBit (s : State) (b : Nat) : State :=
  if bitAt b s.mend.cause then s
  else { s with mend := { s.mend with cause := s.mend.cause + 2 ^ b }, core := s.core.msg 0 s.mend.vec }

/-- Writes an entry to the mending log (R455). -/
def State.mendLog (s : State) (e : LogEntry) : State :=
  let full := decide (64 ≤ s.mend.logCount)
  let s := { s with mend := { s.mend with
    log := Tab.set [] s.mend.log (s.mend.logCount % 64) (e.bytes s.tick.count)
    logCount := s.mend.logCount + 1
    logLost := if full then satAdd 0xFFFF s.mend.logLost 1 else s.mend.logLost } }
  (if full then s.mendBit 4 else s).mendBit e.bit

/-- The copy that an error lies in. -/
def ErrAt.key (w : ErrAt) : CopyKey :=
  match w.inst, w.copy with
  | some i, _ => .inst i
  | none, some b => .binding b
  | none, none => .shared

/-- A held write with a word in error is dropped from the emit buffer (Table 19-1). -/
def Core.loseHeld (c : Core) (k : Nat) : Core :=
  match c.host.held[k]? with
  | none => c
  | some h => (c.updHost fun x => { x with held := x.held.eraseIdx k }).dropPost h.cpl

/-- A word in error stays in error until it is written (R440): it is lost in the copy that holds it, in DRAM with its half of the line, or
its slot fails its check (R351). A held write is dropped. -/
def Core.markLost (c : Core) (tier : Nat) (w : ErrAt) : Core :=
  if w.part == 16 then c.loseHeld w.line
  else if w.buf == 0 then
    c.updCache w.part (w.copy.getD 0) fun k => { k with slots := listSet k.slots (·.idx == w.line) fun x => { x with bad := true } }
  else
    match c.buf? w.part w.buf with
    | none => c
    | some _ =>
      let x := c.copy w.part w.buf (ErrAt.key w)
      let k := 8 * w.line + w.word % 8
      c.setCopy { x with lost := (x.lost ++ if tier == 2 then (List.range 4).map (· + k / 4 * 4) else [k]).dedup }

/-- Logs an uncorrectable error once per word and tick (R441). -/
def State.logError (s : State) (tier unit : Nat) (w : Option ErrAt) : State :=
  match w with
  | none => s.mendLog { kind := 1, tier := tier, unit := unit }
  | some w =>
    let s := { s with core := s.core.markLost tier w }
    if w.part == 16 then s.mendLog { kind := 1, tier := tier, unit := unit }
    else if s.mend.logged.contains w then s
    else
      let s := { s with mend := { s.mend with logged := s.mend.logged ++ [w] } }
      s.mendLog { kind := 1, tier := tier, unit := unit, part := w.part
                  handle := if w.buf == 0 then 0 else handleOf w.part w.buf, line := w.line }

/-- Tier of Table 19-4. -/
def tierNo : Tier → Nat
  | .scratchpad => 0 | .granary => 1 | .dram => 2 | .internal => 3 | .register => 4

/-- Counts words corrected (R213, R439). -/
def Mend.fixed (m : Mend) (f : Fixed) : Mend :=
  { m with
    ceSp := satAdd 0xFFFFFFFF m.ceSp f.sp, ceGrn := satAdd 0xFFFFFFFF m.ceGrn f.grn
    ceInt := satAdd 0xFFFFFFFF m.ceInt f.inner, ceReg := satAdd 0xFFFFFFFF m.ceReg f.reg }

/-- Counts `k` words that could not be corrected (MND_UE); those of DRAM are counted by its controllers. -/
def Mend.lostWords (m : Mend) (t : Tier) (k : Nat) : Mend :=
  match t with
  | .scratchpad => { m with ueSp := satAdd 255 m.ueSp k }
  | .granary => { m with ueGrn := satAdd 255 m.ueGrn k }
  | .internal => { m with ueInt := satAdd 255 m.ueInt k }
  | .register => { m with ueReg := satAdd 255 m.ueReg k }
  | .dram => m

/-! ### Arrays -/

/-- Key of physical array `p` of tiller `t` (R208). -/
def arrKey (t p : Nat) : Nat := 66 * t + p
def Mend.arr (m : Mend) (t p : Nat) : Arr := Tab.get {} m.arrs (arrKey t p)
def Mend.updArr (m : Mend) (t p : Nat) (f : Arr → Arr) : Mend := { m with arrs := Tab.upd {} m.arrs (arrKey t p) f }

/-- Idle, usable spare arrays of a tiller, lowest first. -/
def Mend.spares (m : Mend) (t : Nat) : List Nat :=
  (List.range 66).filter fun p => (m.arr t p).state == 1 && (m.arr t p).bad.isEmpty && m.testing != some (t, p)

def Mend.failedArrays (m : Mend) (t : Nat) : Nat := ((List.range 66).filter fun p => (m.arr t p).state == 2).length

/-- A darning by the spare row is possible: the row is good and unused (R205). -/
def Arr.rowFree (a : Arr) : Bool := !a.skew && !a.srBad

/-- An array whose stationary block failed parity is left idle and tested ahead of the rotation (R445). -/
def Mend.queueTest (m : Mend) (t p : Nat) : Mend :=
  { m with
    ahead := if m.ahead.contains (t, p) then m.ahead else m.ahead ++ [(t, p)]
    parity := if m.parity.contains (t, p) then m.parity else m.parity ++ [(t, p)] }

/-- An array of a tiller has a darning due. -/
def Mend.darnDue (m : Mend) (t : Nat) : Bool :=
  (List.range 66).any fun p => (m.arr t p).state != 2 && (!(m.arr t p).bad.isEmpty || (m.arr t p).whole)

/-- The tiller is to retire: fewer than 64 arrays can serve (R209). -/
def Mend.retire (m : Mend) (t : Nat) : Mend :=
  if m.retiring.contains t then m else { m with retiring := m.retiring ++ [t] }

/-- A repaired array has nothing due. -/
def Arr.clear (a : Arr) : Arr := { a with bad := [], whole := false, idle := false }

/-- Entry of a darning. -/
def State.arrEntry (s : State) (kind t p row : Nat) : LogEntry :=
  { kind := kind, tier := 5, part := ((s.core.parts.find? fun e => e.2.tillers.contains t).map (·.1)).getD 0xFF, unit := t
    array := p, row := row }

/-- The blocks of a logical array are dropped (R207). -/
def Core.dropArray (c : Core) (t a : Nat) : Core :=
  { c with cells := c.cells.filter fun x => x.1 / 4 != 64 * t + a }

/-- Darns a whole array: a spare takes its slot, or none is left and the array is out of service (R206, R446). -/
def State.darnWhole (s : State) (t p : Nat) : State :=
  let a := s.mend.arr t p
  let m := s.mend.updArr t p fun x => { x.clear with state := 2 }
  let s := if a.state == 0 then { s with core := s.core.dropArray t a.slot } else s
  if a.state == 1 then { s with mend := m }.mendLog (s.arrEntry 5 t p 0xFFFF)
  else
    match s.mend.spares t with
    | k :: _ =>
      { s with mend := m.updArr t k fun x => { x with state := 0, slot := a.slot } }.mendLog (s.arrEntry 4 t p 0xFFFF)
    | [] => { s with mend := m.retire t }.mendLog (s.arrEntry 5 t p 0xFFFF)

/-- Darns an idle array in the order of R446: by its spare row, by a spare array, or out of service. -/
def State.darn (s : State) (t p : Nat) : State :=
  let a := s.mend.arr t p
  match a.bad, a.whole with
  | [r], false =>
    if a.rowFree && decide (r < 32) then
      let s := if a.state == 0 then { s with core := s.core.dropArray t a.slot } else s
      { s with mend := s.mend.updArr t p fun x => { x.clear with skew := true, row := r } }.mendLog (s.arrEntry 3 t p r)
    else s.darnWhole t p
  | _, _ => s.darnWhole t p

/-- What the self-test of the tick has found counts in the fields of MND_ARRAY from the boundary on (R208, R445); the builds and the seal
know it at once. -/
def Mend.learn (m : Mend) : Mend :=
  match m.testing, m.found with
  | some (t, p), some bad =>
    { (m.updArr t p fun x => { x with
        faults := satAdd 255 x.faults bad.length, bad := (x.bad ++ bad).dedup, srBad := x.srBad || bad.contains 32 }) with
      testing := none, found := none }
  | _, _ => m

/-- The sheaf being sealed leaves idle the arrays that wait for a darning and that it does not use (R207, R446). -/
def Mend.sealIdle (m : Mend) (used : Nat → Nat → Bool) : Mend :=
  { m with arrs := m.learn.arrs.foldl (fun l e =>
      let a := e.2
      Tab.upd {} l e.1 fun x =>
        { x with idle := a.state != 2 && (!a.bad.isEmpty || a.whole) && !(a.state == 0 && used (e.1 / 66) a.slot) }) m.arrs }

/-- Darnings due at a boundary: the arrays that the sheaf starting there leaves idle, save those of a tiller that is
retiring (Table 19-5). -/
def State.darnings (s : State) : State :=
  (s.mend.arrs.filter fun e => e.2.idle).foldl (fun s e =>
    if s.mend.retiring.contains (e.1 / 66) then s else s.darn (e.1 / 66) (e.1 % 66)) s

/-! ### The rotation (R444, R445) -/

def nextArray (t p : Nat) : Nat × Nat := if p < 65 then (t, p + 1) else if t < 15 then (t + 1, 0) else (0, 0)

/-- The next array at or after a position that is tested: its tiller is not retired, it has not failed. -/
def Mend.findTest (m : Mend) (retired : List Nat) : Nat → Nat → Nat → Option (Nat × Nat)
  | 0, _, _ => none
  | n + 1, t, p =>
    if !retired.contains t && (m.arr t p).state != 2 then some (t, p)
    else let x := nextArray t p; m.findTest retired n x.1 x.2

/-- The self-test that the sheaf being sealed places: one asked for ahead of the rotation, else the rotation's next;
none where a darning or a retirement of the tiller excludes it (Table 19-5). -/
def Mend.pickTest (m : Mend) (retired : List Nat) : Option (Nat × Nat) :=
  let cand := match m.ahead.find? fun x => !retired.contains x.1 && (m.arr x.1 x.2).state != 2 with
    | some x => some x
    | none => m.findTest retired 1056 m.rotT m.rotA
  cand.filter fun x => !m.darnDue x.1 && !m.retiring.contains x.1

/-- ARRAY_SELF_TEST (R445, R446): the test of the array that the sheaf leaves idle for it ends; `rows` are the physical
rows that differ. -/
def execArraySelfTest (rows : List Nat) (s : State) (on : List Metered := []) : Host.Outcome State Fault Refusal :=
  .next <|
    match s.mend.testing.filter fun _ => s.mend.found.isNone with
    | none => s
    | some (t, p) =>
      let s := { s with led := s.led.mended on }
      let a := s.mend.arr t p
      let bad := rows.dedup.filter fun r => decide (r ≤ 32) && !(a.skew && r == a.row)
      let part := ((s.core.parts.find? fun e => e.2.tillers.contains t).map (·.1)).getD 0xFF
      let next := nextArray t p
      let ahead := s.mend.ahead.contains (t, p)
      let m := s.mend
      let m := { m with
        found := some bad, ahead := m.ahead.erase (t, p), parity := m.parity.erase (t, p)
        acts := m.acts.filter fun x => !(x.code == 3 && x.running && x.target % 16 == t && x.target / 256 % 128 == p) }
      let m := if ahead then m else { m with
        rotT := next.1, rotA := next.2, passes := if next == (0, 0) then (m.passes + 1) % 256 else m.passes }
      let s := if a.state == 0 then { s with core := s.core.dropArray t a.slot } else s
      bad.foldl (fun s r => s.mendLog { kind := 2, tier := 5, part := part, unit := t, array := p, row := r }) { s with mend := m }

/-! ### Retirement (R209, R447, R448) -/

/-- The lowest-numbered free tiller goes to a partition that holds fewer than it was granted (R447). -/
def Core.refill (c : Core) (k : Nat) : Core :=
  let p := c.part k
  if p.state == .empty || decide (p.grants.tillers ≤ p.tillers.length) || p.pend.isSome then c
  else
    match c.freeTillers with
    | t :: _ => c.updPart k fun p => { p with tillers := p.tillers ++ [t] }
    | [] => c

/-- Retirements that take effect at a boundary: those whose scratchpad contents have been moved; copies that could not
be read are lost. -/
def State.retirements (s : State) (moved : List Nat) (lost : List ErrAt) : State :=
  let go := s.mend.retiring.filter moved.contains
  let s := go.foldl (fun s t =>
    let part := ((s.core.parts.find? fun e => e.2.tillers.contains t).map (·.1)).getD 0xFF
    let s := { s with
      core := { s.core with
        retired := s.core.retired ++ [t]
        parts := Tab.mapAll {} s.core.parts fun _ p => { p with tillers := p.tillers.filter (· != t) } }
      mend := { s.mend with
        retiring := s.mend.retiring.filter (· != t)
        acts := s.mend.acts.filter fun x => !(x.code == 5 && x.target == t) }
      link := { s.link with epochs := Tab.upd 0 s.link.epochs t fun e => (e + 1) % 65536 } }
    s.mendLog { kind := 6, tier := 5, part := part, unit := t }) s
  let s := if go.isEmpty then s else lost.foldl (fun s w =>
    let x := s.core.copy w.part w.buf (ErrAt.key w)
    let n := (((s.core.buf? w.part w.buf).map (·.desc.capacity)).getD 0 + 7) / 8
    { s with core := s.core.setCopy { x with lost := List.range n } }.mendLog
      { kind := 7, tier := 0, part := w.part, handle := handleOf w.part w.buf }) s
  { s with core := (List.range 16).foldl (fun c k => c.refill k) s.core }

/-! ### Scrubbing -/

/-- Reads of a full pass in ticks (Table 19-2). -/
def scrubTicks : Store → Nat
  | .scratchpad _ => 192
  | _ => 256

/-- One more read of a pass: the new position and whether the pass has ended. -/
def stepPass (n k len : Nat) : Nat × Bool := if len ≤ n + k then (0, true) else (n + k, false)

/-- The requested passes on a target move on, and end. -/
def Mend.actRead (m : Mend) (code target k len : Nat) : Mend :=
  { m with acts := (m.acts.map fun x =>
      if x.code == code && x.target == target && x.running then { x with done := x.done + k } else x).filter fun x =>
        !(x.code == code && x.target == target && x.running && decide (len ≤ x.done)) }

/-- SRAM_PATROL_SCRUB (R442): the per-tick read of one store, with the words corrected and the words in error. A
scratchpad whose tiller is retiring waits (Table 19-5). -/
def execSramPatrolScrub (st : Store) (corrected bad : Nat) (w : Option ErrAt) (s : State) (on : List Metered := []) :
    Host.Outcome State Fault Refusal :=
  .next <|
    let s0 := s
    let s := { s with led := s.led.mended on }
    let m := s.mend
    match st with
    | .scratchpad t =>
      if m.retiring.contains t || s.core.retired.contains t then s0
      else
        let m := { m with
          ceSp := satAdd 0xFFFFFFFF m.ceSp corrected, ueSp := satAdd 255 m.ueSp bad
          scrubSp := Tab.upd 0 m.scrubSp t fun n => (stepPass n 1 192).1 }
        let s := { s with mend := m.actRead 2 t 1 192 }
        if bad == 0 then s else s.logError 0 t w
    | .granary =>
      let x := stepPass m.scrubGrn 1 256
      let m := { m with
        ceGrn := satAdd 0xFFFFFFFF m.ceGrn corrected, ueGrn := satAdd 255 m.ueGrn bad, scrubGrn := x.1
        sramPasses := if x.2 then satAdd 0xFFFF m.sramPasses 1 else m.sramPasses }
      let s := { s with mend := m.actRead 2 16 1 256 }
      if bad == 0 then s else s.logError 1 0xFF w
    | .internal =>
      let m := { m with
        ceInt := satAdd 0xFFFFFFFF m.ceInt corrected, ueInt := satAdd 255 m.ueInt bad, scrubInt := (stepPass m.scrubInt 1 256).1 }
      let s := { s with mend := m.actRead 2 17 1 256 }
      if bad == 0 then s else s.logError 3 0xFF w

def Dram.drc (d : Dram) (ch : Nat) : Drc := Tab.get {} d.drcs ch
def Dram.updDrc (d : Dram) (ch : Nat) (f : Drc → Drc) : Dram := { d with drcs := Tab.upd {} d.drcs ch f }

/-- Counts the outcome of a checked read (R402). -/
def Drc.count (d : Drc) : Ecc → Drc
  | .clean => d
  | .corrected => { d with ce := satAdd 0xFFFFFFFF d.ce 1 }
  | .uncorrectable => { d with ue := satAdd 0xFFFF d.ue 1 }
  | .addrMismatch => { d with addrErr := satAdd 0xFFFF d.addrErr 1 }

def Ecc.bad : Ecc → Bool
  | .uncorrectable | .addrMismatch => true
  | _ => false

/-- Per-tick reads of a DRAM pass over all controllers: 524,288 ticks of 16. -/
def dramPassLen : Nat := 8388608

/-- DRAM_PATROL_SCRUB (R443): the per-tick read of one controller, 64 times as long while an accelerated pass runs; it
stops in QUIET. -/
def execDramPatrolScrub (ch : Nat) (e : Ecc) (w : Option ErrAt) (s : State) (on : List Metered := []) :
    Host.Outcome State Fault Refusal :=
  .next <|
    if s.core.mstate == .quiet || s.dram.sr || 16 ≤ ch then s
    else
      let s := { s with led := s.led.mended on }
      let k := if s.mend.acts.any fun x => x.code == 1 && x.running then 64 else 1
      let x := stepPass s.mend.scrubDram k dramPassLen
      let m := { s.mend with
        scrubDram := x.1, dramPasses := if x.2 then satAdd 0xFFFF s.mend.dramPasses 1 else s.mend.dramPasses }
      let s := { s with mend := m.actRead 1 0 k dramPassLen, dram := s.dram.updDrc ch fun d => d.count e }
      if Ecc.bad e then s.logError 2 ch w else s

/-! ### Flash read-verify -/

def Fw.image (f : Fw) (k : Nat) : Image := Tab.get {} f.images k

/-- The sequence number of the directory; a copy is usable; the copy whose turn it is gets the next number (R457). -/
def Fw.dirSeq (f : Fw) : Nat := max (f.dirA.getD 0) (f.dirB.getD 0)
def Fw.dirUsable (f : Fw) : Bool := f.dirA.isSome || f.dirB.isSome
def Fw.writeDir (f : Fw) : Fw :=
  if f.dirA.isSome && decide (f.dirB.getD 0 < f.dirA.getD 0) then { f with dirB := some (f.dirSeq + 1) }
  else { f with dirA := some (f.dirSeq + 1) }

/-- What the directory records of an image (R457). -/
def Image.entry (i : Image) : SState × SState × Nat × Nat × Option (Nat × Nat) × Nat × Bool :=
  (i.a.state, i.b.state, i.a.num, i.b.num, i.sched, i.window, i.nextStart)

/-- Changes an image; a change of its entry is a write of the directory. -/
def Fw.updImage (f : Fw) (k : Nat) (g : Image → Image) : Fw :=
  let t := { f with images := Tab.upd {} f.images k g }
  if (t.image k).entry == (f.image k).entry then t else t.writeDir

/-- Size of a slot in blocks, by kind (Table 20-1). -/
def slotBlocks (kind : Nat) : Nat :=
  if kind ≤ 3 then 1024 else if kind == 4 then 512 else if kind == 5 then 256 else 64

/-- First block of slot A of a kind (Table 20-1). -/
def slotBase (kind : Nat) : Nat :=
  if kind ≤ 3 then 0x400 + 2048 * (kind - 1) else if kind == 4 then 0x1C00 else if kind == 5 then 0x2000 else 0x2200

/-- The slot that holds a flash block: kind, and whether it is slot B. -/
def slotAt (block : Nat) : Option (Nat × Bool) :=
  ([1, 2, 3, 4, 5, 6].find? fun k => decide (slotBase k ≤ block) && decide (block < slotBase k + 2 * slotBlocks k)).map
    fun k => (k, decide (slotBase k + slotBlocks k ≤ block))

def Image.slot (i : Image) (b : Bool) : ISlot := if b then i.b else i.a
def Image.setSlot (i : Image) (b : Bool) (v : ISlot) : Image := if b then { i with b := v } else { i with a := v }
def SState.inForce : SState → Bool
  | .active | .trial => true
  | _ => false
/-- The slot in force is slot B; the image has a slot in TRIAL; its VALID slot, if any (R463). -/
def Image.inB (i : Image) : Bool := i.b.state.inForce
def Image.inTrial (i : Image) : Bool := i.a.state == .trial || i.b.state == .trial
def Image.find (i : Image) (st : SState) : Option Bool :=
  if i.a.state == st then some false else if i.b.state == st then some true else none

/-- An activation that has named a kind, whose image is not preloaded yet, is cancelled when its slot becomes INVALID
(R465). -/
def State.cancelKind (s : State) (kind : Nat) : State :=
  match s.fw.acts.find? fun a => bitAt kind a.mask && !a.loaded with
  | none => s
  | some a =>
    let kinds := (List.range 7).filter fun k => bitAt k a.mask
    { s with
      core := match a.cmd with
        | some cmd => s.core.doneLate s.tick.count 0x8004 cmd .state 0x62
        | none => s.core
      fw := { s.fw with
        acts := s.fw.acts.erase a
        images := kinds.foldl (fun t k => Tab.upd {} t k fun i => { i with sched := none }) s.fw.images }.writeDir }

/-- FLASH_READ_VERIFY (R449): the block at the position of the pass. A block of an active slot, or of the device
records, is rewritten from its other copy; a failing block makes an inactive slot INVALID. A slot that FW_STAGE writes
is left out (Table 19-5). -/
def execFlashReadVerify (ok : Bool) (s : State) : Host.Outcome State Fault Refusal :=
  .next <|
    let block := s.mend.flashPos
    let s := { s with mend := { (s.mend.actRead 8 0 1 16384) with flashPos := (block + 1) % 16384 } }
    if ok then s
    else
      match slotAt block with
      | none => s.mendLog { kind := 8, tier := 6, line := block }
      | some (k, b) =>
        let st := ((s.fw.image k).slot b).state
        if st == .staging then s
        else
          let d := s.core.draw
          let s := { s with core := d.2 }.mendLog { kind := 8, tier := 6, unit := Config.freeNat d.1 0 % 256, line := block }
          if st.inForce || st == .invalid then s
          else
            { s with fw := s.fw.updImage k fun i => i.setSlot b { (i.slot b) with state := .invalid } }.cancelKind k

/-! ### MEND_START and MEND_STATUS -/

def mendTiller (w : Nat) : Nat := w % 16
def mendArray (w : Nat) : Nat := w / 256 % 128
def mendRow (w : Nat) : Nat := w / 65536 % 32

/-- Target bits of an activity that MEND_START accepts (Table 19-3). -/
def mendMask (code : Nat) : Option Nat :=
  match code with
  | 1 | 8 => some 0
  | 2 => some 0x1F
  | 3 => some 0x7F0F
  | 4 => some 0x9F7F0F
  | 5 => some 0xF
  | _ => none

/-- The activity runs or waits already on the target (R450). -/
def Mend.busy (m : Mend) (code w : Nat) : Bool :=
  (m.acts.any fun x => x.code == code && x.target == w) || (code == 5 && m.retiring.contains w) ||
    (code == 3 && m.found.isNone && m.testing == some (mendTiller w, mendArray w))

/-- The target can take the activity (R450). -/
def Mend.targetOk (m : Mend) (retired : List Nat) (code w : Nat) : Bool :=
  let t := mendTiller w
  let a := m.arr t (mendArray w)
  let inSvc := !retired.contains t && decide (mendArray w ≤ 65) && a.state != 2
  match code with
  | 2 => decide (w ≤ 17) && !(decide (w < 16) && retired.contains w)
  | 3 => inSvc
  | 4 => inSvc && (if bitAt 23 w then !(m.spares t).isEmpty && a.state != 1 else a.rowFree)
  | 5 => !retired.contains w
  | _ => true

/-- An exclusion of Table 19-5 holds the activity back: QUIET for a DRAM scrub, the activities of the same tiller. -/
def State.excluded (s : State) (code w : Nat) : Bool :=
  let m := s.mend
  let t := mendTiller w
  let on (f : Nat × Nat → Bool) : Bool := (m.found.isNone && m.testing.any f) || m.nextTest.any f
  match code with
  | 1 => s.core.mstate == .quiet
  | 2 => m.retiring.contains w
  | 3 => m.learn.darnDue t || m.retiring.contains t
  | 4 => m.retiring.contains t || on (fun x => x.1 == t)
  | _ => false

/-- MEND_START (R450): it completes at the boundary at which the activity starts, or with DEFERRED. -/
def mendStart (s : State) (e : Env) : Except Stop (State × Option Run) := do
  let w := e.word 0
  match mendMask e.sub with
  | none => .error .malformed
  | some m =>
    need (w &&& m == w) .malformed
    need (!s.mend.busy e.sub w) (.state 0x50)
    need (s.mend.targetOk s.core.retired e.sub w) (.state 0x51)
    if s.excluded e.sub w then
      .ok ({ s with mend := { s.mend with acts := s.mend.acts ++ [{ code := e.sub, target := w, deferred := true }] } },
        some { status := .deferred })
    else
      .ok ({ s with mend := { s.mend with acts := s.mend.acts ++ [{ code := e.sub, target := w, cmd := some e.cmd }] } }, none)

def execMendStart (c : Cmd) (s : State) : Host.Outcome State Fault Refusal := State.command 0x8001 c mendStart s

/-- What an activity asks of the arrays and tillers when it is accepted to run: a self-test goes ahead of the rotation, a
darning waits for its array to be idle, a retirement for its moves. -/
def Mend.beginAct (m : Mend) (x : Act) : Mend :=
  let t := mendTiller x.target
  let p := mendArray x.target
  match x.code with
  | 3 => { m with ahead := m.ahead ++ [(t, p)] }
  | 4 => m.updArr t p fun a => if bitAt 23 x.target then { a with whole := true } else { a with bad := [mendRow x.target] }
  | 5 => m.retire t
  | _ => m

/-- Activities that wait start at a boundary (R450, R452): each completes OK, or DEFERRED where it is excluded; one whose
target has left service is dropped (R453). A darning starts at the boundary at which it takes effect. -/
def State.startActs (s : State) : State :=
  (s.mend.acts.filter fun x => !x.running && !x.deferred).foldl (fun s x =>
    let others := s.mend.acts.filter (· != x)
    let fin (st : Status) (d : Nat) (s : State) : State :=
      match x.cmd with
      | some cmd => { s with core := s.core.doneLate s.tick.count 0x8001 cmd st d }
      | none => s
    if !s.mend.targetOk s.core.retired x.code x.target then
      fin .state 0x51 { s with mend := { s.mend with acts := others } }
    else if s.excluded x.code x.target then
      fin .deferred (0x8001 * 65536 + 0xFFFF)
        { s with mend := { s.mend with acts := others ++ [{ x with deferred := true, cmd := none }] } }
    else
      fin .ok 0 { s with mend := { (s.mend.beginAct x) with acts := others ++ [{ x with running := true, cmd := none }] } }) s

/-- DEFERRED_ACTIVITY_START (R452, R453). -/
def execDeferredActivityStart (code target : Nat) (s : State) : Host.Outcome State Fault Refusal :=
  .next <|
    match s.mend.acts.find? fun x => x.code == code && x.target == target && x.deferred with
    | none => s
    | some x =>
      let others := s.mend.acts.filter (· != x)
      if !s.mend.targetOk s.core.retired code target then { s with mend := { s.mend with acts := others } }
      else if s.excluded code target then s
      else { s with mend := { (s.mend.beginAct x) with acts := others ++ [{ x with running := true, deferred := false }] } }

/-- State and progress that MEND_STATUS reports (R451). -/
def Mend.status (m : Mend) (code w : Nat) : Nat :=
  let len := if code == 1 then dramPassLen else if code == 8 then 16384 else if code == 2 then (if w < 16 then 192 else 256) else 1
  match m.acts.find? fun x => x.code == code && x.target == w with
  | some x => (if x.deferred then 2 else if x.running then 1 else 0) + min 0xFFFF (x.done * 65536 / len) * 65536
  | none => if m.busy code w then 1 else 0

/-- MEND_STATUS (R451): word 0 is a target as MEND_START takes it, its other bits reserved; the activities that MEND_START
does not accept have none. -/
def mendStatus (s : State) (e : Env) : Except Stop (State × Option Run) := do
  need (decide (1 ≤ e.sub) && decide (e.sub ≤ 10) &&
    e.word 0 &&& ((mendMask e.sub).getD 0) == e.word 0) .malformed
  .ok (s, some (quick (s.mend.status e.sub (e.word 0))))

def execMendStatus (c : Cmd) (s : State) : Host.Outcome State Fault Refusal := State.command 0x8002 c mendStatus s

end Sys2Proof.Machine
end

