-- ==== Sys2Proof/Machine/Firmware.lean ====
section
/-! DEFINITION. Firmware: images and their verification (R456 to R460), staging (R464), activation and its chain form
(R465 to R467), confirmation, trials and fall-back (R468 to R470), the recovery mailbox (R472), measurements and ATTEST
(R474, Tables 20-9, 20-12, 20-13). -/

namespace Sys2Proof.Machine

/-! ### Images -/

/-- A written block with its CRC; none written reads as empty. -/
def ISlot.block (s : ISlot) (i : Nat) : List Byte × Nat := Tab.get ([], 0) s.blocks i

/-- A block is whole and has a good CRC (R456). -/
def ISlot.blockOk (s : ISlot) (i : Nat) : Bool := (s.block i).1.length == 4096 && crc32c (s.block i).1 == (s.block i).2

/-- The manifest, block 0 (Table 20-2). -/
def ISlot.manifest (kind : Nat) (s : ISlot) : List Byte :=
  if s.factory then Config.factoryManifest kind else (s.block 0).1

def mfVersion (m : List Byte) : Nat := leAt m 8 4
def mfSvn (m : List Byte) : Nat := leAt m 12 4
def mfLen (m : List Byte) : Nat := leAt m 16 4
def mfSigned (m : List Byte) : Bool := bitAt 0 (leAt m 6 2)
def mfRaise (m : List Byte) : Bool := bitAt 1 (leAt m 6 2)

/-- The body, from block 1 onward. -/
def ISlot.body (s : ISlot) (len : Nat) : List Byte :=
  ((List.range (ceilDiv len 4096)).flatMap fun i => (s.block (i + 1)).1).take len

/-- The CRC table is good: MCP keeps it so, and one that a WRITE put in the last block agrees with the blocks. -/
def ISlot.tableOk (s : ISlot) (n used : Nat) : Bool :=
  let t := (s.block (n - 1)).1
  t.isEmpty || (leAt t 4092 4 == crc32c (t.take 4092) && (List.range used).all fun i => leAt t (4 * i) 4 == (s.block i).2)

/-- Outcome of a verification: which ground of R458 fails first, content, signature, SVN. -/
inductive Verdict where
  | good | badSig | badSvn | bad
  deriving DecidableEq, Repr

/-- Content conditions of R458 and Table 20-2 over a slot of `n` blocks, the last `tail` of which no body may use. -/
def ISlot.contentOk (s : ISlot) (kind n tail : Nat) : Bool :=
  let m := (s.block 0).1
  let used := 1 + ceilDiv (mfLen m) 4096
  (List.range used).all s.blockOk && decide (used ≤ n - tail) && (tail == 0 || s.tableOk n used) &&
    leAt m 0 4 == 0x4D465743 && leAt m 4 1 == kind && leAt m 5 1 == 1 && leAt m 6 2 / 4 == 0 &&
    decide (mfSvn m ≤ 63) && zeroAt m 52 64 && zeroAt m 832 4096 && sha256 (s.body (mfLen m)) == (m.drop 20).take 32

/-- An enrolled key that is not revoked signs the manifest (R458, R460); `not_` is left out. -/
def ownerSigns (owners : Tab Owner) (m : List Byte) (not_ : Option Nat) : Bool :=
  mfSigned m && owners.any fun o => o.2.used && !o.2.revoked && not_ != some o.1 && sha256 o.2.key == o.2.hash &&
    Config.sigOk o.2.key (m.take 64) ((m.drop 448).take 384)

/-- R458 for a slotted image. -/
def ISlot.verify (s : ISlot) (kind svnMin : Nat) (owners : Tab Owner) : Verdict :=
  let m := s.manifest kind
  if !s.factory && !s.contentOk kind (slotBlocks kind) 1 then .bad
  else if !s.factory && !Config.sigOk Config.carbeviKey (m.take 64) ((m.drop 64).take 384) then .badSig
  else if mfSvn m < svnMin then .badSvn
  else if (owners.any fun o => o.2.used) && !ownerSigns owners m none then .badSig
  else .good

/-! ### Staging -/

/-- The slot of a kind that is being staged. -/
def Image.staging (i : Image) : Option Bool := i.find .staging

/-- Programs blocks one by one until one does not match its CRC: the new blocks, and the block that fails (R464). -/
def programBlocks (t : Tab (List Byte × Nat)) (first : Nat) : List (List Byte × Nat) → Tab (List Byte × Nat) × Option Nat
  | [] => (t, none)
  | b :: r =>
    if crc32c b.1 == b.2 then programBlocks (Tab.set ([], 0) t first b) (first + 1) r else (t, some first)

/-- Detail word of a staging command that names a code in its low bits (R97, R464). -/
def stageDetail (low : Nat) : Nat := 0x8003 * 65536 + low

/-- BEGIN: `inB` is the slot to erase; for OWNER a fresh staging area. -/
def Fw.stageBegin (f : Fw) (kind : Nat) (inB : Bool) (rcv : Bool) : Fw × Status × Nat :=
  if kind == 7 then ({ f with ownerArea := some [] }, .ok, 0)
  else
    let i := f.image kind
    if i.sched.isSome || (i.inTrial && !rcv) then (f, .state, 0x60)
    else (f.updImage kind fun i => i.setSlot inB { state := .staging }, .ok, 0)

/-- WRITE: blocks with their CRCs from block `first` onward. -/
def Fw.stageWrite (f : Fw) (kind first : Nat) (bs : List (List Byte × Nat)) : Fw × Status × Nat :=
  let fin (bad : Option Nat) : Status × Nat :=
    match bad with
    | some b => (.dataLost, stageDetail b)
    | none => (.ok, 0)
  if kind == 7 then
    match f.ownerArea with
    | none => (f, .state, 0x61)
    | some t =>
      let x := programBlocks t first bs
      let y := fin x.2
      ({ f with ownerArea := some x.1 }, y.1, y.2)
  else
    match (f.image kind).staging with
    | none => (f, .state, 0x61)
    | some b =>
      let x := programBlocks ((f.image kind).slot b).blocks first bs
      let y := fin x.2
      ({ f with images := Tab.upd {} f.images kind fun i => i.setSlot b { (i.slot b) with blocks := x.1 } }, y.1, y.2)

def Verdict.result : Verdict → Status × Nat
  | .good => (.ok, 0)
  | .badSig => (.authFailed, stageDetail 1)
  | .badSvn => (.authFailed, stageDetail 2)
  | .bad => (.dataLost, stageDetail 0xFFFF)

/-- VERIFY of an OWNER record: R458, R460, then the enrolment or revocation. -/
def Fw.ownerVerify (f : Fw) (t : Tab (List Byte × Nat)) : Fw × Status × Nat :=
  let s : ISlot := { blocks := t }
  let m := (s.block 0).1
  let b := (s.block 1).1
  let slot := leAt b 388 1
  let revoke := leAt b 389 1 == 1
  let o : Owner := Tab.get {} f.owners slot
  let first := !revoke && f.owners.all fun x => !x.2.used && !x.2.revoked
  if !s.contentOk 7 2 0 || decide (3 < slot) || decide (1 < leAt b 389 1) || !zeroAt b 390 4096 then
    (f, .dataLost, stageDetail 0xFFFF)
  else if o.revoked || (o.used && !revoke) then (f, .state, 0x66)
  else if !first && !ownerSigns f.owners m (some slot) then (f, .authFailed, stageDetail 1)
  else
    let key := b.take 388
    let o := if revoke then { o with revoked := true } else { o with used := true, hash := sha256 key, key := key }
    ({ f with owners := Tab.set {} f.owners slot o, ownerArea := none }, .ok, 0)

/-- VERIFY: on OK the slot is VALID and holds a new image. -/
def Fw.stageVerify (f : Fw) (kind num : Nat) : Fw × Status × Nat :=
  if kind == 7 then
    match f.ownerArea with
    | none => (f, .state, 0x61)
    | some t => f.ownerVerify t
  else
    let i := f.image kind
    match i.staging with
    | none => (f, .state, 0x61)
    | some b =>
      let v := (i.slot b).verify kind i.svnMin f.owners
      (if v == .good then f.updImage kind fun i => i.setSlot b { (i.slot b) with state := .valid, num := num } else f,
        v.result.1, v.result.2)

/-- ABORT. -/
def Fw.stageAbort (f : Fw) (kind : Nat) : Fw × Status × Nat :=
  if kind == 7 then
    (if f.ownerArea.isSome then ({ f with ownerArea := none }, .ok, 0) else (f, .state, 0x61))
  else
    match (f.image kind).staging with
    | none => (f, .state, 0x61)
    | some b => (f.updImage kind fun i => i.setSlot b { (i.slot b) with state := .invalid }, .ok, 0)

/-- Blocks and CRCs of a host buffer of `n` blocks (R464). -/
def stageBlocks (n : Nat) (l : List Byte) : List (List Byte × Nat) :=
  (List.range n).map fun i => ((l.drop (4096 * i)).take 4096, leAt l (4096 * n + 4 * i) 4)

/-- Blocks of a staging target: a slot, or the two of the OWNER area. -/
def stageRoom (kind : Nat) : Nat := if kind == 7 then 2 else slotBlocks kind

/-- FW_STAGE (R464). -/
def fwStage (s : State) (e : Env) : Except Stop (State × Option Run) := do
  let k := e.word 0
  need (decide (1 ≤ k)) .malformed
  let i := s.fw.image k
  let go (r : Fw × Status × Nat) : State × Option Run :=
    ({ s with fw := r.1 }, some { status := r.2.1, detail := r.2.2 })
  match e.sub with
  | 0 => .ok (go (s.fw.stageBegin k (i.a.state.inForce) false))
  | 1 =>
    need (decide (1 ≤ e.word 2) && decide (e.word 2 ≤ 256) && decide (e.word 1 + e.word 2 ≤ stageRoom k)) .malformed
    let l ← e.hostRead s.core (e.long 3) (4100 * e.word 2)
    .ok (go (s.fw.stageWrite k (e.word 1) (stageBlocks (e.word 2) l)))
  | 2 => .ok (go (s.fw.stageVerify k (e.draw + 1)))
  | _ => .ok (go (s.fw.stageAbort k))

def execFwStage (c : Cmd) (s : State) : Host.Outcome State Fault Refusal := State.command 0x8003 c fwStage s

/-! ### Activation -/

def maskKinds (mask : Nat) : List Nat := [1, 2, 3, 4, 5, 6].filter fun k => bitAt k mask

/-- What keeps a mask of images from being activated (R465). -/
def Fw.refuses (f : Fw) (mask : Nat) : Option Nat :=
  if (maskKinds mask).any fun k => ((f.image k).find .valid).isNone then some 0x62
  else if (maskKinds mask).any fun k => (f.image k).sched.isSome || (f.image k).inTrial then some 0x63
  else none

/-- The trial window of word 3. -/
def trialWindow (w : Nat) : Option Nat := if w == 0 then some 600 else if 60 ≤ w && w ≤ 6000 then some w else none

/-- Schedules an activation. -/
def Fw.schedule (f : Fw) (a : Activate) : Fw :=
  let f := (maskKinds a.mask).foldl (fun (f : Fw) k => f.updImage k fun i => { i with
    sched := some (a.effTick, a.window), tick := a.effTick % 2 ^ 32, window := a.window }) f
  { f with acts := f.acts ++ [a] }

/-- Withdraws an activation. -/
def Fw.withdraw (f : Fw) (a : Activate) : Fw :=
  let f := (maskKinds a.mask).foldl (fun (f : Fw) k => f.updImage k fun i => { i with sched := none }) f
  { f with acts := f.acts.erase a }

/-- FW_ACTIVATE (R465, R467). -/
def fwActivate (s : State) (e : Env) : Except Stop (State × Option Run) := do
  match trialWindow (e.word 3) with
  | none => .error .malformed
  | some w =>
    match s.fw.refuses (e.word 0) with
    | some code => .error (.state code)
    | none =>
      let chain := e.sub == 1
      let dests := if chain then s.link.table.routes.map (·.dest) else []
      let a : Activate :=
        { cmd := some e.cmd, mask := e.word 0, effTick := max (e.long 1) (e.now + if chain then 4 else 2), window := w
          chain := chain, accepted := [], agreed := dests.isEmpty }
      let s := { s with fw := s.fw.schedule a }
      .ok (dests.foldl (fun (s : State) d => s.sendMgmt d 0x20 (.activate d a.mask)) s, none)

def execFwActivate (c : Cmd) (s : State) : Host.Outcome State Fault Refusal := State.command 0x8004 c fwActivate s

/-- The chain-wide activations of this module that wait for their answers: the oldest, the one of a mask. -/
def Activate.asks (a : Activate) : Bool := a.chain && !a.agreed && a.origin == 0
def Fw.asking (f : Fw) : Option Activate := f.acts.find? (·.asks)
def Fw.askingFor (f : Fw) (mask : Nat) : Option Activate := f.acts.find? fun a => a.asks && a.mask == mask

/-- Module `m` has accepted: once all have, the activation stands (R467). -/
def State.activateAccept (s : State) (m mask : Nat) : State :=
  match s.fw.askingFor mask with
  | none => s
  | some a =>
    let got := (a.accepted ++ [m]).dedup
    let all := s.link.table.routes.all fun r => got.contains r.dest
    { s with fw := { s.fw with acts := s.fw.acts.map fun x =>
        if x == a then { a with accepted := got, agreed := all } else x } }

/-- The activation is cancelled at every module; `id` is the refusing module (R467). -/
def State.activateFail (s : State) (o : Option Activate) (id : Nat) : State :=
  match o with
  | none => s
  | some a =>
    let s := s.broadcast
    let s := { s with
      fw := s.fw.withdraw a
      link := { s.link with sent := s.link.sent.filter fun x => match x.what with
        | .activate _ k => k != a.mask
        | _ => true } }
    match a.cmd with
    | some cmd => { s with core := s.core.doneLate s.tick.count 0x8004 cmd .state (id * 65536 + 0x64) }
    | none => s

/-- ACTIVATE_TIMEOUT (R467): not every module accepted within 10 ms. No module refused, so the ID is a free value. -/
def execActivateTimeout (s : State) : Host.Outcome State Fault Refusal :=
  .next (if s.fw.asking.isNone then s
    else let d := s.core.draw; { s with core := d.2 }.activateFail s.fw.asking (Config.freeNat d.1 0 % 65536))

/-- Digest of the manifest in the VALID slot of a kind. -/
def Fw.validDigest (f : Fw) (k : Nat) : List Byte :=
  match (f.image k).find .valid with
  | some b => sha256 (((f.image k).slot b).manifest k)
  | none => []

/-- ACTIVATE_NOTICE (R467): accepted when the same command would be, with the same manifests. -/
def execActivateNotice (p : Nat) (n : ActNotice) (s : State) : Host.Outcome State Fault Refusal :=
  .next <|
    if !mlive s.core.mstate || (s.link.port p).state != 2 || (s.link.port p).frozen then s
    else if (s.fw.refuses n.mask).isNone &&
        (maskKinds n.mask).all fun k => n.digests.any fun d => d.1 == k && d.2 == beNat (s.fw.validDigest k) then
      { s with fw := s.fw.schedule { cmd := none, origin := n.origin, mask := n.mask, effTick := n.effTick, window := n.window
                                     chain := true, accepted := [] } }.reply n.origin n.id .granted
    else s.reply n.origin n.id .refused

/-- ACTIVATE_CANCEL (R467). -/
def execActivateCancel (p origin mask : Nat) (s : State) : Host.Outcome State Fault Refusal :=
  .next <|
    if !mlive s.core.mstate || (s.link.port p).state != 2 || (s.link.port p).frozen then s
    else
      match s.fw.acts.find? fun a => a.origin == origin && origin != 0 && a.mask == mask with
      | none => s
      | some a => { s with fw := s.fw.withdraw a }

/-! ### Measurements -/

/-- Measurement of a slot: its manifest and body (Table 20-9). -/
def ISlot.measure (s : ISlot) (kind : Nat) : List Byte :=
  if s.factory then Config.factoryDigest kind else sha256 ((s.block 0).1 ++ s.body (mfLen (s.block 0).1))

/-- The slot in force of a kind. -/
def Image.inForce (i : Image) : ISlot := i.slot i.inB

def Fw.measureKind (f : Fw) (k : Nat) : Fw :=
  { f with meas := Tab.set [] f.meas (k + 1) ((f.image k).inForce.measure k) }

/-- Measurement 8: the guard record from straps, contract ceiling, minimum SVNs and owner slots. -/
def State.guardDigest (s : State) : List Byte :=
  sha256 (Config.guardRecord (s.led.strap + 4 * s.link.strap.toNat + 8 * s.mod.straps.recovery.toNat) (strapW s.led.strap)
    ([1, 2, 3, 4, 5, 6].map fun k => (s.fw.image k).svnMin)
    ((List.range 4).map fun k => let o := Tab.get {} s.fw.owners k; o.used.toNat + 2 * o.revoked.toNat))

/-! ### Switch, trial, fall-back -/

/-- Sets a bit of FWU_CAUSE; one that becomes 1 sends a message (R476). -/
def State.fwBit (s : State) (b : Nat) : State :=
  if bitAt b s.fw.cause then s
  else { s with fw := { s.fw with cause := s.fw.cause + 2 ^ b }, core := s.core.msg 0 s.fw.vec }

/-- The LEDGERTAB image in force gives the coefficients afresh (R64). -/
def State.tablesOf (s : State) : State :=
  { s with led := { s.led with img := (s.fw.image 5).inForce.num, coef := [] } }

/-- One image switches (R466): TRIAL and FALLBACK. A DRAMTAB waits for the next start (Table 20-7). -/
def State.switchKind (s : State) (k window : Nat) : State :=
  let i := s.fw.image k
  match i.find .valid with
  | none => s
  | some b =>
    if k == 6 then { s with fw := s.fw.updImage k fun i => { i with nextStart := true } }
    else
      let i := (i.setSlot b { (i.slot b) with state := .trial })
      let i := if (i.slot !b).state.inForce then i.setSlot (!b) { (i.slot !b) with state := .fallback } else i
      let s := { s with fw := (s.fw.updImage k fun _ => { i with
        sched := none, left := window, window := window, counted := 0, healthy := 0, failed := false }).measureKind k }
      if k == 5 then s.tablesOf
      else if k == 4 then { s with fw := { s.fw with upAt := s.link.upPorts } } else s

/-- Activations whose effective tick starts (R466). -/
def State.switches (s : State) (tick : Nat) : State :=
  (s.fw.acts.filter fun a => a.agreed && decide (a.effTick ≤ tick)).foldl (fun (s : State) a =>
    let s := (maskKinds a.mask).foldl (fun (s : State) k => s.switchKind k a.window) s
    let s := { s with fw := { s.fw with acts := s.fw.acts.erase a } }
    match a.cmd with
    | some cmd => { s with core := s.core.doneLate tick 0x8004 cmd .ok (a.effTick % 2 ^ 32) }
    | none => s) { s with fw := { s.fw with acts := s.fw.acts.map fun a => { a with loaded := true } } }

/-- A LEDGERTAB image switches at the boundary that starts a tick: calibration is skipped there (Table 19-5). -/
def Fw.tabSwitch (f : Fw) (tick : Nat) : Bool :=
  f.acts.any fun a => a.agreed && decide (a.effTick ≤ tick) && bitAt 5 a.mask

/-- Entry into RECOVERY (R471): SEC alone runs, DRAM is in reset. -/
def State.recover (s : State) (reason : Nat) : State :=
  { s with
    core := s.core.setM .recovery
    fw := { s.fw with reason := reason }
    dram := { s.dram with up := false } }

/-- The trial of an image has failed (R469): the previous image resumes, or the module enters RECOVERY. -/
def State.failTrial (s : State) (k : Nat) : State :=
  if k == 1 then s.recover 6
  else if k == 6 then s.recover 7
  else
    let i := s.fw.image k
    let set (i : Image) (old new : SState) : Image :=
      match i.find old with
      | some b => i.setSlot b { (i.slot b) with state := new }
      | none => i
    let s := { s with fw := (s.fw.updImage k fun _ =>
      { (set (set i .trial .rejected) .fallback .active) with left := 0, failed := false }).measureKind k }
    (if k == 5 then s.tablesOf else s).fwBit 0

/-- Uncorrectable DRAM errors counted. -/
def Dram.errors (d : Dram) : Nat := d.drcs.foldl (fun n e => n + e.2.ue + e.2.addrErr) 0

/-- The criterion of Table 20-8 held in the tick that ends; `summary`: its TICK_SUMMARY was written. -/
def State.criterion (s : State) (k : Nat) (summary : Bool) : Bool :=
  match k with
  | 1 => summary && !s.fw.trapped.contains 1
  | 2 => !s.tick.runBare && !s.fw.trapped.contains 2
  | 3 => !s.fw.trapped.contains 3
  | 4 => s.fw.upAt.all (fun p => (s.link.port p).state == 2) && s.link.lost == s.fw.lostAt
  | 5 => s.led.levelMax == 0
  | _ => s.dram.errors == s.fw.ueAt

/-- A trial tick ends (R468, R469); ticks in QUIET do not count. Failures found before this boundary are handled. -/
def State.countTrials (s : State) (summary : Bool) : State :=
  let s := [1, 2, 3, 4, 5, 6].foldl (fun (s : State) k =>
    let i := s.fw.image k
    if !i.inTrial then s
    else if i.failed || i.left == 0 then s.failTrial k
    else if s.core.mstate == .quiet then s
    else { s with fw := { s.fw with images := Tab.set {} s.fw.images k { i with
      left := i.left - 1, counted := i.counted + 1
      healthy := if s.criterion k summary then min 60 (i.healthy + 1) else 0 } } }) s
  { s with fw := { s.fw with trapped := [], reload := [], lostAt := s.link.lost, ueAt := s.dram.errors } }

/-- TRIAL_WINDOW_EXPIRY (R469): the window of counted ticks has ended without a confirmation. It ends at a boundary, so
the failure is handled here. -/
def execTrialWindowExpiry (kind : Nat) (s : State) : Host.Outcome State Fault Refusal :=
  .next (if (s.fw.image kind).inTrial && (s.fw.image kind).left == 0 && mlive s.core.mstate then s.failTrial kind else s)

/-- Kind of the image that a processor runs: MCP, SBP0, SBP1, MCC, LKC; SEC runs none. -/
def cpuKind (cpu : Nat) : Option Nat :=
  if cpu == 0 then some 1 else if cpu == 1 || cpu == 2 then some 2 else if cpu == 3 then some 3
  else if cpu == 4 then some 4 else none

/-- PROCESSOR_TRAP (R469, R470): in a trial the image has failed it; a confirmed STEWARD sends the module to RECOVERY, any
other image is reloaded at the next boundary. -/
def execProcessorTrap (cpu : Nat) (s : State) : Host.Outcome State Fault Refusal :=
  .next <|
    match cpuKind cpu with
    | none => s
    | some k =>
      if !mlive s.core.mstate then s
      else
        let s := { s with fw := { s.fw with trapped := (s.fw.trapped ++ [k]).dedup } }
        if (s.fw.image k).inTrial then { s with fw := s.fw.updImage k fun i => { i with failed := true } }
        else if k == 1 then s.recover 6
        else { s with fw := { s.fw with reload := (s.fw.reload ++ [k]).dedup } }

/-- WATCHDOG_EXPIRY (R469). -/
def execWatchdogExpiry (cpu : Nat) (s : State) : Host.Outcome State Fault Refusal :=
  .next <|
    match cpuKind cpu with
    | none => s
    | some k =>
      if mlive s.core.mstate && (s.fw.image k).inTrial then
        { s with fw := s.fw.updImage k fun i => { i with failed := true } }
      else s

/-! ### FW_CONFIRM -/

/-- An image is healthy (R468): 60 counted ticks have ended and the last 60 met its criterion; one that has failed its
trial is not. -/
def Image.isHealthy (i : Image) : Bool := decide (60 ≤ i.counted) && decide (60 ≤ i.healthy) && !i.failed

/-- In TRIAL with the window not ended. -/
def Image.onTrial (i : Image) : Bool := i.inTrial && i.left != 0

/-- Confirms an image. -/
def Image.confirm (i : Image) (k : Nat) : Image :=
  match i.find .trial with
  | none => i
  | some b =>
    let m := (i.slot b).manifest k
    let i := i.setSlot b { (i.slot b) with state := .active }
    let i := match i.find .fallback with
      | some f => i.setSlot f { (i.slot f) with state := .valid }
      | none => i
    { i with left := 0, svnMin := if mfRaise m then max i.svnMin (mfSvn m) else i.svnMin }

/-- FW_CONFIRM (R468): all the named images or none. -/
def fwConfirm (s : State) (e : Env) : Except Stop (State × Option Run) := do
  let ks := maskKinds (e.word 0)
  need (ks.all fun k => (s.fw.image k).onTrial) (.state 0x65)
  match ks.find? fun k => !(s.fw.image k).isHealthy with
  | some k => .error (.state (k * 256 + 0x67))
  | none =>
    let s := { s with fw := ks.foldl (fun (f : Fw) k => f.updImage k fun i => i.confirm k) s.fw }
    .ok (if ks.isEmpty then s else s.fwBit 1, some (quick 0))

def execFwConfirm (c : Cmd) (s : State) : Host.Outcome State Fault Refusal := State.command 0x8005 c fwConfirm s

/-! ### ATTEST -/

/-- Bytes 0 to 351 of the attestation report, Table 20-13. -/
def State.reportHead (s : State) (nonce : List Byte) : List Byte :=
  leBytes 4 0x52545441 ++ leBytes 2 1 ++ leBytes 2 8 ++ leBytes 8 s.tick.count ++ leBytes 8 Config.serial.toNat ++
    (nonce ++ zeros 32).take 32 ++
    ((List.range 8).flatMap fun i => (Tab.get [] s.fw.meas (i + 1) ++ zeros 32).take 32) ++ zeros 40

/-- The attestation report with its identity signature. -/
def State.report (s : State) (nonce : List Byte) : List Byte :=
  s.reportHead nonce ++ (Config.idSign (s.reportHead nonce) ++ zeros 384).take 384

/-- ATTEST (Table 20-12). -/
def attest (s : State) (e : Env) : Except Stop (State × Option Run) := do
  let addr := e.long 0
  if e.sub == 0 then
    let nonce ← e.hostRead s.core addr 32
    e.window s.core true (addr + 64) 736
    .ok (s, some { post := .hostWrite (addr + 64) (s.report nonce) })
  else
    let chain := Config.certChain
    need (decide (chain.length ≤ e.word 2)) (.fail .noSpace none)
    e.window s.core true addr chain.length
    .ok (s, some { detail := chain.length, post := .hostWrite addr chain })

def execAttest (c : Cmd) (s : State) : Host.Outcome State Fault Refusal := State.command 0x8006 c attest s

/-! ### The recovery mailbox -/

/-- Fields of SEC_RCV_CMD (Table 20-11). -/
def rcvOp (v : Word) : Nat := v.toNat / 2 ^ 28
def rcvKind (v : Word) : Nat := v.toNat / 2 ^ 24 % 8
def rcvCount (v : Word) : Nat := v.toNat / 65536 % 256 + 1
def rcvFirst (v : Word) : Nat := v.toNat % 1024

/-- Runs a mailbox operation in RECOVERY and reports it. -/
def State.rcvRun (s : State) (op : Nat) (v : Word) (f : Fw → Fw × Status × Nat) : State :=
  if s.core.mstate != .recovery || rcvOp v != op then s
  else
    let r := if 1 ≤ rcvKind v && rcvKind v ≤ 6 then f s.fw else (s.fw, .malformed, ringDetail 0x8003)
    { s with fw := { r.1 with result := statusCode r.2.1, detail := r.2.2 } }

/-- The slot that a BEGIN erases in RECOVERY: one not in force, or the one in force; which, no rule says (log 22). -/
def State.rcvSlot (s : State) (kind : Nat) : Bool := (Config.freeNat s.core.free 0 + (s.fw.image kind).inB.toNat) % 2 == 1

/-- COMMIT: the VALID slot is in force, with no fall-back slot; a STEWARD or DRAMTAB is in TRIAL from the next start. -/
def Fw.stageCommit (f : Fw) (kind : Nat) : Fw × Status × Nat :=
  let i := f.image kind
  match i.find .valid with
  | none => (f, .state, 0x62)
  | some b =>
    let i := i.setSlot b { (i.slot b) with state := .active }
    let i := if (i.slot !b).state.inForce || (i.slot !b).state == .fallback then
        i.setSlot (!b) { (i.slot !b) with state := .valid } else i
    (f.updImage kind fun _ => { i with left := 0, failed := false, window := 600, nextStart := kind == 1 || kind == 6 }, .ok, 0)

/-- RECOVERY_BEGIN (R472). -/
def execRecoveryBegin (v : Word) (s : State) : Host.Outcome State Fault Refusal :=
  .next (let t := s.rcvRun 1 v fun f => f.stageBegin (rcvKind v) (s.rcvSlot (rcvKind v)) true
    { t with core := { t.core with free := t.core.free + 1 } })

/-- Blocks in the 1 MB data window with the CRCs of SEC_RCV_CRC. -/
def Fw.windowBlocks (f : Fw) (n : Nat) : List (List Byte × Nat) :=
  (List.range n).map fun i => (Memory.read f.window (4096 * i) 4096, Tab.get 0 f.crcs i)

/-- WRITE of `n` blocks from block `first` onward, as FW_STAGE defines it. -/
def Fw.rcvWrite (f : Fw) (kind first : Nat) (bs : List (List Byte × Nat)) : Fw × Status × Nat :=
  if stageRoom kind < first + bs.length then (f, .malformed, ringDetail 0x8003) else f.stageWrite kind first bs

/-- RECOVERY_WRITE (R472). -/
def execRecoveryWrite (v : Word) (s : State) : Host.Outcome State Fault Refusal :=
  .next (s.rcvRun 2 v fun f => f.rcvWrite (rcvKind v) (rcvFirst v) (f.windowBlocks (rcvCount v)))

/-- RECOVERY_VERIFY (R472). -/
def execRecoveryVerify (v : Word) (s : State) : Host.Outcome State Fault Refusal :=
  .next (let t := s.rcvRun 3 v fun f => f.stageVerify (rcvKind v) (s.core.free + 1)
    { t with core := { t.core with free := t.core.free + 1 } })

/-- RECOVERY_COMMIT (R472). -/
def execRecoveryCommit (v : Word) (s : State) : Host.Outcome State Fault Refusal :=
  .next (s.rcvRun 4 v fun f => f.stageCommit (rcvKind v))

/-- RECOVERY_DOWNLOAD_MESSAGE (R472): data, or the CRC list after the data, at its offset within the run; the operation
starts once all of a WRITE has come, the others with their one message. The reply carries SEC_RCV_STAT. -/
def execRecoveryDownloadMessage (b : Bus) (v : Word) (off : Nat) (data : List Byte) (s : State) :
    Host.Outcome State Fault Refusal :=
  .next <|
    if s.core.mstate != .recovery || b == .doe || 496 < data.length then s
    else
      let n := rcvCount v
      let s := { s with mod := { s.mod with rcvBytes := Memory.write s.mod.rcvBytes off data } }
      let t := match rcvOp v with
        | 1 => s.rcvRun 1 v fun f => f.stageBegin (rcvKind v) (s.rcvSlot (rcvKind v)) true
        | 2 =>
          if 4100 * n ≤ off + data.length then
            s.rcvRun 2 v fun f => f.rcvWrite (rcvKind v) (rcvFirst v) (stageBlocks n (Memory.read s.mod.rcvBytes 0 (4100 * n)))
          else s
        | 3 => s.rcvRun 3 v fun f => f.stageVerify (rcvKind v) (s.core.free + 1)
        | _ => s.rcvRun 4 v fun f => f.stageCommit (rcvKind v)
      let t := { t with core := { t.core with free := t.core.free + 1 } }
      { t with mod := { t.mod with mctpOut := t.mod.mctpOut ++ [(b, leBytes 4 t.fw.result)] } }

end Sys2Proof.Machine
end

