-- ==== Sys2Proof/Machine/Queues.lean ====
section
/-! DEFINITION. Queues: configuration, doorbells and state changes (R77 to R84), ownership (R375), command fetch (R75,
R85, R86, R89, R90, R95, R387), draining (R82), and THAW (R122). -/

namespace Sys2Proof.Machine

/-! ### Who reaches a queue -/

/-- A function's memory BARs answer: after BOOT, link up, Memory Space Enable, not in D3hot, a VF enabled (R373, R392,
R399). -/
def Core.barOk (c : Core) (fn : Nat) : Bool :=
  mlive c.mstate && c.host.linkUp && (c.fn fn).mse && !(c.fn fn).d3 && (fn == 0 || (decide (fn ≤ 16) && c.host.vfEnable))

/-- Slot `s` of the queue map of VF `fn` (Table 16-7). -/
def vqKey (fn s : Nat) : Nat := fn * 128 + s
def Core.vq (c : Core) (fn s : Nat) : Option Nat :=
  match Tab.get 0 c.host.vqmap (vqKey fn s) with
  | 0 => none
  | k + 1 => some k

/-- The queue that a function names by its slot: the PF by number, a VF through its queue map (R380). -/
def Core.slotQ (c : Core) (fn s : Nat) : Option Nat :=
  if !c.barOk fn then none
  else if fn == 0 then (if s < 4096 then some s else none)
  else if s < 128 then c.vq fn s else none

/-- As `slotQ`, for a register that only the owning function writes (R77). -/
def Core.ownQ (c : Core) (fn s : Nat) : Option Nat := (c.slotQ fn s).filter fun q => (c.q q).func == fn

/-! ### A queue leaves -/

/-- Detail word of a command that leaves with its queue: R97; for STATE no rule gives a code, so a free value (log 18). -/
def leaveDetail (st : Status) (draw op : Nat) : Nat :=
  if st == Status.state then Config.freeNat draw 0 % 2 ^ 32 else ringDetail op

/-- One command of a leaving queue completes with a status. -/
def Core.leaveCmd (c : Core) (now q op : Nat) (cmd : Cmd) (st : Status) : Core :=
  let d := c.draw
  d.2.complete q true { tag := cmd.tag.toNat, status := st, tick := now, detail := leaveDetail st d.1 op }

/-- Runs of a ring that no sealed sheaf has admitted. -/
def Core.unadmitted (c : Core) (q : Nat) : List Run :=
  c.runs.filter fun r => r.ofRing q && !r.admitted && r.active.isEmpty && decide ((c.q q).base ≤ r.n)

/-- What a queue holds unstarted or not admitted completes with a status; its bindings end at the next build (R82,
R122). -/
def Core.leaveQ (c : Core) (now q : Nat) (st : Status) : Core :=
  let held := (c.q q).fetched
  let c := c.updQ q fun y => { y with fetched := [] }
  let c := held.foldl (fun c f => c.leaveCmd now q f.op f.cmd st) c
  let c := (c.unadmitted q).foldl (fun c r => ((c.undo r).dropRun r.id).leaveCmd now q r.op r.cmd st) c
  { c with
    bindings := c.bindings.map fun (b : Binding) => if b.queue == q then { b with ending := true } else b
    ctxs := Tab.mapAll {} c.ctxs fun _ x => if x.queue == q then { x with waitFeed := none } else x }

/-- A queue becomes DISABLED: its clips end without a record, the streams it opened drain (R296, R341). -/
def Core.qOff (c : Core) (now q : Nat) : Core :=
  let c := c.finishClips now 5 fun k => k.queue == q
  let c := (c.ctxs.filter fun x => x.2.queue == q).foldl (fun c x => c.drainCtx now x.1) c
  let c := c.updQ q Queue.off
  { c with bindings := c.bindings.map fun (b : Binding) => if b.queue == q then { b with ending := true } else b }

/-- ENABLE written 0 (R82): fetching stops, what is not admitted completes with STATE. -/
def Core.drainQ (c : Core) (now q : Nat) : Core :=
  (c.updQ q fun y => { y with draining := true }).leaveQ now q .state

/-- A draining queue has nothing left to complete. -/
def Core.qIdle (c : Core) (q : Nat) : Bool :=
  (c.q q).fetched.isEmpty && (c.q q).waiting.isEmpty && !c.insts.any (·.queue == q) &&
    !c.runs.any fun r => r.ofRing q && decide ((c.q q).base ≤ r.n)

/-- Scheduled activations write no completion once queue 0 leaves (R466). -/
def State.dropActs (s : State) : State :=
  { s with
    core := s.core.updQ 0 fun y => { y with
      reserved := y.reserved - (y.waiting.filter fun w => w.2.1 == 0x8004).length
      waiting := y.waiting.filter fun w => w.2.1 != 0x8004 }
    fw := { s.fw with acts := s.fw.acts.map fun a => { a with cmd := none } } }

/-! ### Enabling -/

/-- Pages of a ring all lie in windows of the owning function (R79). -/
def HostIf.ringOk (h : HostIf) (f : Nat) (wr : Bool) (base len : Nat) : Bool := (h.uncovered f wr base len).isNone

/-- The conditions of R79. -/
def Core.enableOk (c : Core) (q : Nat) : Bool :=
  let e := c.q q
  let f := e.func
  decide (6 ≤ e.sqLog) && decide (e.sqLog ≤ 16) && decide (6 ≤ e.cqLog) && decide (e.cqLog ≤ 16) &&
    (decide (e.rrLog ≤ 10) || e.rrLog == 0xF) &&
    c.host.ringOk f false e.sqBase (32 * e.sqSize) && c.host.ringOk f true e.cqBase (32 * e.cqSize) &&
    (e.rrLog == 0xF || c.host.ringOk f true e.rrBase (64 * e.rrUnits)) &&
    (e.part == 0x1F || (decide (e.part < 16) && (c.part e.part).state != .empty && (c.part e.part).lead.isNone && (c.part e.part).owner == f)) &&
    (!e.ivEn || decide (e.vector < vecCount f)) && (c.fn f).bme

/-- A queue that may fetch is ENABLED, else PAUSED (Table 4-8). -/
def Core.runState (c : Core) (q : Nat) : QState :=
  if (c.q q).pause || !c.mastering (c.q q).func then .paused else .enabled

/-- What an accepted enabling sets (R79): pointers, sequences and counters start afresh, with them the recorded TAIL and the
positions of the result ring, which R79 does not list (DESIGN CHOICE, log 52). -/
def Queue.start (e : Queue) : Queue :=
  { e with
    enable := true, cfgErr := false, draining := false, partGone := false, refetch := false
    sqHead := 0, sqTail := 0, cqHead := 0, cqTail := 0, seq := 0, cplDrop := 0, dbIgnored := 0, phase := true
    reserved := 0, occ := 0, rrUsed := 0, rrHead := 0, rrTail := 0, rseq := 0, fetched := [], waiting := [], base := e.nextN }

/-- ENABLE = 1 written to a DISABLED queue. -/
def Core.tryEnable (c : Core) (q : Nat) : Core :=
  if c.enableOk q then (c.updQ q Queue.start).updQ q fun y => { y with state := c.runState q }
  else c.updQ q fun y => { y with cfgErr := true }

/-- PART and VECTOR, which take a write only while DISABLED (R78); PART is fixed in queue 0. -/
def Core.setPartVec (c : Core) (q v : Nat) : Core :=
  if (c.q q).state != .disabled then c
  else c.updQ q fun y => { y with part := if q == 0 then y.part else v / 65536 % 32, vector := v % 2048 }

/-- IV_EN (R78). -/
def Core.setIvEn (c : Core) (q : Nat) (b : Bool) : Core :=
  if b && (c.q q).state != .disabled && decide (vecCount (c.q q).func ≤ (c.q q).vector) then
    c.updQ q fun y => { y with cfgErr := true }
  else c.updQ q fun y => { y with ivEn := b, cfgErr := y.cfgErr && !b }

/-- PAUSE (R80, R81). -/
def Core.setPause (c : Core) (q : Nat) (b : Bool) : Core :=
  let c := c.updQ q fun y => { y with pause := b }
  c.updQ q fun y => if y.state == .enabled || y.state == .paused then { y with state := c.runState q } else y

/-- ENABLE (R78 to R82): 1 counts only in a DISABLED queue, 0 drains a running one and is held by a frozen one. -/
def Core.setEnable (c : Core) (now q : Nat) (b : Bool) : Core :=
  let e := c.q q
  if b then (if e.state == .disabled then c.tryEnable q else c)
  else
    let c := c.updQ q fun y => { y with enable := false }
    if (e.state == .enabled || e.state == .paused) && !e.draining then c.drainQ now q else c

/-- A write of HIF_QCTL (Table 4-3). -/
def Core.writeQctl (c : Core) (now q v : Nat) : Core :=
  ((((c.setPartVec q v).setIvEn q (bitAt 15 v)).setPause q (bitAt 14 v))).setEnable now q (bitAt 13 v)

/-- As a write of HIF_QCTL, with what it does to scheduled activations. -/
def State.qctl (s : State) (q v : Nat) : State :=
  let t := { s with core := s.core.writeQctl s.tick.count q v }
  if q == 0 && !s.core.qs.isEmpty && (t.core.q 0).draining && !(s.core.q 0).draining then t.dropActs else t

/-- QUEUE_ENABLE: a HIF_QCTL write with ENABLE 1 (R79). -/
def execQueueEnable (fn slot : Nat) (v : Word) (s : State) : Host.Outcome State Fault Refusal :=
  .next <|
    match s.core.ownQ fn slot with
    | none => s
    | some q => if bitAt 13 v.toNat then s.qctl q v.toNat else s

/-- QUEUE_DISABLE: a HIF_QCTL write with ENABLE 0 (R82). -/
def execQueueDisable (fn slot : Nat) (v : Word) (s : State) : Host.Outcome State Fault Refusal :=
  .next <|
    match s.core.ownQ fn slot with
    | none => s
    | some q => if bitAt 13 v.toNat then s else s.qctl q v.toNat

/-- QUEUE_PAUSE: a write of PAUSE, the other fields as they stand (R80, R81). -/
def execQueuePause (fn slot : Nat) (p : Bool) (s : State) : Host.Outcome State Fault Refusal :=
  onCore (fun c =>
    match c.ownQ fn slot with
    | none => c
    | some q => c.setPause q p) s

/-- IV_EN_WRITE: a write of IV_EN, the other fields as they stand (R78). -/
def execIvEnWrite (fn slot : Nat) (b : Bool) (s : State) : Host.Outcome State Fault Refusal :=
  onCore (fun c =>
    match c.ownQ fn slot with
    | none => c
    | some q => c.setIvEn q b) s

/-- QUEUE_DRAINED (R82). -/
def execQueueDrained (q : Nat) (s : State) : Host.Outcome State Fault Refusal :=
  onCoreT (fun now c => if (c.q q).draining && c.qIdle q then c.qOff now q else c) s

/-! ### Ownership -/

/-- The queue map of a VF loses a queue. -/
def Core.unmapQ (c : Core) (q : Nat) : Core :=
  c.updHost fun h => { h with vqmap := h.vqmap.filter fun e => e.2 != q + 1 }

/-- The lowest free slot of a VF's queue map. -/
def Core.freeSlot (c : Core) (fn : Nat) : Option Nat := (List.range 128).find? fun s => (c.vq fn s).isNone

/-- A write of FUNC to HIF_QOWN of queue `q` (R78, R375). -/
def Core.setFunc (c : Core) (q f : Nat) : Core :=
  if q == 0 || (c.q q).state != .disabled || 16 < f || (c.q q).func == f then c
  else if f == 0 then (c.unmapQ q).updQ q fun y => { y with func := 0 }
  else
    match c.freeSlot f with
    | none => c
    | some s =>
      ((c.unmapQ q).updHost fun h => { h with vqmap := Tab.set 0 h.vqmap (vqKey f s) (q + 1) }).updQ q fun y =>
        { y with func := f }

/-- HIF_QOWN_WRITE: only the PF writes it (R77, R375). -/
def execHifQownWrite (fn slot : Nat) (v : Word) (s : State) : Host.Outcome State Fault Refusal :=
  onCore (fun c => if fn == 0 && c.barOk 0 && decide (slot < 4096) then c.setFunc slot (v.toNat % 32) else c) s

/-! ### Doorbells -/

/-- A doorbell write is ignored and counted (R83, R84). -/
def Core.dbIgnore (c : Core) (q : Nat) : Core := c.updQ q fun y => { y with dbIgnored := satAdd 0xFFFF y.dbIgnored 1 }

/-- A doorbell write that reaches a queue: ignored through the page of another function or while the queue is DISABLED
or FROZEN; a violation for a value out of range (R83, R84). -/
def Core.doorbell (c : Core) (now fn slot value limit : Nat) (f : Queue → Queue) : Core :=
  match c.slotQ fn slot with
  | none => c
  | some q =>
    let e := c.q q
    if e.func != fn || e.state == .disabled || e.state == .frozen then c.dbIgnore q
    else if limit ≤ value then c.freezeQ now q 3 value 0
    else c.updQ q f

/-- Limit of a doorbell of a slot's queue. -/
def Core.slotLimit (c : Core) (fn slot : Nat) (f : Queue → Nat) : Nat :=
  match c.slotQ fn slot with
  | none => 0
  | some q => f (c.q q)

/-- Entries between two positions of a ring. -/
def ringDist (size a b : Nat) : Nat := (b + size - a % size) % size

/-- Slots returned by a new HEAD: those it passes, up to what is occupied (R87). -/
def returned (size used old new tail : Nat) : Nat :=
  if ringDist size old new ≤ used then used - ringDist size old new else ringDist size new tail

/-- DOORBELL_SQ (R84). -/
def execDoorbellSq (fn slot : Nat) (v : Word) (s : State) : Host.Outcome State Fault Refusal :=
  let t := v.toNat % 65536
  onCoreT (fun now c => c.doorbell now fn slot t (c.slotLimit fn slot Queue.sqSize) fun y => { y with sqTail := t }) s

/-- DOORBELL_CQ (R87). -/
def execDoorbellCq (fn slot : Nat) (v : Word) (s : State) : Host.Outcome State Fault Refusal :=
  let h := v.toNat % 65536
  onCoreT (fun now c => c.doorbell now fn slot h (c.slotLimit fn slot Queue.cqSize) fun y =>
    { y with cqHead := h, occ := returned y.cqSize y.occ y.cqHead h y.cqTail }) s

/-- DOORBELL_RR (R84, R362); with no result ring it does nothing. -/
def execDoorbellRr (fn slot : Nat) (v : Word) (s : State) : Host.Outcome State Fault Refusal :=
  let h := v.toNat % 2 ^ 20
  onCoreT (fun now c => c.doorbell now fn slot h
    (c.slotLimit fn slot fun e => if e.rrLog == 0xF then 2 ^ 20 else e.rrUnits) fun y =>
    if y.rrLog == 0xF then y
    else { y with rrHead := h, rrUsed := returned y.rrUnits y.rrUsed y.rrHead h y.rrTail }) s

/-! ### Command fetch -/

/-- The handle that a ring command names in word 0 (R95). -/
def ringHandle (op : Nat) (c : Cmd) : Option Nat :=
  if op ∈ [0x000D, 0x6002, 0x6003, 0x6004, 0x6005] || (op == 0x7005 && c.sub == 1) || (op == 0x7006 && c.sub == 0) then
    some c.w0.toNat else none

/-- The source may give the opcode (R74, R75), and no field is out of order (R11, R89, R90). -/
def ringCmdOk (q op : Nat) (c : Cmd) : Bool :=
  (if q == 0 then (opSources op).a else (opSources op).q) && cmdClean false op c && !cmdHasScalar false op c

/-- A handle of another partition (R120): one whose partition field is not the queue's, whatever its number, so the null handle too
where its field differs (DESIGN CHOICE, log 52). -/
def badHandle (part op : Nat) (c : Cmd) : Option Nat :=
  (ringHandle op c).filter fun h => decide (part < 16) && handlePart h != part

/-- A fetched entry: it waits to start, or completes at once with MALFORMED or VIOLATION; an INVOKE makes its instance (R102). In QUIET
what is malformed by its fields is MALFORMED here, and what its body would refuse completes with STATE when it starts (R115; DESIGN
CHOICE, log 52). -/
def Core.accept (c : Core) (now q op : Nat) (cmd : Cmd) : Core :=
  let e := c.q q
  let c := c.updQ q fun y => { y with nextN := y.nextN + 1, reserved := y.reserved + 1, sqHead := (y.sqHead + 1) % y.sqSize }
  let fin (c : Core) (st : Status) : Core := c.complete q true { tag := cmd.tag.toNat, status := st, tick := now, detail := ringDetail op }
  if !ringCmdOk q op cmd then fin c .malformed
  else
    match badHandle e.part op cmd with
    | some h => fin (c.freezeQ now q 1 h (ringDetail op)) .violation
    | none =>
      let c := c.updQ q fun y => { y with fetched := y.fetched ++ [{ n := e.nextN, op := op, cmd := cmd }] }
      if op == 0x000D then Core.command 0x000D cmd invokeCmd ⟨now, [], 0⟩ c else c

/-- A queue from which a command may be fetched now (R81, R85, R86, R115, R387, R389). -/
def Core.mayFetch (c : Core) (q : Nat) : Bool :=
  let e := c.q q
  mlive c.mstate && (c.mstate != .quiet || q == 0) && e.state == .enabled && !e.draining && !e.refetch &&
    e.sqHead != e.sqTail && decide (e.occ + e.reserved < e.cqSize) && c.mastering e.func

/-- COMMAND_FETCH (R86, R102, R387): one device read of the entry at SQ_HEAD, which ends as `r` says. -/
def Core.fetch (c : Core) (now q : Nat) (r : ReadEnd) : Core :=
  let e := c.q q
  if !c.mayFetch q then c
  else
    let addr := e.sqBase + 32 * e.sqHead
    match c.host.uncovered e.func false addr 32, c.newTag e.func with
    | some a, _ => c.freezeQ now q 2 a 0
    | none, none => c
    | none, some t =>
      let c := c.useTag e.func t
      if r == ReadEnd.ok then
        let x := parseCmd (.ring q) (Memory.read c.host.mem addr 32)
        c.accept now q x.1 x.2
      else
        (c.failTag e.func t r).updQ q fun y => { y with refetch := true }

def execCommandFetch (q : Nat) (r : ReadEnd) (s : State) : Host.Outcome State Fault Refusal :=
  onCoreT (fun now c => c.fetch now q r) s

/-! ### THAW -/

/-- Instances that an INVOKE made and no sealed sheaf has admitted end with their queue's VIOLATION. -/
def Core.discardInsts (c : Core) (now q : Nat) : Core :=
  (c.insts.filter fun i => i.queue == q && !i.admitted && i.binding.isNone).foldl
    (fun c i => c.endInst now i .violation (ringDetail 0x000D)) c

/-- Release of a frozen queue (R122): resumed, drained when ENABLE was written 0, or discarded. -/
def Core.thawQ (c : Core) (now q : Nat) (discard : Bool) : Core :=
  if discard || (c.q q).partGone then ((c.leaveQ now q .violation).discardInsts now q).qOff now q
  else
    let c := c.updQ q fun y => { y with state := c.runState q }
    if (c.q q).enable then c else c.drainQ now q

/-- THAW (R122). -/
def thaw (s : State) (e : Env) : Except Stop (State × Option Run) := do
  let k := e.word 1
  if e.word 0 == 0 then
    need (decide (k < 4096)) .malformed
    need ((s.core.q k).state == .frozen) (.fail .state none)
    .ok ({ s with core := s.core.thawQ e.now k (e.sub == 1) }, some (quick 0))
  else
    need (e.word 0 == 1 && decide (k < 6)) .malformed
    need (s.link.port k).frozen (.fail .state none)
    .ok ({ s with link := s.link.updPort k fun p => { p with frozen := false } }, some (quick 0))

def execThaw (c : Cmd) (s : State) : Host.Outcome State Fault Refusal := State.command 0x8007 c thaw s

end Sys2Proof.Machine
end

