-- ==== Sys2Proof/Machine/Admin.lean ====
section
/-! DEFINITION. LEDGER_SET (R69, R70), TICK_SET (R29, R30, R491), CHAIN_FORM (R427, Table 18-5), QUIET (R412, R413) and
the read of the tick count (R31). -/

namespace Sys2Proof.Machine

/-! ### LEDGER_SET and TICK_SET -/

/-- LEDGER_SET: a later one replaces a change that has not taken effect (R70). -/
def ledgerSet (s : State) (e : Env) : Except Stop (State × Option Run) := do
  let w := if e.sub == 0 then e.word 0 else strapW s.led.strap
  need (decide (40 ≤ w) && decide (w ≤ strapW s.led.strap)) .malformed
  let eff := max (e.long 1) (e.now + 2)
  .ok ({ s with led := { s.led with pending := some (w, eff) } }, some (quick (eff % 2 ^ 32)))

def execLedgerSet (c : Cmd) (s : State) : Host.Outcome State Fault Refusal := State.command 0x8008 c ledgerSet s

/-- Ranges of R29. -/
def tickOk (period cutoff hem : Nat) : Bool :=
  decide (1000000 ≤ period) && decide (period ≤ 100000000) &&
    decide (500 ≤ cutoff) && decide (cutoff ≤ 5000) && decide (2000 * cutoff ≤ period) &&
    decide (120 ≤ hem) && decide (hem ≤ 2000) && decide (4000 * hem ≤ period)

/-- TICK_SET (R29, R30, R491): a later one replaces a change that has not taken effect. Source 2 on the tick master of a formed
chain, or in one without a master, is taken: SOURCE reads links and boundaries run as internal. On a tick master an effective tick
of current + 2 or + 3 becomes current + 4 too: R30 can also be read as moving only ticks before current + 2 (DESIGN CHOICE, log 52). -/
def tickSet (s : State) (e : Env) : Except Stop (State × Option Run) := do
  let cutoff := e.word 1 % 65536
  let hem := e.word 1 / 65536
  need (tickOk (e.word 0) cutoff hem) .malformed
  need (!s.tick.follower) (.state 0x42)
  need (e.sub != 2 || s.link.formed) (.state 0x44)
  let eff := max (e.long 2) (e.now + if s.link.isMaster then 4 else 2)
  .ok ({ s with tick := { s.tick with
    change := some { source := e.sub, period := e.word 0, cutoff := cutoff, hem := hem, effTick := eff } } },
    some (quick (eff % 2 ^ 32)))

def execTickSet (c : Cmd) (s : State) : Host.Outcome State Fault Refusal := State.command 0x8009 c tickSet s

/-- TCK_COUNT_LO_READ (R31): the read latches the high word. -/
def execTckCountLoRead (s : State) : Host.Outcome State Fault Refusal :=
  .next (if s.core.barOk 0 then { s with tick := { s.tick with hiLatch := s.tick.count / 2 ^ 32 } } else s)

/-! ### CHAIN_FORM -/

/-- Entry `i` of a routing table within Table 18-5. -/
def routeEntry (t : Table) (l : List Byte) : Option Route :=
  let r : Route := { dest := leAt l 0 2, prim := leAt l 2 1, alt := leAt l 3 1, hops := leAt l 4 2, altHops := leAt l 6 2, ring := leAt l 8 2 }
  let ringOk := if t.topo == 2 then
      (decide (r.ring < t.size) || r.ring == 0xFFFF) &&
        (r.ring == 0xFFFF || (r.prim == t.cw && r.alt == t.ccw) || (r.prim == t.ccw && r.alt == t.cw))
    else r.ring == 0xFFFF && r.alt == 0xFF
  if 1 ≤ r.dest && r.dest ≤ 0xFFFE && r.dest != t.id && r.prim ≤ 5 && (r.alt ≤ 5 || r.alt == 0xFF) && 1 ≤ r.hops &&
      (r.alt != 0xFF || r.altHops == 0) && ringOk && zeroAt l 10 16 then some r else none

/-- Header of a routing table: everything but its entries. -/
def tableHead (l : List Byte) : Option Table :=
  let p := leAt l 3 1
  let t : Table := { id := leAt l 0 2, topo := leAt l 2 1, cw := p % 8, ccw := p / 16 % 8, size := leAt l 4 2, index := leAt l 6 2 }
  let ringOk := if t.topo == 2 then
      p &&& 0x77 == p && decide (t.cw ≤ 5) && decide (t.ccw ≤ 5) && t.cw != t.ccw && decide (3 ≤ t.size) &&
        decide (t.size ≤ 65534) && decide (t.index < t.size)
    else p == 0 && t.size == 0 && t.index == 0
  if 1 ≤ t.id && t.id ≤ 0xFFFE && 1 ≤ t.topo && t.topo ≤ 3 && ringOk && zeroAt l 12 64 then some t else none

/-- No element occurs twice. -/
def distinct (l : List Nat) : Bool := l.dedup.length == l.length

/-- A routing table within Table 18-5, in `len` bytes. -/
def parseTable (l : List Byte) (len : Nat) : Option Table :=
  let n := leAt l 8 4
  match tableHead l with
  | none => none
  | some t =>
    let rs := (List.range n).filterMap fun i => routeEntry t ((l.drop (64 + 16 * i)).take 16)
    if 1 ≤ n && n ≤ 65534 && len == 64 + 16 * n && rs.length == n && distinct (rs.map (·.dest)) then
      some { t with routes := rs } else none

/-- Modules of the spanned partitions that have their lead or a member here, this module left out. -/
def Core.spanMods (c : Core) : List Nat :=
  c.parts.flatMap fun e =>
    if !e.2.counts then [] else
    match e.2.lead with
    | some x => [x.1]
    | none => e.2.grants.members.map (·.1)

/-- A new table changes the module ID or takes the route to a module of a spanned partition away (R427). -/
def State.breaksSpan (s : State) (t : Table) : Bool :=
  let ms := s.core.spanMods
  !ms.isEmpty && (t.id != s.link.table.id || ms.any fun m => !t.routes.any (·.dest == m))

/-- CHAIN_FORM (R427): it completes at the boundary at which it takes effect. -/
def chainForm (s : State) (e : Env) : Except Stop (State × Option Run) := do
  let t ← if e.sub == 0 then do
      let l ← e.hostRead s.core (e.long 0) (e.word 2)
      match parseTable l (e.word 2) with
      | some t => .ok t
      | none => .error Stop.malformed
    else .ok {}
  need (!s.breaksSpan t) (.state 0x40)
  need s.link.pending.isNone (.state 0x41)
  .ok ({ s with link := { s.link with pending := some (t, e.now + 2, e.cmd) } }, none)

def execChainForm (c : Cmd) (s : State) : Host.Outcome State Fault Refusal := State.command 0x800A c chainForm s

/-! ### QUIET -/

/-- The PASR segment in which a 2 MB segment of a partition's DRAM lies: placement's choice, a free value (R265, R413, log 16). Its
packed reservations, stream contexts and replay caches have segments of their own (R498). -/
def dramSeg (part kind unit : Nat) : Nat := Config.segments part (3 * unit + kind) % 8

/-- The 2 MB segments of a byte range. -/
def dramUnits (a n : Nat) : List Nat := if n == 0 then [] else (List.range ((a + n - 1) / 2097152 + 1 - a / 2097152)).map (· + a / 2097152)

/-- PASR segments of a range of packed reservations, of a stream context, of the 2 MB segments of a replay cache. -/
def packedSegs (part a n : Nat) : List Nat := (dramUnits a n).map (dramSeg part 0)
def ctxSegs (k : Nat) (x : Ctx) : List Nat := (List.range x.segs).map fun i => dramSeg x.part 1 (k * 65536 + i)
def cacheSegs (part j : Nat) (l : List Nat) : List Nat := l.map fun i => dramSeg part 2 (j * 1048576 + i)

/-- Segments in which a partition holds DRAM (DRC_SEG). -/
def Core.segsOf (c : Core) (k : Nat) : Nat :=
  let l := ((c.dramMap k).flatMap fun r => packedSegs k r.1 r.2) ++
    ((c.ctxs.filter fun e => e.2.part == k && e.2.state != .closed).flatMap fun e => ctxSegs e.1 e.2) ++
    (c.part k).caches.flatMap fun e => cacheSegs k e.1 e.2.segs
  l.dedup.foldl (fun n i => n + 2 ^ i) 0

/-- Partitions that hold DRAM in a segment that is not kept. -/
def Core.unkept (c : Core) (kept : Nat) : List Nat :=
  (List.range 16).filter fun k => c.segsOf k &&& (255 - kept % 256) != 0

/-- No admitted step is left and the controllers' queues are empty. -/
def State.drained (s : State) : Bool :=
  !(s.core.runs.any fun r => r.admitted || !r.active.isEmpty) && s.dram.drcs.all fun d => d.2.readQ.isEmpty && d.2.writeQ.isEmpty && d.2.issued.isEmpty

/-- Detail word of QUIET sub-operation 0: one bit per partition. -/
def State.quietDetail (s : State) : Nat := (s.core.unkept s.dram.kept).foldl (fun n k => n + 2 ^ k) 0

/-- A QUIET entry completes once everything has drained: the devices are in self-refresh. -/
def State.quietDone (s : State) : State :=
  match s.dram.entering with
  | none => s
  | some cmd =>
    if !s.drained then s
    else
      { s with
        core := s.core.doneLate s.tick.count 0x800B cmd .ok s.quietDetail
        dram := { s.dram with entering := none, sr := true } }

/-- Words of a copy with a byte in a lost segment: all of it where it rests in DRAM, whole pages of a PAGED one (R413). -/
def Core.lostWords (c : Core) (gone : List Nat → Bool) (x : Copy) : List Nat :=
  match c.buf? x.part x.buf with
  | none => []
  | some b =>
    if b.kind == 2 then
      let n := 16 * 2 ^ b.page * rowBytes b.desc.dtype (dim b.desc.maxDims 0)
      (x.pageAt.filter fun p => gone (packedSegs x.part p.2 (pageBytes b))).flatMap fun p => wordsOf (p.1 * n) n
    else match x.place with
      | .dram a => if gone (packedSegs x.part a b.desc.capacity) then wordsOf 0 b.desc.capacity else []
      | _ => []

/-- QUIET exit: what lay in an unkept segment is lost (R413). -/
def Core.loseSegs (c : Core) (now kept : Nat) : Core :=
  let gone (l : List Nat) : Bool := l.any fun i => i < 8 && !bitAt i kept
  let copies := c.copies.map fun x => { x with lost := (x.lost ++ c.lostWords gone x).dedup }
  let c := { c with copies := copies }
  let c := { c with parts := Tab.mapAll {} c.parts fun k p => { p with caches := Tab.mapAll {} p.caches fun j q =>
    let hit (y : Slot) : Slot := if gone (cacheSegs k j [q.segOf y.idx]) then { y with bad := true } else y
    { q with slots := q.slots.map hit, pend := q.pend.map hit } } }
  (c.ctxs.filter fun x => (x.2.state == .opened || x.2.state == .running) && gone (ctxSegs x.1 x.2)).foldl
    (fun c x => c.stopStream now x.1 7 x.2.lastPic none) c

/-- QUIET (R115, R412). Its exit repeats the bring-up, which starts the refresh grid anew (R408, R411). -/
def quiet (s : State) (e : Env) : Except Stop (State × Option Run) := do
  if e.sub == 0 then
    need (s.core.mstate == .ready) (.state (mstateCode s.core.mstate))
    let s := { s with
      core := s.core.setM .quiet
      dram := { s.dram with kept := (e.word 0 ||| 1) % 256 } }
    if s.drained then .ok ({ s with dram := { s.dram with sr := true } }, some (quick s.quietDetail))
    else .ok ({ s with dram := { s.dram with entering := some e.cmd } }, none)
  else
    need (s.core.mstate == .quiet) (.state (mstateCode s.core.mstate))
    need s.dram.entering.isNone .wait
    let d := (s.core.loseSegs e.now s.dram.kept).draw
    .ok ({ s with
      core := d.2.setM .ready
      dram := { s.dram with sr := false, phase := Config.freeNat d.1 0 % 3904 } }, some (quick 0))

def execQuiet (c : Cmd) (s : State) : Host.Outcome State Fault Refusal := State.command 0x800B c quiet s

end Sys2Proof.Machine
end

