-- ==== Sys2Proof/Machine/HostRows.lean ====
section
/-! DEFINITION. The host interface: completions and timeouts of device reads (R385 to R388), bus mastering and D3hot
(R373, R389 to R391), function resets (R393 to R395), the link (R369, R392), messages (R383), and register writes (R9,
R10, R377, R380). -/

namespace Sys2Proof.Machine

/-! ### Reads -/

def Core.rd? (c : Core) (fn tag : Nat) : Option Rd := c.host.reads.find? fun r => r.fn == fn && r.tag == tag
def Core.dropRd (c : Core) (fn tag : Nat) : Core :=
  c.updHost fun h => { h with reads := h.reads.filter fun r => !(r.fn == fn && r.tag == tag) }
def Core.quarantineRd (c : Core) (fn tag : Nat) (poisoned : Bool) : Core :=
  c.updHost fun h => { h with reads := listSet h.reads (fun r => r.fn == fn && r.tag == tag) fun r =>
    { r with quarantine := true, poisoned := poisoned } }

/-- An FLR ends its wait for reads when none is outstanding (R393). -/
def Core.flrCheck (c : Core) (fn : Nat) : Core :=
  if (c.fn fn).flr && c.outstanding fn == 0 then c.updFn fn fun x => { x with flr := false } else c

/-- A completion has landed in full: a run whose last step has ended commits after its last one (R385). -/
def Core.landRead (c : Core) (now fn tag : Nat) : Core :=
  match c.rd? fn tag with
  | none => c
  | some d =>
    if d.quarantine then c
    else
      let c := (c.dropRd fn tag).flrCheck fn
      match c.run? d.run with
      | none => c
      | some r =>
        let r := { r with reads := r.reads - 1 }
        let c := c.updRun r.id fun _ => r
        if r.done then c.endRun now r else c

/-- HOST_READ_COMPLETION (R385). -/
def execHostReadCompletion (fn tag : Nat) (s : State) : Host.Outcome State Fault Refusal :=
  onCoreT (fun now c => c.landRead now fn tag) s

/-- A read has failed: its tag is freed or quarantined, and the command that owns it completes at once with
HOST_READ_TIMEOUT (R387, R388). -/
def Core.failRead (c : Core) (now fn tag : Nat) (r : ReadEnd) : Core :=
  match c.rd? fn tag with
  | none => c
  | some d =>
    if d.quarantine then c
    else
      let c := c.readFailed r
      let c := if ReadEnd.quarantines r then c.quarantineRd fn tag (ReadEnd.isPoison r) else c.dropRd fn tag
      let c := c.flrCheck fn
      match c.run? d.run with
      | none => c
      | some x => c.failRun now x .hostReadTimeout

/-- COMPLETION_TIMEOUT (R386, R387). -/
def execCompletionTimeout (fn tag : Nat) (s : State) : Host.Outcome State Fault Refusal :=
  onCoreT (fun now c => c.failRead now fn tag .timeout) s

/-- HOST_READ_ERROR_COMPLETION (R387, R388): Unsupported Request, Completer Abort or poison. -/
def execHostReadErrorCompletion (fn tag : Nat) (r : ReadEnd) (s : State) : Host.Outcome State Fault Refusal :=
  onCoreT (fun now c =>
    match r with
    | .ok | .timeout => c
    | .ur | .ca | .poison _ => c.failRead now fn tag r) s

/-- LATE_COMPLETION (R388): discarded, the quarantine ends; counted unless it is the rest of a poisoned read. -/
def execLateCompletion (fn tag : Nat) (s : State) : Host.Outcome State Fault Refusal :=
  onCore (fun c =>
    match c.rd? fn tag with
    | none => c
    | some d =>
      if !d.quarantine then c
      else
        let c := c.dropRd fn tag
        if d.poisoned then c
        else (c.updHost fun h => { h with late := satAdd 0xFFFF h.late 1, aer := h.aer + 1 }).errBit 2) s

/-- QUARANTINE_EXPIRY (R388). -/
def execQuarantineExpiry (fn tag : Nat) (s : State) : Host.Outcome State Fault Refusal :=
  onCore (fun c =>
    match c.rd? fn tag with
    | none => c
    | some d => if d.quarantine then c.dropRd fn tag else c) s

/-! ### Bus mastering -/

/-- Opcodes whose ring commands read host memory. -/
def readsHost (op : Nat) (c : Cmd) : Bool :=
  op ∈ [0x4001, 0x4002, 0x6001, 0x6003, 0x7001, 0x7003, 0x7007] ||
    (op ∈ [0x5002, 0x5005, 0x7005, 0x8006, 0x800A] && c.sub == 0) || (op == 0x8003 && c.sub == 1)

/-- Commands of a function with reads outstanding or not yet issued complete with HOST_READ_TIMEOUT (R389), and what depends on them with
DEPENDENCY (R113). -/
def Core.failReads (c : Core) (now f : Nat) : Core :=
  let mine (q : Nat) : Bool := (c.q q).func == f
  let c := (c.runs.filter fun r => mine r.queue && !r.dead && !r.internal && readsHost r.op r.cmd).foldl
    (fun c r => c.failRun now r .hostReadTimeout) c
  c.qs.foldl (fun c e =>
    if e.2.func != f then c
    else (e.2.fetched.filter fun g => readsHost g.op g.cmd).foldl (fun c g =>
      let c := (c.updQ e.1 fun y => { y with fetched := y.fetched.filter fun x => x.n != g.n }).complete e.1 true
        { tag := g.cmd.tag.toNat, status := .hostReadTimeout, tick := now, detail := ringDetail g.op }
      if g.op != 0x6003 then c
      else c.failRing now e.1 [handleNum g.cmd.w0.toNat] ((c.q e.1).fetched.filter fun x => decide (g.n < x.n)))
      { c with ctxs := Tab.mapAll {} c.ctxs fun _ x => if x.queue == e.1 then { x with waitFeed := none } else x }) c

/-- From the moment a function stops mastering (R389): outstanding reads are quarantined, their commands and those not
issued fail, its queues pause. -/
def Core.stopMaster (c : Core) (now f : Nat) : Core :=
  let c := c.updHost fun h => { h with reads := listSet h.reads (fun r => r.fn == f) fun r => { r with quarantine := true } }
  let c := c.failReads now f
  { c with qs := Tab.mapAll {} c.qs fun _ q => if q.func == f && q.state == .enabled then { q with state := .paused } else q }

/-- A held write is issued: the windows then in force are the ones that count (R120, R381, R382). -/
def Core.landHeld (c : Core) (now : Nat) (w : Held) : Core :=
  match c.host.uncovered w.fn true w.addr w.data.length with
  | some a => c.freezeQ now w.queue 2 a 0
  | none => c.updHost fun h => { h with mem := Memory.write h.mem w.addr w.data }

/-- Held writes of a function land in their order, then owed messages are sent, then its queues are fetched again
(R391). -/
def Core.resumeMaster (c : Core) (now f : Nat) : Core :=
  if !c.mastering f then c
  else
    let c := c.updFn f fun x => { x with woken := false }
    let mine := c.host.held.filter (·.fn == f)
    let c := c.updHost fun h => { h with held := h.held.filter (·.fn != f) }
    let c := mine.foldl (fun c w => c.landHeld now w) c
    let owed := c.host.vecs.filter fun e => e.1 / 4096 == f && e.2.owed
    let c := owed.foldl (fun c e => (c.updVec f (e.1 % 4096) fun x => { x with owed := false }).msg f (e.1 % 4096)) c
    let qs := c.qs.filter fun e => e.2.func == f && e.2.state == .paused
    qs.foldl (fun c e => c.updQ e.1 fun y => { y with state := c.runState e.1 }) c

/-- BUS_MASTER_DISABLE (R389, R390). -/
def execBusMasterDisable (fn : Nat) (s : State) : Host.Outcome State Fault Refusal :=
  onCoreT (fun now c =>
    if 16 < fn then c
    else
      let was := c.mastering fn
      let c := c.updFn fn fun x => { x with bme := false }
      if was then c.stopMaster now fn else c) s

/-- BUS_MASTER_ENABLE (R391). -/
def execBusMasterEnable (fn : Nat) (s : State) : Host.Outcome State Fault Refusal :=
  onCoreT (fun now c => if 16 < fn then c else (c.updFn fn fun x => { x with bme := true }).resumeMaster now fn) s

/-- D3HOT_ENTRY (R373). -/
def execD3hotEntry (fn : Nat) (s : State) : Host.Outcome State Fault Refusal :=
  onCoreT (fun now c =>
    if 16 < fn then c
    else
      let was := c.mastering fn
      let c := c.updFn fn fun x => { x with d3 := true, woken := true }
      if was then c.stopMaster now fn else c) s

/-- D0_RETURN (R373): R391 applies once Memory Space Enable and bus-master enable are both set. -/
def execD0Return (fn : Nat) (s : State) : Host.Outcome State Fault Refusal :=
  onCoreT (fun now c =>
    if 16 < fn then c
    else
      let c := c.updFn fn fun x => { x with d3 := false }
      if (c.fn fn).mse then c.resumeMaster now fn else c) s

/-! ### Function resets -/

/-- The reset configuration of a queue's entry, which belongs to the PF then (R393). -/
def Queue.reset (e : Queue) : Queue := { nextN := e.nextN, base := e.nextN }

/-- What an FLR does to a function (R393): reads fail and are waited for, queues are disabled, held writes discarded, its
partitions destroyed, its configuration space and queue map reset. -/
def Core.flr (c : Core) (now f : Nat) : Core :=
  let c := c.updFn f fun x => { x with flr := true }
  let c := c.failReads now f
  let c := (c.qs.filter fun e => e.2.func == f && e.2.state != .disabled).foldl (fun c e => c.qOff now e.1) c
  let c := c.updHost fun h => { h with held := h.held.filter (·.fn != f) }
  let parts := c.parts.filter fun e => e.2.owner == f && e.2.lead.isNone &&
    (e.2.state == .loading || e.2.state == .resident || e.2.state == .active)
  let c := parts.foldl (fun c e => c.drainPart now e.1) c
  let c := { c with qs := Tab.mapAll {} c.qs fun _ q => if q.func == f then q.reset else q }
  let c := c.updHost fun h => { h with
    held := h.held.filter (·.fn != f)
    vecs := h.vecs.filter fun e => e.1 / 4096 != f
    vqmap := h.vqmap.filter fun e => e.1 / 128 != f || f == 0 }
  (c.updFn f fun x => { flr := true, nextTag := x.nextTag }).flrCheck f

/-- VF_FLR (R393). -/
def execVfFlr (fn : Nat) (s : State) : Host.Outcome State Fault Refusal :=
  onCoreT (fun now c => if 1 ≤ fn && fn ≤ 16 then c.flr now fn else c) s

/-- FLR_READ_WAIT_EXPIRY (R393): reads still outstanding are treated as timed out. -/
def execFlrReadWaitExpiry (fn : Nat) (s : State) : Host.Outcome State Fault Refusal :=
  onCore (fun c =>
    if !(c.fn fn).flr then c
    else (c.updHost fun h => { h with
      reads := listSet h.reads (fun r => r.fn == fn) fun r => { r with quarantine := true } }).flrCheck fn) s

/-- PF FLR (R394): every VF, the PF's own queues and partitions, VF Enable, the window table, HIF_ERR_VEC and
HIF_INTAKE. -/
def State.pfReset (s : State) : State :=
  let now := s.tick.count
  let s := s.dropActs
  let c := (List.range 17).foldl (fun c f => c.flr now (16 - f)) s.core
  { s with core := c.updHost fun h => { h with vfEnable := false, windows := [], errVec := 0, intake := 8 } }

/-- A module that runs, or waits in BOOT or RECOVERY: it has a supply and no reset is in force. -/
def State.alive (s : State) : Bool := s.core.mstate != .off

/-- PF_FLR. -/
def execPfFlr (s : State) : Host.Outcome State Fault Refusal := .next (if s.alive then s.pfReset else s)

/-- HOT_RESET (R395). -/
def execHotReset (s : State) : Host.Outcome State Fault Refusal := .next (if s.alive then s.pfReset else s)

/-- The link goes down: no request is made until it is up again (R395). -/
def State.linkGone (s : State) : State :=
  let s := { s with core := s.core.updHost fun h => { h with linkUp := false } }
  if s.alive then s.pfReset else s

/-- PERST_ASSERT (R395). -/
def execPerstAssert (s : State) : Host.Outcome State Fault Refusal :=
  .next ({ s with core := s.core.updHost fun h => { h with perst := true } }).linkGone

/-- PCIE_LINK_DOWN (R395). -/
def execPcieLinkDown (s : State) : Host.Outcome State Fault Refusal := .next s.linkGone

/-- Generations and widths to which the endpoint trains (R369). -/
def trainOk (gen width : Nat) : Bool := decide (1 ≤ gen) && decide (gen ≤ 6) && (width == 4 || width == 8 || width == 16)

/-- PCIE_RETRAIN (R369): the planning rate follows from the next build. A module reset keeps the link down (R483). -/
def execPcieRetrain (gen width : Nat) (s : State) : Host.Outcome State Fault Refusal :=
  onCore (fun c => if trainOk gen width && !c.host.perst && !s.mod.inReset then
    c.updHost fun h => { h with linkUp := true, gen := gen, width := width } else c) s

/-- PERST_DEASSERT (R392, R482): the link trains and configuration space answers, whatever the module state; in a module
reset it stays down (R483). -/
def execPerstDeassert (gen width : Nat) (s : State) : Host.Outcome State Fault Refusal :=
  onCore (fun c => if c.host.perst && trainOk gen width then
    c.updHost fun h => { h with perst := false, linkUp := !s.mod.inReset, gen := gen, width := width } else c) s

/-! ### Messages -/

/-- MSIX_RATE_LIMIT_RELEASE (R383): 1 µs has passed; a message that was delayed is sent. -/
def execMsixRateLimitRelease (fn vec : Nat) (s : State) : Host.Outcome State Fault Refusal :=
  onCore (fun c =>
    let v := c.vec fn vec
    let c := c.updVec fn vec fun x => { x with hold := false, delayed := false }
    if v.delayed then c.msg fn vec else c) s

/-- A vector becomes unmasked: a pending message is sent (R383). -/
def Core.unmask (c : Core) (fn vec : Nat) : Core :=
  let c := c.updVec fn vec fun x => { x with masked := false }
  if (c.vec fn vec).pending && !(c.fn fn).fnMask then
    (c.updVec fn vec fun x => { x with pending := false }).msg fn vec
  else c

/-- MSIX_UNMASK. -/
def execMsixUnmask (fn vec : Nat) (s : State) : Host.Outcome State Fault Refusal :=
  onCore (fun c => if c.barOk fn && decide (vec < vecCount fn) then c.unmask fn vec else c) s

/-! ### Register writes -/

/-- A write to a window entry (Table 16-8). -/
def Window.put (w : Window) (r v : Nat) : Window :=
  if r == 0x00 then { w with base := w.base / 2 ^ 32 * 2 ^ 32 + v / 4096 * 4096 }
  else if r == 0x04 then { w with base := w.base % 2 ^ 32 + 2 ^ 32 * v }
  else if r == 0x08 then { w with last := w.last / 2 ^ 32 * 2 ^ 32 + v / 4096 * 4096 }
  else if r == 0x0C then { w with last := w.last % 2 ^ 32 + 2 ^ 32 * v }
  else if r == 0x10 then { w with valid := bitAt 31 v, read := bitAt 30 v, write := bitAt 29 v, func := v % 32 }
  else w

/-- Replaces the low or the high word of a ring base, 4 KB aligned (Table 4-5). -/
def baseLo (b v : Nat) : Nat := b / 2 ^ 32 * 2 ^ 32 + v / 4096 * 4096
def baseHi (b v : Nat) : Nat := b % 2 ^ 32 + 2 ^ 32 * v

/-- A write to a queue's entry from its owning function (Table 4-2), HIF_QCTL apart: taken only while DISABLED (R78). -/
def Queue.writeReg (e : Queue) (r v : Nat) : Queue :=
  if e.state != .disabled then e
  else if r == 0x04 then { e with rrLog := v / 2 ^ 24 % 16, cqLog := v / 65536 % 32, sqLog := v % 32 }
  else if r == 0x08 then { e with sqBase := baseLo e.sqBase v }
  else if r == 0x0C then { e with sqBase := baseHi e.sqBase v }
  else if r == 0x10 then { e with cqBase := baseLo e.cqBase v }
  else if r == 0x14 then { e with cqBase := baseHi e.cqBase v }
  else if r == 0x18 then { e with rrBase := baseLo e.rrBase v }
  else if r == 0x1C then { e with rrBase := baseHi e.rrBase v }
  else e

/-- A write to a queue's entry through a function's view (R77, R380). -/
def State.writeQueue (s : State) (fn slot r v : Nat) : State :=
  if r == 0x2C then (if fn == 0 && slot < 4096 then { s with core := s.core.setFunc slot (v % 32) } else s)
  else
    match s.core.ownQ fn slot with
    | none => s
    | some q => if r == 0 then s.qctl q v else { s with core := s.core.updQ q fun e => e.writeReg r v }

/-- A doorbell page offset (Table 4-9). -/
def State.writeDoorbell (s : State) (fn slot r v : Nat) : State :=
  let w : Word := BitVec.ofNat 32 v
  let run (x : Host.Outcome State Fault Refusal) : State :=
    match x with
    | .next t => t
    | _ => s
  if r == 0 then run (execDoorbellSq fn slot w s)
  else if r == 4 then run (execDoorbellCq fn slot w s)
  else if r == 8 then run (execDoorbellRr fn slot w s)
  else s

/-- W1C: the bits written as 1 are cleared (Table 0-3). -/
def w1c (old v : Nat) : Nat := old - (old &&& v)

/-- A write to PF BAR0 outside the queue pages (Table 16-4). -/
def State.writePf (s : State) (off v : Nat) : State :=
  let host (f : HostIf → HostIf) : State := { s with core := s.core.updHost f }
  if off == 0x1004 then (if 4 ≤ v % 64 && v % 64 ≤ 32 then host fun h => { h with intake := v % 64 } else s)
  else if off == 0x1008 then host fun h => { h with errCause := w1c h.errCause (v % 32) }
  else if off == 0x100C then host fun h => { h with errVec := v % 2048 }
  else if 0x10000 ≤ off && off < 0x12000 then
    host fun h => { h with windows := Tab.upd {} h.windows ((off - 0x10000) / 32) fun w => w.put (off % 32) v }
  else if off == 0x59A00 then { s with mend := { s.mend with cause := w1c s.mend.cause (v % 32) } }
  else if off == 0x59A04 then { s with mend := { s.mend with vec := v % 2048 } }
  else if off == 0x5A004 then { s with dram := { s.dram with over85 := s.dram.over85 && !bitAt 15 v } }
  else if off == 0x5C080 then { s with fw := { s.fw with cause := w1c s.fw.cause (v % 4) } }
  else if off == 0x5C084 then { s with fw := { s.fw with vec := v % 2048 } }
  else s

/-- A write to the recovery mailbox, which works in RECOVERY (R392, R472). -/
def State.writeMailbox (s : State) (off v : Nat) : State :=
  let w : Word := BitVec.ofNat 32 v
  let run (x : Host.Outcome State Fault Refusal) : State :=
    match x with
    | .next t => t
    | _ => s
  if off == 0x60000 then
    (if rcvOp w == 1 then run (execRecoveryBegin w s)
      else if rcvOp w == 2 then run (execRecoveryWrite w s)
      else if rcvOp w == 3 then run (execRecoveryVerify w s) else run (execRecoveryCommit w s))
  else if 0x60400 ≤ off && off < 0x60800 then
    { s with fw := { s.fw with crcs := Tab.set 0 s.fw.crcs ((off - 0x60400) / 4) v } }
  else if 0x200000 ≤ off && off < 0x300000 then
    { s with fw := { s.fw with window := Memory.write s.fw.window (off - 0x200000) (leBytes 4 v) } }
  else s

/-- A write to the MSI-X table in BAR4 (R383). -/
def State.writeMsix (s : State) (fn off v : Nat) : State :=
  let k := off / 16
  if vecCount fn ≤ k then s
  else
    let r := off % 16
    let upd (f : Vec → Vec) : State := { s with core := s.core.updVec fn k f }
    if r == 0 then upd fun x => { x with addr := x.addr / 2 ^ 32 * 2 ^ 32 + v }
    else if r == 4 then upd fun x => { x with addr := x.addr % 2 ^ 32 + 2 ^ 32 * v }
    else if r == 8 then upd fun x => { x with data := v }
    else if bitAt 0 v then upd fun x => { x with masked := true }
    else { s with core := s.core.unmask fn k }

/-- Selectors of the fields of configuration space that the rules read; the manual gives no offsets, so `bar` 16 with
these numbers stands for them (log 5): Command, Device Control, Device Control 2, MSI-X control, SR-IOV control. -/
def State.writeConfig (s : State) (fn off v : Nat) : State :=
  let fnUpd (f : Fn → Fn) : Core := s.core.updFn fn f
  if off == 0x00 then
    let c := fnUpd fun x => { x with mse := bitAt 1 v }
    { s with core := if (c.fn fn).mse && !(s.core.fn fn).mse then c.resumeMaster s.tick.count fn else c }
  else if off == 0x04 then { s with core := fnUpd fun x => { x with
    mps := 128 * 2 ^ min (v / 32 % 8) 2, mrrs := 128 * 2 ^ min (v / 4096 % 8) 5 } }
  else if off == 0x08 then { s with core := fnUpd fun x => { x with
    cto := v % 16, tagBits := if bitAt 13 v then 14 else if bitAt 12 v then 10 else 8 } }
  else if off == 0x0C then
    let c := fnUpd fun x => { x with msixEn := bitAt 15 v, fnMask := bitAt 14 v }
    let due := c.host.vecs.filter fun e => e.1 / 4096 == fn && e.2.pending && !e.2.masked
    { s with core := if bitAt 14 v || !bitAt 15 v then c else due.foldl (fun c e => c.unmask fn (e.1 % 4096)) c }
  else if off == 0x10 && fn == 0 then { s with core := s.core.updHost fun h => { h with vfEnable := bitAt 0 v } }
  else s

/-- One aligned DWORD write. Before BOOT ends BAR0 ignores writes; in RECOVERY only the mailbox takes them (R392). -/
def State.write32 (s : State) (fn bar off v : Nat) : State :=
  let open_ := s.core.host.linkUp && (s.core.fn fn).mse && !(s.core.fn fn).d3 && (fn == 0 || s.core.host.vfEnable)
  if bar == 16 then (if s.core.host.linkUp then s.writeConfig fn off v else s)
  else if !open_ then s
  else if bar == 4 then s.writeMsix fn off v
  else if bar != 0 then s
  else if s.core.mstate == .recovery then (if fn == 0 then s.writeMailbox off v else s)
  else if !mlive s.core.mstate then s
  else if fn == 0 then
    if 0x100000 ≤ off && off < 0x200000 then s.writeQueue 0 ((off - 0x100000) / 256) (off % 256) v
    else if 0x1000000 ≤ off && off < 0x2000000 then s.writeDoorbell 0 ((off - 0x1000000) / 4096) (off % 4096) v
    else s.writePf off v
  else if 0x4000 ≤ off && off < 0xC000 then s.writeQueue fn ((off - 0x4000) / 256) (off % 256) v
  else if 0x80000 ≤ off && off < 0x100000 then s.writeDoorbell fn ((off - 0x80000) / 4096) (off % 4096) v
  else s

/-- REGISTER_WRITE (R9, R10, R377): aligned accesses of 4 bytes, and of 8 as two in increasing order, with all byte
enables of a DWORD; any other form is discarded. -/
def execRegisterWrite (fn bar off size be : Nat) (v : DWord) (s : State) : Host.Outcome State Fault Refusal :=
  .next <|
    if 16 < fn then s
    else if size == 4 && off % 4 == 0 then (if be % 16 == 0xF then s.write32 fn bar off (v.toNat % 2 ^ 32) else s)
    else if size == 8 && off % 8 == 0 then
      let s := if be % 16 == 0xF then s.write32 fn bar off (v.toNat % 2 ^ 32) else s
      if be / 16 % 16 == 0xF then s.write32 fn bar (off + 4) (v.toNat / 2 ^ 32) else s
    else s

end Sys2Proof.Machine
end

