-- ==== Sys2Proof/Machine/DramRows.lean ====
section
/-! DEFINITION. The DRAM controllers: entry, forwarding and merging (R403, R406), urgency (R404), the pick for a bank
(R405), returns with error checks (R402, R407), and refresh windows (R408). -/

namespace Sys2Proof.Machine

/-- A command that stops at a step keeps the planned cost of the steps that sealed sheaves have admitted for it (R492). -/
def State.owed (s : State) (r : Run) : Run :=
  let l := (s.tick.sheaf.slots ++ (if s.tick.sealed then s.tick.nextSheaf.slots else [])).filter fun q =>
    q.work == r.work && r.steps.any (·.id == q.step.id)
  { r with planned := r.planned + l.foldl (fun n q => n + q.cost) 0 }

/-- A move that cannot read its copy (R268, R448): the copy stays and the move is dropped; where its tiller retires, it is lost at
its new home. -/
def State.moveFails (s : State) (run n : Nat) : State :=
  let c := s.core.dropRun run
  let t := { s with core := { c with moving := c.moving.filter (·.num != n) } }
  match s.core.moving.find? (·.num == n) with
  | none => t
  | some m =>
    if !s.mend.retiring.contains m.tiller then t
    else
      let x := t.core.copy m.part m.buf m.key
      { t with core := t.core.setCopy { x with place := m.to_, lost := List.range (ceilDiv (t.core.copyBytes m.part m.buf) 8) } }.mendLog
        { kind := 7, tier := 0, part := m.part, handle := handleOf m.part m.buf }

/-- Commands fail at a step: a command itself, the members of its weight-sharing run that a condition names (R169). A wrong tag in one
member's own streaming scales fails that member alone (DESIGN CHOICE, log 52): R138 can be read as speaking of every member. -/
def State.failAt (s : State) (run : Nat) (st : Status) (which : Run → Bool) : State :=
  match s.core.run? run with
  | none => s
  | some r =>
    let now := s.tick.count
    match r.post with
    | .share ms =>
      let l := s.core.runs.filter fun x => !x.dead && (ms.any fun m => m.1 == x.work) && which x
      let c := l.foldl (fun c x => match c.run? x.id with
        | some y => c.failRun now (s.owed y) st
        | none => c) s.core
      { s with core := if c.runs.any fun x => !x.dead && ms.any fun m => m.1 == x.work then c else c.dropRun run }
    | .carry (.move n) _ => s.moveFails run n
    | .carry (.far ..) _ => { s with core := s.core.dropRun run }
    | .carry (.seam i n) _ =>
      let c := s.core.dropRun run
      { s with core := match c.runs.find? fun x => !x.dead && x.work == .inst i n with
        | some x => c.failRun now (s.owed x) st
        | none => c }
    | _ => if which r then { s with core := s.core.failRun now (s.owed r) st } else s

/-- What an uncorrectable word does to the work that read it (R402, R310, R341, R169): a stream stops with reason 7, a clip ends
with reason 4, any other command completes with DATA_LOST; of the members of a weight-sharing run, those that read the word. A word of
DRAM that no buffer holds and a SHAPE or MOTION_EXPORT reads lies in the slot of its picture: the stream stops too, its command failing
before (Table 11-6, R332). -/
def State.lostAt (s : State) (r : Run) (dram : Bool) (w : Option ErrAt) : State :=
  let now := s.tick.count
  match r.post with
  | .decode k pic => { s with core := (s.core.stopStream now k 7 pic none).finishResync now k }
  | .clip b _ => { s with core := s.core.finishClips now 4 fun k => k.binding == b }
  | _ =>
    let u := s.failAt r.id .dataLost fun x => w.all fun y => y.part != x.part ||
      (x.ins.contains y.buf && x.seen.all fun z => z.1 != y.buf || z.2.1 == ErrAt.key y)
    if !dram || w.isSome || !(r.op == 0x4005 || r.op == 0x4009) then u
    else
      match (s.core.insts.find? fun i => r.ofInst i.id).bind (·.pic) with
      | none => u
      | some p =>
        let y := u.core.ctx p.1
        if (y.state == .opened || y.state == .running) && y.pics.any (·.num == p.2) then
          { u with core := (u.core.stopStream now p.1 7 p.2 none).finishResync now p.1 }
        else u

/-- Latency target of a port, numbered in port order (R403): control 0, tillers 1 to 16, the granary 17, media engines
18 to 31, host DMA 32, links 33 to 38 (Table 17-3). -/
def portTarget (p : Nat) : Nat :=
  if p == 0 then 1000 else if p ≤ 17 then 2000 else if p ≤ 31 then 4000 else if p == 32 then 8000 else 2000

/-- Urgency of an entry at a time (Table 17-3). -/
def urgencyAt (r : DramReq) (t : Nat) : Nat :=
  let w := 20 * (t - r.at_)
  let x := portTarget r.port
  if 18 * x ≤ w then 3 else if 15 * x ≤ w then 2 else if 10 * x ≤ w then 1 else 0

/-- All 32 bytes of a half are enabled. -/
def halfFull (be : DWord) (h : Nat) : Bool := be.toNat / 2 ^ (32 * h) % 2 ^ 32 == 2 ^ 32 - 1

def DramReq.partial_ (r : DramReq) : Bool := !(halfFull r.be 0 && halfFull r.be 1)

/-- The controllers take requests: DRAM is up and not in self-refresh. -/
def Dram.ready (d : Dram) (ch : Nat) : Bool := d.up && !d.sr && decide (ch < 16)

/-- The deadline of an entry: a control request without one takes its entry time plus its target (R404). -/
def DramReq.planned (r : DramReq) : DramReq :=
  { r with deadline := if r.port == 0 && r.deadline.isNone then some (r.at_ + portTarget 0) else r.deadline }

def minDeadline (a b : Option Nat) : Option Nat :=
  match a, b with
  | some x, some y => some (min x y)
  | some x, none => some x
  | none, y => y

/-- A read enters: forwarded from a write to its line, queued, or left at its port by a full queue (R403, R406). -/
def Drc.enterRead (d : Drc) (r : DramReq) : Drc :=
  if 128 ≤ d.readQ.length then d
  else if d.writeQ.any (·.line == r.line) then { d with fwd := satAdd 0xFFFFFFFF d.fwd 1 }
  else { d with readQ := d.readQ ++ [r] }

/-- A write enters: merged into a write to its line, queued, or left at its port. -/
def Drc.enterWrite (d : Drc) (r : DramReq) : Drc :=
  match d.writeQ.find? (·.line == r.line) with
  | some w =>
    let w' := { w with be := w.be ||| r.be, deadline := minDeadline w.deadline r.deadline }
    { d with
      writeQ := listSet d.writeQ (·.line == r.line) fun _ => w'
      fills := if DramReq.partial_ w' then d.fills else d.fills.filter (· != w.id)
      merged := satAdd 0xFFFF d.merged 1 }
  | none =>
    if 64 ≤ d.writeQ.length then d
    else { d with writeQ := d.writeQ ++ [r], fills := if DramReq.partial_ r then d.fills ++ [r.id] else d.fills }

/-- DRAM_REQUEST_ENTRY. -/
def execDramRequestEntry (ch : Nat) (r : DramReq) (s : State) : Host.Outcome State Fault Refusal :=
  .next <|
    if !s.dram.ready ch then s
    else { s with dram := s.dram.updDrc ch fun d => if r.write then d.enterWrite (DramReq.planned r) else d.enterRead (DramReq.planned r) }

/-- DRAM_URGENCY_RISE (R404). -/
def execDramUrgencyRise (ch id t : Nat) (s : State) : Host.Outcome State Fault Refusal :=
  .next <|
    match ((s.dram.drc ch).readQ ++ (s.dram.drc ch).writeQ).find? (·.id == id) with
    | none => s
    | some r =>
      { s with dram := s.dram.updDrc ch fun d => { d with urg := Tab.upd 0 d.urg id fun u => max u (urgencyAt r t) } }

/-- Entries that a bank can serve: a write waits for the reads of its line that are queued, and for the read of its
partly enabled halves (R406). -/
def Drc.served (d : Drc) (bank : Nat) : List DramReq :=
  (d.readQ.filter (·.bank == bank)) ++
    d.writeQ.filter fun w => w.bank == bank && !(d.readQ.any (·.line == w.line)) && !(d.issued.any (·.id == w.id))

/-- Urgency that counts: writes are at 3 while the write queue holds 56 or more (R405). -/
def Drc.urgency (d : Drc) (r : DramReq) (t : Nat) : Nat :=
  if r.write && 56 ≤ d.writeQ.length then 3 else max (Tab.get 0 d.urg r.id) (urgencyAt r t)

/-- `a` goes before `b`: urgency, deadline, entry (R405). -/
def Drc.before (d : Drc) (t : Nat) (a b : DramReq) : Bool :=
  let ua := d.urgency a t
  let ub := d.urgency b t
  if ua != ub then decide (ub < ua)
  else if a.deadline != b.deadline then
    match a.deadline, b.deadline with
    | some x, some y => decide (x < y)
    | some _, none => true
    | none, _ => false
  else if a.at_ != b.at_ then decide (a.at_ < b.at_) else decide (a.port ≤ b.port)

/-- The next entry for a bank. -/
def Drc.pick (d : Drc) (bank t : Nat) : Option DramReq := (sortBy (d.before t) (d.served bank)).head?

/-- A request completes after its deadline (R407). -/
def DramReq.isLate (r : DramReq) (t : Nat) : Bool :=
  match r.deadline with
  | some x => decide (x < t)
  | none => false
def Drc.lateAt (d : Drc) (r : DramReq) (t : Nat) : Drc := if DramReq.isLate r t then { d with late := satAdd 0xFFFF d.late 1 } else d

/-- The picked entry issues. -/
def Drc.issue (d : Drc) (bank t : Nat) : Drc :=
  match d.pick bank t with
  | none => d
  | some r =>
    if !r.write then
      { d with readQ := d.readQ.filter (·.id != r.id), issued := d.issued ++ [r], urg := Tab.set 0 d.urg r.id 0 }
    else if d.fills.contains r.id then { d with issued := d.issued ++ [r] }
    else ({ d with writeQ := d.writeQ.filter (·.id != r.id), urg := Tab.set 0 d.urg r.id 0 }).lateAt r t

/-- DRAM_BANK_ISSUE (R405): not in a refresh window (R408). -/
def execDramBankIssue (ch bank t : Nat) (s : State) : Host.Outcome State Fault Refusal :=
  .next <|
    if !s.dram.ready ch || s.dram.refresh then s
    else { s with dram := s.dram.updDrc ch fun d => d.issue bank t }

/-- A returned read leaves; a write whose halves have been read is complete, or dropped with an uncorrectable half. -/
def Drc.retire (d : Drc) (r : DramReq) (t : Nat) (bad : Bool) : Drc :=
  let d := { d with issued := d.issued.filter (·.id != r.id) }
  if r.write then
    { d with
      fills := d.fills.filter (· != r.id)
      writeQ := if bad then d.writeQ.filter (·.id != r.id) else d.writeQ }
  else d.lateAt r t

/-- What a read found in a half: the read for a write reads the halves with disabled bytes alone (R406). -/
def DramReq.found (r : DramReq) (half : Nat) (e : Ecc) : Ecc := if r.write && halfFull r.be half then .clean else e

/-- A half that the entry still needs is uncorrectable; a half that a merge has filled since needs nothing (R406). -/
def Drc.badReturn (d : Drc) (r : DramReq) (e0 e1 : Ecc) : Bool :=
  let w := (d.writeQ.find? fun x => r.write && x.id == r.id).getD r
  Ecc.bad (DramReq.found w 0 e0) || Ecc.bad (DramReq.found w 1 e1)

/-- DRAM_READ_RETURN (R402, R406): both halves checked; an uncorrectable one is logged and loses the command's data. -/
def execDramReadReturn (ch id t : Nat) (e0 e1 : Ecc) (w : Option ErrAt) (s : State) : Host.Outcome State Fault Refusal :=
  .next <|
    match (s.dram.drc ch).issued.find? (·.id == id) with
    | none => s
    | some r =>
      let e0 := DramReq.found r 0 e0
      let e1 := DramReq.found r 1 e1
      let bad := (s.dram.drc ch).badReturn r e0 e1
      let s := { s with dram := s.dram.updDrc ch fun d => ((d.count e0).count e1).retire r t bad }
      if !bad then s
      else
        let s := s.logError 2 ch w
        match r.run with
        | none => s
        | some k =>
          match s.core.run? k with
          | none => s
          | some x => s.lostAt x true w

/-- REFRESH_WINDOW_START and REFRESH_WINDOW_END (R408). -/
def execRefreshWindowStart (s : State) : Host.Outcome State Fault Refusal :=
  .next (if s.dram.up && !s.dram.sr then
    { s with dram := { s.dram with refresh := true, windows := s.dram.windows + 1 } } else s)

def execRefreshWindowEnd (s : State) : Host.Outcome State Fault Refusal :=
  .next { s with dram := { s.dram with refresh := false } }

end Sys2Proof.Machine
end

