-- ==== Sys2Proof/Machine/LinkRows.lean ====
section
/-! DEFINITION. The rows of the links: training and HELLO (R426), flits (R416 to R418, R425, R429), messages and replies
(R422 to R424), grants (R278), notices and failed ports (R417, R436, R437), TICK flits and the
choice of a tick master (R430 to R433). -/

namespace Sys2Proof.Machine

/-- Link rows act in READY, SERVING and QUIET, on ports 0 to 5. -/
def State.linkLive (s : State) (p : Nat) : Bool := mlive s.core.mstate && decide (p < 6)

/-- A port that is up. -/
def State.portUp (s : State) (p : Nat) : Bool := s.linkLive p && (s.link.port p).state == 2

/-- A port that carries other flits than TICK flits inward: up and not frozen (R425). -/
def State.portOpen (s : State) (p : Nat) : Bool := s.portUp p && !(s.link.port p).frozen

def State.updLink (s : State) (f : Link → Link) : State := { s with link := f s.link }
def State.updPort (s : State) (p : Nat) (f : Port → Port) : State := s.updLink fun l => l.updPort p f

/-! ### Bring-up -/

/-- A port begins to train: its flow control starts afresh. -/
def Port.train (x : Port) (lanes : Nat) : Port :=
  { x with
    state := 1, lanes := lanes % 256, credits := fullCredits, returned := [0, 0, 0, 0], expSeq := 0, sendSeq := 0
    replay := [], held := [], fails := 0, upTicks := 0 }

/-- PORT_TRAINING (R415, R426): a port that is not up trains while a partner is present. -/
def execPortTraining (p : Nat) (present : Bool) (lanes : Nat) (s : State) : Host.Outcome State Fault Refusal :=
  .next <|
    if !s.linkLive p || (s.link.port p).state == 2 then s
    else if present then s.updPort p fun x => x.train lanes
    else s.updPort p fun x => { x with state := 0, lanes := 0 }

/-- This module's HELLO (R426): a MGMT flit for the neighbour. -/
def State.helloFlit (s : State) : Flit := s.mgmtFlit 0 0x20

/-- HELLO (R426): with all 8 lanes trained the partners have exchanged HELLO messages and measured the delay, and the
port is up. -/
def execHello (p : Nat) (h : Hello) (s : State) : Host.Outcome State Fault Refusal :=
  .next <|
    if !s.linkLive p || (s.link.port p).state != 1 || (s.link.port p).lanes != 0xFF then s
    else
      let f := s.helloFlit
      let s := { s with core := { s.core with free := s.core.free + 1 } }
      let s := s.updPort p fun x => { x with
        state := 2, neigh := h.id % 65536, neighStrap := h.strap, neighEpoch := h.epoch % 65536, delay := h.delay % 2 ^ 24
        neighCount := h.count, upTicks := 0 }
      let s := if h.strap && h.id % 65536 != 0 then
          s.updLink fun l => { l with strapped := (l.strapped ++ [h.id % 65536]).dedup } else s
      s.updPort p fun x => x.send f

/-! ### Failed ports -/

/-- Neighbour's ring index over a ring port. -/
def Table.beyond (t : Table) (p : Nat) : Nat :=
  if p == t.cw then (t.index + 1) % t.size else (t.index + t.size - 1) % t.size

/-- Ring indices of the two ends of this module's link on a port; 0xFFFF where the port is no ring port. -/
def Table.ends (t : Table) (p : Nat) : Nat × Nat :=
  if t.topo == 2 && (p == t.cw || p == t.ccw) then (t.index, t.beyond p) else (0xFFFF, 0xFFFF)

/-- A port goes down (R417, R436): what is queued for it is discarded and counted, LINK_DOWN is broadcast. -/
def State.portDown (s : State) (p : Nat) : State :=
  let was := (s.link.port p).state
  let s := s.updPort p fun x => { x with
    state := 3, lanes := 0, held := [], upTicks := 0, downDrop := satAdd 0xFFFFFFFF x.downDrop x.held.length }
  if was != 2 || !s.link.formed then s
  else
    let e := s.link.table.ends p
    (s.updLink fun l => { l with notices := l.notices ++ [(e.1, e.2, true)] }).broadcast

/-- LANE_LOCK_LOSS (R417). -/
def execLaneLockLoss (p : Nat) (s : State) : Host.Outcome State Fault Refusal :=
  .next (if s.linkLive p && ((s.link.port p).state == 1 || (s.link.port p).state == 2) then s.portDown p else s)

/-- REPLAY_LIMIT (R417): one flit has been replayed 8 times without a good CRC. -/
def execReplayLimit (p : Nat) (s : State) : Host.Outcome State Fault Refusal :=
  .next (if s.portUp p && decide (8 ≤ (s.link.port p).fails) then s.portDown p else s)

/-- CONTROL_WORD_TIMEOUT (R417). -/
def execControlWordTimeout (p : Nat) (s : State) : Host.Outcome State Fault Refusal :=
  .next (if s.portUp p then s.portDown p else s)

/-- Acknowledged flits leave the replay buffer, up to and with SEQ `ack`. -/
def ackReplay (ack : Nat) (l : List Flit) : List Flit :=
  if l.any fun f => f.seq == ack then (l.dropWhile fun f => f.seq != ack).drop 1 else l

/-- CONTROL_WORD_RECEIVE (R418): credits and acknowledgements arrive; held flits leave while credit lasts. -/
def execControlWordReceive (p : Nat) (credits : List Nat) (ack : Nat) (s : State) : Host.Outcome State Fault Refusal :=
  .next <|
    if !s.portUp p then s
    else s.updPort p fun x =>
      let x := { x with
        credits := (List.range 4).map fun k => min (fullCredits.getD k 0) (x.credits.getD k 0 + credits.getD k 0)
        replay := ackReplay ack x.replay }
      Port.drain x.held.length x

/-! ### Windows -/

/-- Classes that Table 18-3 lets reach a unit. -/
def unitTakes (unit cls : Nat) : Bool :=
  if unit < 16 then cls == 1
  else if unit == 0x10 then cls == 1 || cls == 2
  else if unit == 0x11 then cls == 2
  else if unit == 0x20 || unit == 0x21 then cls == 3
  else false

def Link.window (l : Link) (w : Nat) : Option LWin := Tab.get none l.windows w

/-- A window is granted to a source at a tick. -/
def LWin.open_ (w : LWin) (src now : Nat) : Bool := w.src == src && decide (w.from_ ≤ now) && w.until_.isNone

/-- It was granted to the source until one of the last two boundaries. -/
def LWin.recent (w : LWin) (src now : Nat) : Bool :=
  w.src == src && match w.until_ with
    | some u => decide (u ≤ now) && decide (now ≤ u + 1)
    | none => false

/-- How a SEAM or BULK payload stands to the grants (R424): within its window, of a window revoked just now, or a
violation. -/
inductive Reach where
  | within (w : LWin) | stale | violation
  deriving DecidableEq, Repr

def Link.reach (l : Link) (now cls src unit window offset len : Nat) : Reach :=
  match l.window window with
  | none => .violation
  | some w =>
    if w.recent src now then .stale
    else if w.open_ src now && w.unit == unit && unitTakes unit cls && (if cls == 1 then w.seam else w.bulk) &&
        decide (8 * offset + len ≤ 8 * w.len) then .within w
    else .violation

/-- Role epoch of the unit that a message names: the tiller's, or the window's (Table 18-3). -/
def Link.unitEpoch (l : Link) (unit : Nat) (w : LWin) : Nat := if unit < 16 then Tab.get 0 l.epochs unit else w.epoch

/-- A violation by the inbound master of a port (R424): it freezes. -/
def State.freezePort (s : State) (p src unit window : Nat) : State :=
  let s := s.updPort p fun x => { x with frozen := true }
  let r := freezeBytes 4 p 0 0xFF s.tick.count (src % 65536 * 2 ^ 32 + unit % 256 * 2 ^ 16 + window % 256) 0
  { s with core := s.core.logFreeze r }

/-- A message to a role that has changed (R422): nothing is written, it counts once, ROLE_CHANGED is answered. -/
def State.deadLetter (s : State) (src id : Nat) : State :=
  (s.updLink fun l => { l with dead := satAdd 0xFFFFFFFF l.dead 1 }).reply src id .roleChanged

/-- A SEAM or BULK message at its window (R422, R424). -/
def State.deliver (s : State) (p cls : Nat) (m : Msg) : State :=
  match s.link.reach s.tick.count cls m.src m.unit m.window m.offset m.data.length with
  | .violation => s.freezePort p m.src m.unit m.window
  | .stale => s.deadLetter m.src m.id
  | .within w =>
    if m.epoch != s.link.unitEpoch m.unit w then s.deadLetter m.src m.id
    else
      (s.updLink fun l => { l with
        store := Tab.upd [] l.store m.unit fun x => Memory.write x (w.base + 8 * m.offset) m.data }).reply m.src m.id .done

/-- SEAM_MESSAGE (R424). -/
def execSeamMessage (p : Nat) (m : Msg) (s : State) : Host.Outcome State Fault Refusal :=
  .next (if s.portOpen p then s.deliver p 1 m else s)

/-- BULK_MESSAGE (R269, R424). -/
def execBulkMessage (p : Nat) (m : Msg) (s : State) : Host.Outcome State Fault Refusal :=
  .next (if s.portOpen p then s.deliver p 2 m else s)

/-! ### Flits -/

/-- What a delivered flit meets at this module (R422, R424): a flit outside its grant freezes the port; a MGMT message
of another epoch is a dead letter, its reply known by the flit's SEQ; the bytes of a SEAM or BULK message are written by
the message's own row. A TICK flit is handled by TICK_FLIT. -/
def State.deliverFlit (s : State) (p : Nat) (f : Flit) : State :=
  if f.cls == 0 then s
  else if f.cls == 3 then
    if !unitTakes f.unit 3 then s.freezePort p f.src f.unit f.window
    else if f.first && f.dest != 0xFFFF && f.epoch != Tab.get 0 s.link.epochs f.unit then s.deadLetter f.src f.seq
    else s
  else
    match s.link.reach s.tick.count f.cls f.src f.unit f.window f.offset f.data.length with
    | .violation => s.freezePort p f.src f.unit f.window
    | _ => s

/-- Where a flit goes that has arrived whole and in order (R425, R429). -/
def State.routeFlit (s : State) (p : Nat) (f : Flit) : State :=
  if f.dest == 0 then s
  else if (s.link.port p).frozen && f.cls != 0 then
    s.updPort p fun x => { x with frozenDrop := satAdd 0xFFFFFFFF x.frozenDrop 1 }
  else if f.cls == 0 then s
  else if f.dest == 0xFFFF then
    let key := { f with seq := 0 }
    if s.link.seen.contains key then s
    else (s.updLink fun l => { (l.launch (some p) f) with seen := l.seen ++ [key] }).deliverFlit p f
  else if s.link.formed && f.dest == s.link.table.id then s.deliverFlit p f
  else s.updLink fun l => l.launch (some p) f

/-- FLIT_RECEIVE (R416 to R418): corrected codewords count, the CRC is checked, the port replays from a flit that fails,
and what arrives in order is consumed and its credit returned. -/
def execFlitReceive (p : Nat) (f : Flit) (crcOk : Bool) (fec : Nat) (s : State) : Host.Outcome State Fault Refusal :=
  .next <|
    if !s.portUp p then s
    else
    let s := s.updPort p fun x => { x with fec := satAdd 0xFFFFFFFF x.fec fec }
    if !crcOk then
      s.updPort p fun x => { x with replays := satAdd 0xFFFFFFFF x.replays 1, fails := x.fails + 1 }
    else if f.seq != (s.link.port p).expSeq || decide (3 < f.cls) then s
    else
      (s.updPort p fun x => { x with
        expSeq := (x.expSeq + 1) % 65536, fails := 0, returned := x.returned.set f.cls (x.returned.getD f.cls 0 + 1) }).routeFlit p f

/-! ### Replies -/

def State.dropSent (s : State) (id : Nat) : State :=
  (s.updLink fun l => { l with sent := l.sent.filter fun x => x.id != id }).sendHeld

/-- A command whose message failed, unless it has completed already (R422, R423). -/
def State.failSent (s : State) (r : Nat) (st : Status) : State := s.failAt r st fun _ => true

/-- A member has granted: nothing is waited for once all have (R278). -/
def Core.memberGranted (c : Core) (now part member : Nat) : Core :=
  (c.updPart part fun p => { p with
    creating := p.creating.map fun x => (x.1, x.2.filter (· != member))
    pend := p.pend.map fun x => { x with members := x.members.filter (· != member) } }).createDone now part

/-- A member has refused, or has not answered (R278). -/
def Core.memberRefused (c : Core) (now part member : Nat) : Core := (c.createFailed now part member).limitsFailed now part member

/-- MGMT_REPLY (R422, R423, R278, R467). -/
def execMgmtReply (id : Nat) (r : Reply) (s : State) : Host.Outcome State Fault Refusal :=
  .next <|
    if !mlive s.core.mstate then s else
    match s.link.sent.find? fun x => x.id == id with
    | none => s
    | some x =>
      let s := s.dropSent id
      match x.what, r with
      | .run k, .roleChanged => s.failSent k .roleChanged
      | .grant k m, .granted => { s with core := s.core.memberGranted s.tick.count k m }
      | .grant k m, .refused => ({ s with core := s.core.memberRefused s.tick.count k m } : State).tellMembers
      | .activate m k, .granted => s.activateAccept m k
      | .activate m k, .refused => s.activateFail (s.fw.askingFor k) m
      | _, _ => s

/-- REPLY_TIMEOUT (R423): no reply by the end of the tick after the one in which the message was sent. Grants and
activations have a time of their own (R278, R467). -/
def execReplyTimeout (id : Nat) (s : State) : Host.Outcome State Fault Refusal :=
  .next <|
    if !mlive s.core.mstate then s else
    match s.link.sent.find? fun x => x.id == id && decide (x.tick + 1 < s.tick.count) with
    | none => s
    | some x =>
      match x.what with
      | .run k => (s.dropSent id).failSent k .dataLost
      | .none => s.dropSent id
      | _ => s

/-- GRANT_TIMEOUT (R278): members have not answered within 10 ms. -/
def execGrantTimeout (part : Nat) (s : State) : Host.Outcome State Fault Refusal :=
  .next <|
    let p := s.core.part part
    let missing := (p.creating.map (·.2)).getD [] ++ (p.pend.map (·.members)).getD []
    match missing with
    | [] => s
    | m :: _ =>
      let s := s.updLink fun l => { l with sent := l.sent.filter fun x => match x.what with
        | .grant k _ => k != part
        | _ => true }
      ({ s with core := s.core.memberRefused s.tick.count part m } : State).sendHeld.tellMembers

/-! ### A member's side -/

/-- Opens a window at the next boundary, in an index, unit range and place that the manual leaves to the LKC: free
values. The window's epoch counts its grants (R421). -/
def State.grantWindow (s : State) (src unit : Nat) (seam bulk : Bool) : State :=
  let k := Config.freeNat s.core.free 0 % 256
  let old := (s.link.window k).map (·.epoch)
  let w : LWin :=
    { src := src, unit := unit, base := 8 * Config.freeNat s.core.free 1, len := Config.freeNat s.core.free 2
      seam := seam, bulk := bulk, from_ := s.tick.count + 1
      epoch := match old with
        | some e => (e + 1) % 65536
        | none => 1 }
  { s with
    core := { s.core with free := s.core.free + 1 }
    link := { s.link with windows := Tab.set none s.link.windows k (some w) } }

/-- A slot of this module that holds a lead's partition. -/
def Core.memberSlot (c : Core) (lead part : Nat) : Option Nat :=
  (c.parts.find? fun e => e.2.lead == some (lead, part) && e.2.counts).map (·.1)

/-- Steps that a lead has placed in a partition here are dropped (R270). -/
def Core.dropFar (c : Core) (part : Nat) : Core :=
  { c with runs := c.runs.filterMap fun r => match r.post with
      | .carry (.far k ..) _ => if k == part then r.over else some r
      | _ => some r }

/-- Slots without a partition; which of them a member takes is a free value. -/
def Core.pickSlot (c : Core) : Option Nat :=
  let l := (List.range 16).filter fun k => !(c.part k).counts
  l[Config.freeNat c.free 3 % l.length]?

/-- Takes the grants of a lead's request, if they fit (R273, R278, R280). A request of nothing releases the slot, one of the grants in
force takes back what is pending (DESIGN CHOICE, log 37): no rule gives these messages (R277, R281, R500). -/
def State.takeGrant (s : State) (g : GrantReq) : Option State :=
  let gr : Grants := { tillers := g.tillers, granary := g.granary, dram := g.dram }
  let c := s.core
  if g.tillers == 0 then some { s with core := match c.memberSlot g.lead g.part with
    | some k => (c.dropFar k).updPart k fun _ => {}
    | none => c }
  else
  match c.memberSlot g.lead g.part with
  | some k =>
    let p := c.part k
    if gr == p.grants then some { s with core := c.updPart k fun p => { p with pend := if p.pend.any (·.applied) then p.pend else none } }
    else if (c.short s.led.strap k p.tillers.length p.grants gr).isSome then none
    else
      let x : PendLimits :=
        { grants := gr, effTick := s.tick.count + 2, cmd := none
          tillers := c.freeTillers.take (g.tillers - p.tillers.length)
          leaving := (sortBy (fun a b => decide (a ≤ b)) p.tillers).drop g.tillers }
      some { s with core := c.updPart k fun p => { p with pend := some x } }
  | none =>
    match c.pickSlot with
    | none => none
    | some k =>
      if (c.short s.led.strap k 0 {} gr).isSome then none
      else
        let y : Part := { grants := gr, tillers := c.freeTillers.take g.tillers, lead := some (g.lead, g.part), state := .loading }
        some { s with core := c.updPart k fun _ => y }

/-- GRANT_REQUEST (R278): checked against this module's own free capacity; granting opens a window for replicas. -/
def execGrantRequest (p : Nat) (g : GrantReq) (s : State) : Host.Outcome State Fault Refusal :=
  .next <|
    if !s.portOpen p then s
    else
      match s.takeGrant g with
      | some t => (t.grantWindow g.lead 0x11 false true).reply g.lead g.id .granted
      | none => s.reply g.lead g.id .refused

/-! ### Notices -/

def State.note (s : State) (p a b : Nat) (down : Bool) : Host.Outcome State Fault Refusal :=
  .next (if s.portOpen p then s.updLink fun l => { l with notices := l.notices ++ [(a, b, down)] } else s)

/-- LINK_DOWN_NOTICE (R436): routes change at the boundary that starts the first sheaf sealed after it. -/
def execLinkDownNotice (p a b : Nat) (s : State) : Host.Outcome State Fault Refusal := s.note p a b true

/-- LINK_UP_NOTICE (R437). -/
def execLinkUpNotice (p a b : Nat) (s : State) : Host.Outcome State Fault Refusal := s.note p a b false

/-- Number of a ring link: that of the end from which it leads clockwise. -/
def ringLink (size a b : Nat) : Nat := if (a + 1) % size == b then a else b

/-- Links that a route crosses, from this module's index in a direction. -/
def Table.crosses (t : Table) (cw : Bool) (ring : Nat) : List Nat :=
  if t.size == 0 then [] else
  if cw then (List.range ((ring + t.size - t.index) % t.size)).map fun k => (t.index + k) % t.size
  else (List.range ((t.index + t.size - ring) % t.size)).map fun k => (t.index + t.size - 1 - k) % t.size

/-- The primary route of an entry crosses a failed link: one on its way round the ring, or that of its own port. -/
def Table.primFailed (t : Table) (down : List Nat) (r : Route) : Bool :=
  if r.ring == 0xFFFF then down.contains (ringLink t.size t.index (t.beyond r.prim)) && (r.prim == t.cw || r.prim == t.ccw)
  else (t.crosses (r.prim == t.cw) r.ring).any down.contains

/-- Routes of a ring under its failed links (R435 to R437); no other topology has an alternate route. -/
def Table.reroute (t : Table) (down : List (Nat × Nat)) : Table :=
  if t.topo != 2 then t
  else
    let d := down.map fun x => ringLink t.size x.1 x.2
    { t with routes := t.routes.map fun r => { r with onAlt := r.alt != 0xFF && t.primFailed d r } }

/-- Notices that came before the seal of the sheaf that starts here take effect (R436, R437). -/
def Link.applyNotices (l : Link) : Link :=
  let norm (x : Nat × Nat × Bool) : Nat × Nat := (min x.1 x.2.1, max x.1 x.2.1)
  let down := l.due.foldl (fun d x =>
    if x.2.2 then (if d.contains (norm x) then d else d ++ [norm x]) else d.filter (· != norm x)) l.down
  { l with down := down, due := [], rerouted := !l.due.isEmpty, table := if l.due.isEmpty then l.table else l.table.reroute down }

/-! ### Ticks over the links -/

/-- Module IDs whose strap is known and that a route reaches, this module's own among them (R430). -/
def Link.candidates (l : Link) (lost : Option Nat) : List Nat :=
  let known := l.strapped.filter fun m => (l.route m).isSome
  ((if l.strap then l.table.id :: known else known).filter fun m => lost != some m)

/-- The lowest of some module IDs; 0 with none. -/
def lowest (l : List Nat) : Nat := (sortBy (fun a b => decide (a ≤ b)) l).headD 0

/-- The tick master of a formed chain (R430), the lost one left out (R433). A module that becomes master from a follower
goes on from its internal generator. -/
def State.chooseMaster (s : State) (lost : Option Nat) : State :=
  let m := lowest (s.link.candidates lost)
  let me := m != 0 && m == s.link.table.id
  let wasFollower := s.tick.follower
  { s with
    link := { s.link with
      master := m, isMaster := me, masterDue := false
      strapped := s.link.strapped.filter fun x => lost != some x }
    tick := { s.tick with
      follower := s.tick.follower && m != 0 && !me
      source := if wasFollower && (m == 0 || me) then 0 else s.tick.source
      holdover := 0
      heard := s.tick.heard.filter fun k => k.master == m } }

/-- MASTER_LOST (R433): after 4 boundaries in holdover; behind a reroute of the same boundary the change waits for the
next one. -/
def execMasterLost (s : State) : Host.Outcome State Fault Refusal :=
  .next <|
    if !mlive s.core.mstate || !s.tick.follower || s.tick.holdover < 4 then s
    else if s.link.rerouted then s.updLink fun l => { l with masterDue := true }
    else s.chooseMaster (some s.link.master)

/-- A TICK flit of this module with what it says (R431). -/
def State.tickFlitOf (s : State) (k : TickPay) : Flit := { s.mgmtFlit 0xFFFF 0x20 with cls := 0, pay := some k }

/-- What the master's TICK flit says (R431): the new tick, the schedule, an accumulated delay of 0, the change that is
pending, which is the latest one (R30). -/
def State.masterPay (s : State) : TickPay :=
  { tick := s.tick.count, period := s.tick.period, cutoff := s.tick.cutoff, hem := s.tick.hem, master := s.link.table.id
    delay := 0, change := s.tick.change }

/-- Sends or forwards a TICK flit on every up port but one; only a strapped module originates them (R419). -/
def State.sendTick (s : State) (from_ : Option Nat) (k : TickPay) : State :=
  let f := s.tickFlitOf k
  { (s.updLink fun l => l.launch from_ f) with core := { s.core with free := s.core.free + 1 } }

/-- TICK_FLIT (R426, R431, R432): `t` is its arrival after this module's last boundary, in 1/16 ns. The first copy of a
tick number is forwarded and gives the master's boundary. The delay that a TICK flit measures is a free value. -/
def execTickFlit (p : Nat) (k : TickPay) (t : Nat) (s : State) : Host.Outcome State Fault Refusal :=
  .next <|
    if !s.portUp p then s
    else
      let delay := Config.freeNat s.core.free 0 % 2 ^ 24
      let s := { s with core := { s.core with free := s.core.free + 1 } }
      let s := s.updPort p fun x => { x with delay := delay }
      if s.link.seenTicks.contains k.tick then s
      else
        let off : Int := (k.delay : Int) + delay - t
        let use := s.link.master == 0 || decide (k.master ≤ s.link.master)
        let lock := s.tick.follower && k.master == s.link.master
        let s := { s with
          link := { s.link with
            seenTicks := s.link.seenTicks ++ [k.tick]
            strapped := (s.link.strapped ++ [k.master]).dedup
            skewOff := if lock then max (-32768) (min 32767 off) else s.link.skewOff
            skewMax := if lock then max s.link.skewMax (min 0xFFFF off.natAbs) else s.link.skewMax }
          tick := { s.tick with
            heard := if use then some k else s.tick.heard
            heardNow := s.tick.heardNow || use
            change := if lock then k.change.or s.tick.change else s.tick.change } }
        s.sendTick (some p) { k with delay := k.delay + delay + Config.freeNat s.core.free 1 }

end Sys2Proof.Machine
end

