-- ==== Sys2Proof/Machine/Ledger.lean ====
section
/-! DEFINITION. The ledger: budgets, floor and reserve (R54 to R59), reservations (R60, R283), calibration (R63, R64,
R68), and the rows of the current governor (R66). -/

namespace Sys2Proof.Machine

/-! ### Budgets -/

/-- Peff in mW from a contract in W and Vb in mV (R54). -/
def peffMw (watts vb : Nat) : Nat := if vb < 12000 then 1000 * watts * vb / 12000 else 1000 * watts

/-- A power in mW over a period in ns, in grains, halves up (R54, R283). -/
def grainsOf (mw period : Nat) : Nat := (mw * period + 500000) / 1000000

/-- Budget of a tick in grains (R54). -/
def budgetOf (watts vb period : Nat) : Nat := grainsOf (peffMw watts vb) period

/-- Contract that applies to a tick (R70), and the period of a tick (R30). -/
def Ledger.contractAt (l : Ledger) (tick : Nat) : Nat :=
  match l.pending with
  | some (w, eff) => if eff ≤ tick then w else l.contract
  | none => l.contract
def Tick.periodAt (t : Tick) (tick : Nat) : Nat :=
  match t.change with
  | some x => if x.effTick ≤ tick then x.period else t.period
  | none => t.period

/-- The hem of a tick (R30). -/
def Tick.hemAt (t : Tick) (tick : Nat) : Nat :=
  match t.change with
  | some x => if x.effTick ≤ tick then x.hem else t.hem
  | none => t.hem

/-- Floor estimate of a build (R57). -/
def Ledger.floorOf (l : Ledger) : Nat :=
  match l.floors with
  | [] => Config.startFloor l.img l.contract
  | x :: r => r.foldl max x

/-- The reserve: 3 % of the budget, truncated (R57). -/
def reserveOf (budget : Nat) : Nat := budget * 3 / 100

/-- Plannable grains (R57); none where floor and reserve take the whole budget. -/
def plannable (budget floor : Nat) : Nat := budget - floor - reserveOf budget

/-! ### Reservations -/

/-- Grants that a partition has in a tick (R280). -/
def Part.grantsAt (p : Part) (tick : Nat) : Grants :=
  match p.pend with
  | some x => if x.effTick ≤ tick && x.members.isEmpty then x.grants else p.grants
  | none => p.grants

/-- Unscaled reservation of a partition in grains (R283). -/
def Part.resGrains (p : Part) (tick period : Nat) : Nat :=
  if p.state == .empty then 0 else grainsOf (p.grantsAt tick).resMw period

/-- Factor of R60 in 1/1,024, from what is left after pass 1 in 2^-24 grain and the sum of the reservations. -/
def resFactor (left24 sum : Nat) : Nat := if left24 < sum * 2 ^ 24 then left24 * 1024 / (sum * 2 ^ 24) else 1024

/-! ### Calibration -/

/-- The range of a coefficient whose image value is v (R64), within the 32 bits of a coefficient (R61). -/
def bound64 (v x : Nat) : Nat := max ((v + 1) / 2) (min (min (4 * v) 0xFFFFFFFF) x)

/-- A coefficient times 1 + (g/p − 1)/64, rounded half up (R63). -/
def calib63 (c p g : Nat) : Nat := (2 * c * (63 * p + g) + 64 * p) / (128 * p)

/-- A coefficient times 17/16, rounded half up (R68). -/
def calib68 (c : Nat) : Nat := (34 * c + 16) / 32

/-- One coefficient of an entry with its planned and measured sums in 2^-24 grain. Where nothing was planned and
something measured the manual gives no ratio: a free value in the range. -/
def calibrate (draw v c p g : Nat) (throttled : Bool) : Nat :=
  let x := if p == 0 then (if g == 0 then c else bound64 v (Config.freeNat draw 0 % (4 * v + 1))) else bound64 v (calib63 c p g)
  if throttled then bound64 v (calib68 x) else x

/-- Every entry whose steps ran in the tick that ends (R63, R68). -/
def Ledger.calibrated (l : Ledger) (draw : Nat) : Ledger :=
  { l with coef := l.ran.foldl (fun t e =>
      let v := imageCost l.img e.1
      let c := (Tab.get none l.coef e.1).getD v
      Tab.set none t e.1 (some
        (calibrate (draw + e.1) v.1 c.1 e.2.1 e.2.2.1 e.2.2.2, calibrate (draw + 64 + e.1) v.2 c.2 e.2.1 e.2.2.1 e.2.2.2))) l.coef }

/-- Entries of the steps that are running. -/
def Core.activeEntries (c : Core) : List Nat :=
  c.runs.flatMap fun r => r.active.flatMap fun a => a.step.costs.map (·.1)

/-! ### The governor -/

/-- Marks the running steps as lengthened, with their entries (R68). -/
def State.throttle (s : State) : State :=
  { s with
    core := { s.core with runs := s.core.runs.map fun r => { r with active := r.active.map fun a => { a with stalled := true } } }
    led := s.led.mark s.core.activeEntries }

/-- The strap's current ceiling in mA (Table 3-1), which no firmware changes (R65). -/
def Ledger.ceiling (l : Ledger) : Nat := if l.strap == 1 then 12500 else if l.strap == 2 then 20833 else 6250

/-- A limit of R65 is exceeded: the 1 ms rolling average above the ceiling, a 10 µs average above 1.25 times it. -/
def Ledger.exceeded (l : Ledger) (ms1 us10 : Nat) : Bool := decide (l.ceiling < ms1) || decide (5 * l.ceiling < 4 * us10)

/-- The averages are low enough for the level to fall (R66): at or below 95 % of both limits. -/
def Ledger.calm (l : Ledger) (ms1 us10 : Nat) : Bool :=
  decide (100 * ms1 ≤ 95 * l.ceiling) && decide (400 * us10 ≤ 5 * 95 * l.ceiling)

/-- GOVERNOR_RAISE (R65, R66, Table 3-3): a limit is exceeded and the level rises by one, up to 4. -/
def execGovernorRaise (s : State) (ms1 : Nat := 0) (us10 : Nat := 0) : Host.Outcome State Fault Refusal :=
  .next <|
    if s.core.mstate == .off || !s.led.exceeded ms1 us10 then s
    else
      let n := min 4 (s.led.level + 1)
      { s with led := { s.led with level := n, levelMax := max s.led.levelMax n } }.throttle

/-- GOVERNOR_LOWER (R66). -/
def execGovernorLower (s : State) (ms1 : Nat := 0) (us10 : Nat := 0) : Host.Outcome State Fault Refusal :=
  .next (if s.core.mstate == .off || !s.led.calm ms1 us10 then s else { s with led := { s.led with level := s.led.level - 1 } })

/-! ### Tick 0 -/

/-- The ledger of the first tick, whose build ran in BOOT (R55, R57): Vb is the lowest average since the release of MCP; the
cost of the fixed items is a free value. The throttles of BOOT are no throttles of tick 0 (R68). -/
def Ledger.first (l : Ledger) (draw period vb : Nat) : Ledger :=
  let b := budgetOf l.contract vb period
  let plan := Config.freeNat draw 2
  { l with
    vbNow := vb, vbBoot := vb, levelMax := l.level, budget := b, floorEst := l.floorOf, sheafPlan := plan
    floorShort := decide (plannable b l.floorOf * 2 ^ 24 < plan) }

end Sys2Proof.Machine
end

