-- ==== Sys2Proof/Machine/Module.lean ====
section
/-! DEFINITION. The module: supply and resets (R480 to R483), start (R461, R462), temperatures (R410, R484), SMBus
(R486, R487) and telemetry (R488). -/

namespace Sys2Proof.Machine

/-! ### What a module reset leaves -/

/-- An image across a module reset: flash and fuses stay; an activation whose boundary had not come is gone, a DRAMTAB
that waits for the next start is not (Table 20-7). -/
def Image.afterReset (i : Image) : Image :=
  { a := i.a, b := i.b, svnMin := i.svnMin, window := i.window, nextStart := i.nextStart
    sched := if i.nextStart then i.sched else none }

/-- An array across a module reset: the darning map stays (R208). -/
def Arr.afterReset (a : Arr) : Arr := { a with state := if a.state == 3 then 0 else a.state, bad := [], whole := false, idle := false }

/-- The machine in a module reset (R483): every state cleared but flash, fuses and the darning map. Host memory and
the level of PERST# are the host's; the link is down. -/
def State.cleared (s : State) : State :=
  { pending := s.pending
    core := { host := { mem := s.core.host.mem, perst := s.core.host.perst }, free := s.core.free, retired := s.core.retired }
    mend := { arrs := Tab.mapAll {} s.mend.arrs fun _ a => a.afterReset }
    fw := { images := Tab.mapAll {} s.fw.images fun _ i => i.afterReset
            owners := s.fw.owners, dirA := s.fw.dirA, dirB := s.fw.dirB }
    mod := { vin := s.mod.vin, pwrgd := s.mod.pwrgd } }

/-- Rails off: no PWRGD, in reset, the SMBus address lost (R481, R483, R486). -/
def State.unpowered (s : State) : State :=
  let t := s.cleared
  { t with
    core := { t.core with mstate := .off }
    mod := { t.mod with pwrgd := false } }

/-! ### Supply and reset rows -/

/-- VIN_RISE (R480, R481): above 11.4 V the module powers its rails; not while THERMTRIP# holds it (R484). -/
def execVinRise (mv : Nat) (s : State) : Host.Outcome State Fault Refusal :=
  .next <|
    if s.core.mstate != .off || s.mod.thermtrip || mv < 11400 then s
    else { s with core := { s.core with mstate := .boot }, mod := { s.mod with vin := true, inReset := true, pwrgd := false } }

/-- PWRGD_RELEASE (R481). -/
def execPwrgdRelease (s : State) : Host.Outcome State Fault Refusal :=
  .next (if s.core.mstate == .off then s else { s with mod := { s.mod with pwrgd := true } })

/-- UNDERVOLTAGE (R481). -/
def execUndervoltage (s : State) : Host.Outcome State Fault Refusal :=
  .next (if s.core.mstate == .off then s
    else let t := s.unpowered; { t with mod := { t.mod with vin := false } })

/-- RESET_N_ASSERT (R482, R483): held for 10 µs or longer it resets the module, and the SMBus address stays; whether a
shorter pulse does is a free value. -/
def execResetNAssert (ns : Nat) (s : State) : Host.Outcome State Fault Refusal :=
  .next <|
    let s' := { s with core := { s.core with free := s.core.free + 1 } }
    if s.core.mstate == .off then s
    else if ns < 10000 && Config.freeNat s.core.free 0 % 2 == 0 then s'
    else let t := s'.cleared; { t with mod := { t.mod with smbus := s.mod.smbus } }

/-! ### Start -/

/-- A start finds an image (R462): an activated DRAMTAB, or an image put in force in RECOVERY, begins its trial; an
image in TRIAL other than DRAMTAB gives way to its FALLBACK. -/
def Image.atStart (k : Nat) (i : Image) : Image :=
  let state (i : Image) (b : Bool) (st : SState) : Image := i.setSlot b { (i.slot b) with state := st }
  let trial (i : Image) : Image := { i with left := i.window, counted := 0, healthy := 0, nextStart := false, sched := none }
  if i.nextStart then
    match i.sched, i.find .valid with
    | some _, some b => trial (state (state i (!b) .fallback) b .trial)
    | _, _ => trial (state i i.inB .trial)
  else
    match i.find .trial, i.find .fallback with
    | some t, some f => if k == 6 then trial i else state (state i t .valid) f .active
    | some _, none => trial i
    | _, _ => i

/-- A slot in force that fails R458 gives way to the other one, if that is VALID and verifies (R462). -/
def Image.choose (i : Image) (k : Nat) (owners : Tab Owner) : Option Image :=
  if i.inForce.verify k i.svnMin owners == .good then some i
  else if k == 1 || k == 6 then none
  else
    let o := !i.inB
    if (i.slot o).state == .valid && (i.slot o).verify k i.svnMin owners == .good then
      some ((i.setSlot i.inB { i.inForce with state := .invalid }).setSlot o { (i.slot o) with state := .active })
    else none

/-- Reason of Table 20-10 for an image that has no slot to run from. -/
def failReason (k : Nat) : Nat := if k == 1 then 3 else if k == 6 then 4 else 8

/-- SEC's step 3: the images to run, or the first reason found. -/
def Fw.chooseAll (f : Fw) : Fw × Option Nat :=
  [1, 2, 3, 4, 5, 6].foldl (fun r k =>
    match r.2, ((r.1.image k).choose k r.1.owners) with
    | some x, _ => (r.1, some x)
    | none, some i => (r.1.updImage k fun _ => i, none)
    | none, none => (r.1, some (failReason k))) (f, none)

/-- SEC's steps 4 and 5: guards sealed, measurements fixed, over the slot in force of each image, or over slot A when no directory copy
is usable. -/
def State.seal (s : State) : State :=
  let slotOf (i : Image) : ISlot := if s.fw.dirUsable then i.inForce else i.a
  let s := { s with fw := { s.fw with
    sealed := true
    images := Tab.mapAll {} s.fw.images fun _ i => { i with startedB := s.fw.dirUsable && i.inB }
    meas := [1, 2, 3, 4, 5, 6].foldl (fun t k => Tab.set [] t (k + 1) ((slotOf (s.fw.image k)).measure k)) s.fw.meas } }
  let s := { s with fw := { s.fw with meas := Tab.set [] s.fw.meas 1 Config.romDigest } }
  { s with fw := { s.fw with meas := Tab.set [] s.fw.meas 8 s.guardDigest } }

/-- Straps take effect (R53, R479). -/
def State.readStraps (s : State) (st : Straps) : State :=
  let w := strapW (st.pwrSel % 4)
  { s with
    mod := { s.mod with inReset := false, straps := st }
    led := { s.led with strap := st.pwrSel % 4, contract := w, pending := none }
    link := { s.link with strap := st.tickMaster } }

/-- MODULE_RESET_END (R461, R462, R482): SEC reads the straps, chooses and verifies the images, seals the guards and
fixes the measurements; MCP brings up DRAM and loads the images. `dramOk`: every sub-channel passes its pattern check
(R411). -/
def execModuleResetEnd (st : Straps) (dramOk : Bool) (s : State) : Host.Outcome State Fault Refusal :=
  .next <|
    if s.core.mstate != .boot || !s.mod.inReset || !s.mod.pwrgd then s
    else
      let s := s.readStraps st
      if st.recovery then s.seal.recover 1
      else if !s.fw.dirUsable then s.seal.recover 2
      else
        let f := ([1, 2, 3, 4, 5, 6].foldl (fun (f : Fw) k => f.updImage k (Image.atStart k)) s.fw).chooseAll
        let s := { s with fw := f.1 }.seal
        match f.2 with
        | some r => s.recover r
        | none =>
          if !dramOk then s.recover 5
          else { s with
            dram := { s.dram with up := true }
            mod := { s.mod with started := true } }.tablesOf

/-- BOOT_END (R115, R461, R434): READY begins with tick 0, and its start carries an edge. Where the refresh grid stands
to the tick is a free value. -/
def execBootEnd (s : State) (vbMv : Nat := 12000) : Host.Outcome State Fault Refusal :=
  .next <|
    if s.core.mstate != .boot || !s.mod.started then s
    else
      let d := s.core.draw
      { s with
        core := d.2.setM .ready
        tick := { s.tick with count := 0, outEdges := s.tick.outEdges + 1 }
        led := s.led.first d.1 s.tick.period vbMv
        dram := { s.dram with phase := Config.freeNat d.1 0 % 3904 } }

/-! ### Temperatures -/

/-- TEMPERATURE_READING (R410, R484). -/
def execTemperatureReading (tj tdram : Nat) (s : State) : Host.Outcome State Fault Refusal :=
  .next <|
    if s.core.mstate == .off then s
    else
      let hot := decide (100 < tj) || decide (85 < tdram)
      let cool := decide (tj ≤ 95) && decide (tdram ≤ 82)
      let n := if cool then s.mod.coolTicks + 1 else 0
      let rise := hot && !s.mod.tempAlert
      { s with
        core := { s.core with alert := s.core.alert || rise }
        dram := { s.dram with temp := tdram, over85 := s.dram.over85 || decide (85 < tdram) }
        mod := { s.mod with tj := tj, coolTicks := n, tempAlert := hot || (s.mod.tempAlert && decide (n < 2)) } }

/-- THERMAL_TRIP (R484). -/
def execThermalTrip (s : State) : Host.Outcome State Fault Refusal :=
  .next (if s.core.mstate == .off then s
    else let t := s.unpowered; { t with mod := { t.mod with thermtrip := true } })

/-- THERMTRIP_RELEASE (R484): VIN has been below 2 V for 100 ms. -/
def execThermtripRelease (s : State) : Host.Outcome State Fault Refusal :=
  .next (if s.mod.thermtrip then { s with mod := { s.mod with thermtrip := false, vin := false } } else s)

/-! ### SMBus -/

/-- The module answers over SMBus: not OFF, not in a trip, in BOOT once configuration space answers (R487). -/
def State.smbusUp (s : State) : Bool :=
  match s.core.mstate with
  | .off => false
  | .boot => !s.core.host.perst
  | _ => true

/-- SMBUS_ARP (R486). -/
def execSmbusArp (addr : Nat) (s : State) : Host.Outcome State Fault Refusal :=
  .next (if s.core.mstate == .off then s else { s with mod := { s.mod with smbus := some (addr % 128) } })

/-- ALERT_RESPONSE (R487). -/
def execAlertResponse (s : State) : Host.Outcome State Fault Refusal :=
  .next (if s.core.mstate == .off then s else { s with core := { s.core with alert := false } })

/-- MCTP answers over a bus: PCIe once the link is up, SMBus with an address (R398, R487). -/
def State.mctpUp (s : State) (b : Bus) : Bool :=
  match b with
  | .doe => false
  | .vdm => s.smbusUp && s.core.host.linkUp
  | .smbus => s.smbusUp && s.mod.smbus.isSome

def State.mctpSend (s : State) (b : Bus) (l : List Byte) : State :=
  { s with mod := { s.mod with mctpOut := s.mod.mctpOut ++ [(b, l)] } }

/-- The telemetry payload, Table 21-4. -/
def State.telemetry (s : State) (vin iin tj tdram : Nat) : List Byte :=
  leBytes 1 (mstateCode s.core.mstate) ++
    leBytes 1 (s.mod.tempAlert.toNat + 2 * (s.led.strap == 3).toNat + 4 * (s.led.level != 0).toNat) ++
    leBytes 1 (if s.core.mstate == .recovery then strapW s.led.strap else s.led.contract) ++ leBytes 1 s.led.level ++
    leBytes 2 vin ++ leBytes 2 iin ++ leBytes 1 tj ++ leBytes 1 tdram ++ zeros 2 ++
    leBytes 8 (if mlive s.core.mstate then s.tick.count else 0) ++ leBytes 8 Config.serial.toNat ++ zeros 4

/-- TELEMETRY_REQUEST (R488): the payload is answered behind the vendor header. -/
def execTelemetryRequest (b : Bus) (vinMv iinMa tj tdram : Nat) (s : State) : Host.Outcome State Fault Refusal :=
  .next <|
    if !s.mctpUp b then s
    else
      { s with
        mod := { s.mod with tj := tj, iinMa := iinMa }
        led := { s.led with vb := vinMv } }.mctpSend b (s.telemetry vinMv iinMa tj tdram)

end Sys2Proof.Machine
end

