-- ==== Sys2Proof/Machine/Mgmt.lean ====
section
/-! DEFINITION. The DOE mailbox (R397), MCTP (R398) and SPDM (R473, R474). The bytes that the SPDM and MCTP standards give
an answer are constants of Config (log 17); what the manual itself puts into an answer stands behind them. -/

namespace Sys2Proof.Machine

/-- Objects that the DOE mailbox takes: up to 16 KB, of DOE Discovery (0) or CMA/SPDM (1), while configuration space
answers. -/
def State.doeTakes (s : State) (proto : Nat) (obj : List Byte) : Bool :=
  s.core.mstate != .off && !s.core.host.perst && !s.mod.doeBusy && decide (obj.length ≤ 16384) && decide (proto < 2)

/-- DOE_REQUEST (R397): an object waits for its answer; Busy is set. -/
def execDoeRequest (proto : Nat) (obj : List Byte) (s : State) : Host.Outcome State Fault Refusal :=
  .next (if s.doeTakes proto obj then { s with mod := { s.mod with doeBusy := true, doeObj := some (proto, obj) } } else s)

/-- DOE_ABORT (R397). -/
def execDoeAbort (s : State) : Host.Outcome State Fault Refusal :=
  .next { s with mod := { s.mod with doeBusy := false, doeObj := none } }

/-- The mailbox holds an object of a protocol. -/
def State.doeHolds (s : State) (proto : Nat) : Bool := s.mod.doeBusy && (s.mod.doeObj.map (·.1)) == some proto

/-- Answers the object in progress. -/
def State.doeAnswer (s : State) (l : List Byte) : State :=
  { s with mod := { s.mod with doeBusy := false, doeObj := none, doeOut := some l } }

/-- DOE_DISCOVERY (R397): the protocols are DOE Discovery and CMA/SPDM, so the answer to index 0 names index 1 next. -/
def execDoeDiscovery (index : Nat) (s : State) : Host.Outcome State Fault Refusal :=
  .next (if s.doeHolds 0 then s.doeAnswer (Config.spdmBytes 0 [index]) else s)

/-! ### MCTP control -/

/-- SET_ENDPOINT_ID (R398). -/
def execSetEndpointId (b : Bus) (eid : Nat) (s : State) : Host.Outcome State Fault Refusal :=
  .next <|
    if !s.mctpUp b then s
    else
      let s := { s with mod := match b with
        | .vdm => { s.mod with eidVdm := some (eid % 256) }
        | _ => { s.mod with eidSmbus := some (eid % 256) } }
      s.mctpSend b (Config.mctpBytes 1 [eid % 256])

/-- MCTP_CONTROL (R398). -/
def execMctpControl (b : Bus) (code : Nat) (s : State) : Host.Outcome State Fault Refusal :=
  .next <|
    if !s.mctpUp b then s
    else
      let eid := match b with
        | .vdm => s.mod.eidVdm
        | _ => s.mod.eidSmbus
      s.mctpSend b (Config.mctpBytes code [eid.getD 0])

/-! ### SPDM -/

/-- A transport on which SEC answers SPDM: an object waits in the mailbox, or MCTP answers. SEC runs once the module is
out of reset. -/
def State.spdmUp (s : State) (b : Bus) : Bool :=
  s.core.mstate != .off && !s.mod.inReset && match b with
    | .doe => s.doeHolds 1
    | _ => s.mctpUp b

def Mod.spdm (m : Mod) : Bus → Spdm
  | .doe => m.spdmDoe
  | .vdm => m.spdmVdm
  | .smbus => m.spdmSm

def Mod.setSpdm (m : Mod) (b : Bus) (x : Spdm) : Mod :=
  match b with
  | .doe => { m with spdmDoe := x }
  | .vdm => { m with spdmVdm := x }
  | .smbus => { m with spdmSm := x }

/-- Sends an SPDM answer the way the request came. -/
def State.answer (s : State) (b : Bus) (l : List Byte) : State :=
  match b with
  | .doe => s.doeAnswer l
  | _ => s.mctpSend b l

/-- Bytes that the standard gives an answer, from the request's code, its fields and the state of the connection. -/
def State.spdmHead (s : State) (b : Bus) (code : Nat) (fields : List Nat) : List Byte :=
  let c := s.mod.spdm b
  Config.spdmBytes code ([c.version.toNat, c.caps.toNat, c.algs.toNat] ++ fields)

/-- An SPDM request is answered: the connection moves on, the answer is the standard's bytes and what SEC adds. -/
def State.spdm (s : State) (b : Bus) (code : Nat) (fields : List Nat) (move : Spdm → Spdm) (more : List Byte) :
    Host.Outcome State Fault Refusal :=
  .next <|
    if !s.spdmUp b then s
    else
      let t := s.answer b (s.spdmHead b code fields ++ more)
      { t with mod := t.mod.setSpdm b (move (s.mod.spdm b)) }

/-- Requests that need negotiated algorithms get what SEC adds only then, for certificate slot 0. -/
def State.ready (s : State) (b : Bus) (slot : Nat) (l : List Byte) : List Byte :=
  if (s.mod.spdm b).algs && slot == 0 then l else []

/-- GET_VERSION (R474): SPDM 1.2; the connection starts afresh. -/
def execGetVersion (b : Bus) (s : State) : Host.Outcome State Fault Refusal :=
  s.spdm b 0x84 [] (fun _ => { version := true }) []

/-- GET_CAPABILITIES (R474). -/
def execGetCapabilities (b : Bus) (s : State) : Host.Outcome State Fault Refusal :=
  s.spdm b 0xE1 [] (fun x => if x.version then { x with caps := true } else x) []

/-- NEGOTIATE_ALGORITHMS (R474): RSASSA-PSS 3072 and SHA-256 alone; `asym` and `hash` say that the request offers them. -/
def execNegotiateAlgorithms (b : Bus) (asym hash : Nat) (s : State) : Host.Outcome State Fault Refusal :=
  s.spdm b 0xE3 [asym, hash] (fun x => if x.caps && asym != 0 && hash != 0 then { x with algs := true } else x) []

/-- GET_DIGESTS (R474): the digest of the chain in slot 0. -/
def execGetDigests (b : Bus) (s : State) : Host.Outcome State Fault Refusal :=
  s.spdm b 0x81 [] id (s.ready b 0 (sha256 Config.certChain))

/-- GET_CERTIFICATE (R474): a part of the chain in slot 0. -/
def execGetCertificate (b : Bus) (slot off len : Nat) (s : State) : Host.Outcome State Fault Refusal :=
  s.spdm b 0x82 [slot, off, len] id (s.ready b slot ((Config.certChain.drop off).take len))

/-- The measurements in force for an index of Table 20-9, all of them for 0xFF. -/
def State.measured (s : State) (index : Nat) : List Byte :=
  if index == 0xFF then (List.range 8).flatMap fun i => Tab.get [] s.fw.meas (i + 1)
  else if 1 ≤ index && index ≤ 8 then Tab.get [] s.fw.meas index else []

/-- CHALLENGE (R473, R474): the digest of the chain and the measurements, signed with the identity key. -/
def execChallenge (b : Bus) (slot : Nat) (nonce : List Byte) (s : State) : Host.Outcome State Fault Refusal :=
  let body := s.spdmHead b 0x83 (slot :: nonce.map (·.toNat)) ++ sha256 Config.certChain ++ nonce ++ s.measured 0xFF
  s.spdm b 0x83 (slot :: nonce.map (·.toNat)) id
    (s.ready b slot (sha256 Config.certChain ++ nonce ++ s.measured 0xFF ++ Config.idSign body))

/-- GET_MEASUREMENTS (R474): the measurements in force when SEC builds the answer, signed. -/
def execGetMeasurements (b : Bus) (index : Nat) (nonce : List Byte) (s : State) : Host.Outcome State Fault Refusal :=
  let body := s.spdmHead b 0xE0 (index :: nonce.map (·.toNat)) ++ s.measured index ++ nonce
  s.spdm b 0xE0 (index :: nonce.map (·.toNat)) id
    (s.ready b 0 (s.measured index ++ nonce ++ Config.idSign body))

/-- SPDM_SESSION_REQUEST (R474): ERROR UnsupportedRequest, 0x7F with error code 0x07. -/
def execSpdmSessionRequest (b : Bus) (code : Nat) (s : State) : Host.Outcome State Fault Refusal :=
  .next (if s.spdmUp b then s.answer b (Config.spdmBytes 0x7F [0x07, code]) else s)

end Sys2Proof.Machine
end

