-- ==== Sys2Proof/Machine/Plan.lean ====
section
/-! DEFINITION. The plan of a sheaf: the work of a command at its planned maximum (R94, R203, R238), what a planned step must meet
(R18, R36, R39, R58, R60, R284 to R291), where it starts when the build does not say, and the jobs of instances, pictures, clips,
seams and weight-sharing runs (R107, R168, R255, R305, R338). -/

namespace Sys2Proof.Machine

/-! ### Work at the planned maximum -/

/-- An operand at its planned maximum. -/
def Env.maxView (e : Env) (k : Nat) : View :=
  match e.dWord k with
  | some d => { dtype := d.dtype, dims := d.maxDims, trans := d.transposed, group := d.group, hasRow := d.rowH != 0 }
  | none => { dtype := 0x10, dims := [] }

/-- Types of those of some operand words that are present. -/
def Env.types (e : Env) (ks : List Nat) : List Nat :=
  (ks.filter fun k => (dWords e.op e.sub e.flags).contains k).filterMap fun k => (e.dWord k).map (·.dtype)

/-- A value operand that a scalar gives. -/
def Env.isScalar (e : Env) (k : Nat) : Bool := (scalarRef (e.word k)).isSome

/-- A count at its planned maximum. -/
def Env.maxNat (e : Env) (k limit : Nat) : Nat := if e.isScalar k then limit else min limit (e.nat k)

/-- The picture of the instance, decoded or not. -/
def Env.anyPic (e : Env) (c : Core) : Option (Nat × Pic) :=
  (e.inst.bind (·.pic)).bind fun x => ((c.ctx x.1).pics.find? (·.num == x.2)).map fun p => (x.1, p)

def maxShape (e : Env) (c : Core) : List Piece :=
  match e.anyPic c with
  | none => []
  | some kp =>
    let x := c.ctx kp.1
    let y := (e.maxView 0).dims
    let cap := if e.sub == 2 then dim y 3 else 1
    let app := (shapeRects e x kp.2 cap).map fun r => applied r.1 r.2.1 r.2.2.1 r.2.2.2 (dim y 1) (dim y 2) (bitAt 8 (e.word 2))
    [shapePiece (e.dramRate c) (e.word 2) (dim y 1) (dim y 2) cap (shapeReads x kp.2 (dim y 1) (dim y 2) app)]

def maxMotion (e : Env) (c : Core) : List Piece :=
  match e.anyPic c with
  | none => []
  | some kp =>
    let low := c.insts.all fun i => i.pic != (e.inst.bind (·.pic)) || decide ((e.inst.bind (·.binding)).getD 0 ≤ i.binding.getD 0)
    [motionPiece kp.2.info.width kp.2.info.height (8 * 2 ^ e.sub) low]

/-- Vector, format and media commands at their planned maximum. -/
def maxVector (e : Env) (c : Core) : List Piece :=
  let v := e.maxView
  match e.op with
  | 0x2001 =>
    let cmp := decide (10 ≤ e.sub) && decide (e.sub ≤ 15)
    [.vector (laneTime (e.types (if cmp then [0, 1, 5] else [0, 1, 2, 5])) 1 (v 0) 12)]
  | 0x2002 => [.vector (redTime (e.flags / 64) (e.types (if e.sub == 4 || e.sub == 5 then [0] else [0, 1])) (v 0))]
  | 0x2003 => [.vector (laneTime (e.types [0, 2]) 2 (v 0) 16)]
  | 0x2004 => [.vector (spreadTime (v 0) (v 2))]
  | 0x2005 => [.vector (sfnTime (e.types [0, 1]) (v 0))]
  | 0x2006 => [.vector (topkTime (v 0) (v 1).dtype (v 1).d0)]
  | 0x2007 => [.vector (nmsTime (dim (v 0).dims 1) (v 2).d0)]
  | 0x2008 => [.vector (assocTime (dim (v 0).dims 1) (v 0).d0)]
  | 0x2009 => [.vector (poolTime (decide (3 ≤ e.sub)) (geomOf (e.word 4)) (v 0) (v 1))]
  | 0x200A => [.vector (rowTime 3 (e.types [0, 1, 2, 3]) (v 0))]
  | 0x200B => [.vector (rowTime 4 (e.types [0, 1]) (v 0))]
  | 0x200C => [.vector (laneTime (e.types [0, 1]) 2 (v 0) 16)]
  | 0x3001 | 0x3003 => [.vector (if e.sub == 0 then pressTime (v 0) (v 1) else onePassTime (v 0) (v 1))]
  | 0x3002 => [.vector (onePassTime (v 0) (v 1))]
  | 0x3004 => [.vector (convertTime (v 0) (v 1))]
  | 0x5004 => [.vector (optimTime (e.sub == 1) (v 0))]
  | 0x4005 => maxShape e c
  | 0x4009 => maxMotion e c
  | _ => []

/-- Cache, graft and host transfers at their planned maximum. -/
def maxMove (e : Env) (c : Core) : List Piece :=
  let v := e.maxView
  let k := c.cache e.part (e.word 0)
  match e.op with
  | 0x000B =>
    [emitPiece e c (emitBytes e.sub (e.maxNat 2 (v 0).rows * rowBytes (v 0).dtype (v 0).d0))]
  | 0x1010 => [.move (v 0).bytes 128 32 [(21, 1)]]
  | 0x1011 => [.move (v 0).bytes 256 16 [(20, 1)]]
  | 0x1012 =>
    [.move ((if e.sub == 0 then (v 0).rows else e.maxNat 3 (v 0).rows) * rowBytes (v 0).dtype (v 0).d0) 256 16 [(20, 1)]]
  | 0x5001 => [dramMoves (e.dramRate c) 1 k.slotSize true]
  | 0x5002 => if e.sub == 1 && k.isOpen && k.moves != 0 then [dramMoves (e.dramRate c) k.moves k.slotSize true] else []
  | 0x5003 => [dramMoves (e.dramRate c) (dim (v 1).dims k.rank) k.slotSize false]
  | 0x5005 =>
    let es := (c.adapter e.part (e.word 0)).entries
    if e.sub == 1 then [.move (es.foldl (fun n x => n + c.copyBytes e.part (handleNum x.1)) 0) 256 (16 * es.length) [(20, 1)]] else []
  | 0x6003 | 0x6004 =>
    let b := e.bufNum c e.hostHandle
    let key := e.key (((c.buf? e.part b).map (·.desc.scope)).getD 0)
    hostPieces e c (e.maxNat 4 (c.copyBytes e.part b)) (e.op == 0x6003) (c.copy e.part b key).place
  | _ => []

/-- The stages of a command's work with every dynamic dimension at its planned maximum, as its run has them; a reduction is reserved
at its full length, whatever KLEN or KVLEN says (R163, R177). -/
def maxPieces (e : Env) (c : Core) : List Piece :=
  let v := e.maxView
  match e.op with
  | 0x1001 =>
    matmulPieces e c (v 0) (v 1) (v 2) (v 0).d0 (if e.isScalar 4 || e.int 4 == 0 then (v 2).bytes else 0)
  | 0x1002 => convPieces e (v 0) (v 1) (v 2)
  | 0x1003 => [.vector (dwconvTime e (v 0) (v 1) (v 2))]
  | 0x1004 => attendPieces e c (v 0) (v 1) (v 2) (rowsOf (v 1).dims)
  | _ => maxVector e c ++ maxMove e c

/-! ### A plan -/

/-- What a build knows: the machine, what the row brings, the tick that it plans. -/
structure Site where
  s     : State
  b     : Build
  tick  : Nat
  perio : Nat
  hemNs : Nat
  /-- Peff in mW and the floor estimate (R54, R57). -/
  peff  : Nat
  floor : Nat
  /-- Plannable grains left after pass 1, reservations and gleaning limits of partitions, 0 unlimited (R60, R283). -/
  left  : Nat := 0
  res   : Nat → Nat := fun _ => 0
  limit : Nat → Nat := fun _ => 0
  /-- Lent time of a slice is offered to its owner's gleaning instances alone; what they take of it is kept from others (R289). -/
  owned  : Bool := false
  claims : List Slice := []

/-- A work to plan: what is left of its steps, in order, what must have ended before it starts, and what the sheaf says of it. -/
structure Job where
  work   : Work
  part   : Nat
  lc     : Bool
  choice : Choice
  steps  : List PStep
  /-- All its steps, for the command that has not started. -/
  whole  : List PStep := []
  after  : List Work := []
  /-- Why it cannot be planned: no picture slot (2), no place for a copy (9). -/
  bad    : Option Nat := none
  pieces : List Piece := []
  /-- What problems of one weight-sharing run have in common (R168), and the rows of this one. -/
  key    : Option (List Nat × Block) := none
  /-- The tiller that it goes to first (R252), all those to which its tiles are dealt (R202), its outputs: bytes and places. -/
  home   : Nat := 0
  pool   : List Nat := []
  outs   : List (Nat × Place) := []
  /-- Copies that get a place with it, and those that its transfers take to theirs; other room. -/
  spots  : Spots := []
  carry  : Spots := []
  temps  : List Temp := []
  signal : Option (Nat × Nat) := none

/-- A plan in the making: the machine as the builder's walk leaves it (R107), the sheaf, when each work that is planned to its end
ends, SIGNALs admitted (partition, counter, amount, work). -/
structure Plan where
  c       : Core
  sheaf   : Sheaf := {}
  ends    : List (Work × Nat) := []
  signals : List (Nat × Nat × Nat × Work) := []
  /-- What has been planned, in the order of admission: the pass, the job with the steps that are, whether they are all. -/
  done    : List (Nat × Job × Bool) := []

/-- Coefficients of this build (R63). -/
def Site.amb (x : Site) : Amb := x.s.led.ambNext

def PSlot.stop (q : PSlot) : Nat := ((q.start + q.step.dur : Nat) + q.leg).toNat

/-- Two engines that cannot run steps at the same time. -/
def overlaps : Engine → Engine → Bool
  | .arrays t f l q, .arrays u g m r => t == u && decide (f < g + m) && decide (g < f + l) && (q.isNone || r.isNone || q == r)
  | .granary, .granary => false
  | a, b => a == b

/-- What a step takes when it starts at a time: each array of a chain for its own strip (R189, R194), any other engine as a whole. -/
def PStep.spans (s : PStep) (t : Int) : List (Engine × Int × Int) :=
  match s.eng, s.holds with
  | .arrays u f _ q, h :: r =>
    (h :: r).zipIdx.map fun y => (.arrays u (f + y.2) 1 q, t + (y.1.1 : Int), t + (y.1.1 : Int) + (y.1.2 : Int))
  | e, _ => [(e, t, t + (s.dur : Int))]

/-- Accesses to scratchpad banks of a step that starts at a time: tiller, bank, ac. Line L lies in bank L mod 64 (R184). -/
def PStep.bankAt (s : PStep) (t : Int) : List (Nat × Nat × Int) := s.banks.map fun b => (b.1, b.2.2 % 64, t / 4 + (b.2.1 : Int))

/-- Two steps, each with its start, want one engine or one crossbar slot at the same time, or one bank in one ac (R18, R184). -/
def PStep.clash (a : PStep) (s : Int) (b : PStep) (t : Int) : Bool :=
  let both (x y : Int × Int) : Bool := decide (x.1 < y.2) && decide (y.1 < x.2)
  (overlaps a.eng b.eng && (a.spans s).any fun x => (b.spans t).any fun y => overlaps x.1 y.1 && both x.2 y.2) ||
    (meet a.xbar b.xbar && both (s, s + (a.dur : Int)) (t, t + (b.dur : Int))) ||
    (a.bankAt s).any (b.bankAt t).contains

/-- Engines on which partitions hold slices (R46): engines of the class, share of a partition, whether the hem counts (R288). -/
def sliced : Engine → Bool
  | .dec _ | .shp _ | .cle _ => true
  | _ => false

/-- Code of Table 10-5's LIMIT for an engine. -/
def limitCode : Engine → Nat
  | .arrays .. | .vector _ | .mover _ => 1
  | .dec _ => 2
  | .shp _ => 3
  | .cle _ => 4
  | .granary => 5
  | .link _ => 6
  | .hostDma => 7

/-- The logical array of a tiller that a sheaf may use (R207, R209, R444): it is in service, waits for no darning, is not the one
under self-test; nor has a block of it failed parity (R445). -/
def Mend.holder (m : Mend) (t a : Nat) : Option Nat :=
  (List.range 66).find? fun p => (m.arr t p).state == 0 && (m.arr t p).slot == a
def State.arrayLive (s : State) (t a : Nat) : Bool :=
  match s.mend.holder t a with
  | none => false
  | some p =>
    let m := s.mend.learn
    (m.arr t p).bad.isEmpty && !(m.arr t p).whole && !m.parity.contains (t, p) && m.pickTest s.core.retired != some (t, p)
def State.arraySkew (s : State) (t a : Nat) : Nat :=
  match s.mend.holder t a with
  | none => 0
  | some p => (s.mend.arr t p).skew.toNat

/-- What an engine asks of the module: a tiller of the partition and arrays in service, a stream's decoder, a port that is up. -/
def Site.engineOk (x : Site) (part : Nat) : Engine → Bool
  | .arrays t f l _ => (x.s.core.tillersOf part).contains t && (List.range l).all fun j => x.s.arrayLive t (f + j)
  | .vector t | .mover t => (x.s.core.tillersOf part).contains t
  | .dec d => decide (d < 8)
  | .shp n => decide (n < 4)
  | .cle n => decide (n < 2)
  | .link p => decide (p < 6) && (x.s.link.port p).state == 2
  | .hostDma | .granary => true

/-! ### Limits of power and of rates -/

/-- Share of an amount, spread over a time, that falls into a window. -/
def within (amount start dur w len : Nat) : Rat :=
  let lo := max start w
  let hi := min (start + dur) (w + len)
  if hi ≤ lo then 0 else ((amount * (hi - lo) : Nat) : Rat) / ((max 1 dur : Nat) : Rat)

/-- The windows of a length at which a sum over steps can be largest: those that begin or end where a step does. -/
def windows (per len : Nat) (l : List (Nat × Nat)) : List Nat :=
  ((0 :: l.flatMap fun q => [q.1, q.1 + q.2, q.1 - len, q.1 + q.2 - len]).map fun w => min w (per - len)).dedup

/-- Planned steps and the floor stay within 97 % of a power in every window of the tick (R58): costs in 2^-24 grain, the power
as `num`/`den` of Peff. -/
def Site.calm (x : Site) (len num den : Nat) (l : List (Nat × Nat × Nat)) : Bool :=
  (windows x.perio len (l.map fun q => (q.1, q.2.1))).all fun w =>
    decide (l.foldl (fun n q => n + within q.2.2 q.1 q.2.1 w len) (within (x.floor * 2 ^ 24) 0 x.perio w len) ≤
      ((97 * x.peff * len * num * 2 ^ 24 : Nat) : Rat) / ((100000000 * den : Nat) : Rat))

/-- Planned cost of a fixed item, in 2^-24 grain (R61). -/
def Amb.fixed (a : Amb) (f : Fixed1) : Nat := f.count * a.plan f.costs

/-- What draws planned grains: steps of a sheaf and fixed items, as start, duration and cost. -/
def Site.loads (x : Site) (h : Sheaf) : List (Nat × Nat × Nat) :=
  ((h.fixed.filter fun f => x.amb.plan f.costs != 0).flatMap fun f => (List.range f.count).map fun i =>
    (f.start + i * f.every, f.dur, x.amb.plan f.costs)) ++ (h.slots.filter (·.cost != 0)).map fun q => (q.start, q.step.dur, q.cost)

/-- Bytes per share unit of a path in 100 µs (Table 10-3), and a partition's shares of it. -/
def Site.unit (x : Site) (path : Nat) : Nat :=
  if path == 0 then 197200 else if path == 1 then x.s.core.hostLeft * 100 / 250 else 40000
def Site.share (x : Site) (part path : Nat) : Nat :=
  let g := (x.s.core.part part).grantsAt x.tick
  if path == 0 then g.dramShare else if path == 1 then g.hostDma else g.link

/-- Bytes that a step moves on a path. -/
def PStep.on (s : PStep) (path : Nat) : Nat := s.paths.foldl (fun n y => if y.1 == path then n + y.2 else n) 0

/-- Transfers on a path within a rate in every 100 µs window of the tick (R290). -/
def Site.paced (x : Site) (path units : Nat) (l : List PSlot) : Bool :=
  (windows x.perio 100000 (l.map fun q => (q.start, q.step.dur))).all fun w =>
    decide (l.foldl (fun n q => n + within (q.step.on path) q.start q.step.dur w 100000) 0 ≤ ((units * x.unit path : Nat) : Rat))

/-- Every path that a step uses stays within the partition's share for what passes 2 and 3 plan, transfers of rings too, and within
the whole rate for the rest, to which what is left is lent. -/
def PSlot.paid (q : PSlot) : Bool := q.lc || q.pass == 3
def Site.rateOk (x : Site) (h : Sheaf) (q : PSlot) : Bool :=
  q.step.paths.all fun y =>
    let l := h.slots.filter fun r => r.step.on y.1 != 0
    x.paced y.1 250 (q :: l) && (!q.paid || x.paced y.1 (x.share q.part y.1) (q :: l.filter fun r => r.part == q.part && r.paid))

/-! ### Slices -/

/-- Slices in which steps of a partition may lie: its own, and for gleaning work the ones lent to it. A lent slice begins when the
steps that pass 3 planned in a slice it lies in have ended (R289). -/
def Sheaf.slicesFor (h : Sheaf) (part : Nat) (lc : Bool) (e : Engine) : List (Nat × Open) :=
  (h.slices.zipIdx.map fun y => (y.2, y.1)).filter fun y =>
    let o := y.2
    o.plan.eng == e && o.plan.part == part &&
      (!o.plan.lent || (!lc && h.slots.all fun q => !(q.lc && overlaps q.step.eng e) || decide (q.stop ≤ o.start) ||
        decide (o.start + o.len ≤ q.start)))

/-- What is free of the first `hi` ns of an engine, `l` listing what is taken by start and length, in order. -/
def freeGaps (hi : Nat) : List (Nat × Nat) → Nat → List (Nat × Nat)
  | [], a => if a < hi then [(a, hi - a)] else []
  | (s, n) :: r, a => if a < min s hi then (a, min s hi - a) :: freeGaps hi r (max a (s + n)) else freeGaps hi r (max a (s + n))

/-- The end of the time in which slices of an engine may lie (R288). -/
def Site.span (x : Site) : Engine → Nat
  | .dec _ => x.perio
  | _ => x.perio - x.hemNs

/-- Lent time on an engine (R289): what a slice has after the last step planned in it, which is its owner's first, and what no slice
covers. -/
def Site.lent (x : Site) (h : Sheaf) (part : Nat) (e : Engine) : List (Nat × Nat) :=
  let used := h.slices.zipIdx.filterMap fun y =>
    let o := y.1
    if o.plan.eng != e then none
    else if o.plan.lent then some (o.plan.start, o.plan.len)
    else if x.owned && o.plan.part != part then some (o.start, o.len)
    else
      let n := h.slots.foldl (fun n q => if q.slice == some y.2 then max n (q.stop - o.start) else n) 0
      if n == 0 then none else some (o.start, n)
  let kept := (x.claims.filter fun q => q.eng == e && q.part != part).map fun q => (q.start, q.len)
  freeGaps (x.span e) (sortBy (fun a b => decide (a.1 ≤ b.1)) (used ++ kept)) 0

/-- Debts are taken from the slices of their partition on their engine, in tick order; a slice left with less than 200 µs is
removed (R291). What is paid: partition, engine, ns. -/
def payDebt (part : Nat) (e : Engine) (l : List Open) : Nat → List Nat → List Open × Nat
  | debt, [] => (l, debt)
  | debt, k :: r =>
    match l[k]? with
    | none => (l, debt)
    | some o =>
      let n := min debt o.len
      if o.len < 200000 + n && n != 0 then payDebt part e (l.set k { o with len := 0 }) (debt - o.len) r
      else payDebt part e (l.set k { o with len := o.len - n }) (debt - n) r

/-- Index of an engine among the debts of Table 10-5. -/
def debtNo : Engine → Option Nat
  | .dec d => some d
  | .shp n => some (8 + n)
  | .cle n => some (12 + n)
  | _ => none

/-- What a sheaf leaves of a partition's debt on an engine. -/
def Site.debtLeft (x : Site) (h : Sheaf) (part : Nat) (e : Engine) : Nat :=
  (debtNo e).elim 0 fun n => Tab.get 0 (x.s.core.part part).debts n -
    ((h.paid.filter fun y => y.1 == part && y.2.1 == n).foldl (fun m y => m + y.2.2) 0)

/-- Cuts a lent slice for the steps of a partition, `need` ns long, that begins at `low` or later (R288, R289). It pays what is left of
the partition's debt on the engine first; one that the debt takes leaves its time used, and another one is cut (R291). -/
def Site.cutLent (x : Site) (part : Nat) (es : List Engine) (low need : Nat) : Nat → Sheaf → Sheaf
  | 0, h => h
  | k + 1, h =>
  let fits := es.flatMap fun e =>
    if 8 ≤ (h.slices.filter fun o => o.plan.eng == e && o.plan.part == part).length then []
    else (x.lent h part e).filterMap fun g =>
      if max low g.1 + 200000 ≤ g.1 + g.2 then
        some (e, max low g.1, min (g.1 + g.2 - max low g.1) (max 200000 need + x.debtLeft h part e)) else none
  match fits.foldl (fun (m : Option (Engine × Nat × Nat)) y => match m with
    | none => some y
    | some b => if y.2.1 < b.2.1 then some y else some b) none with
  | none => h
  | some y =>
    let sl : Slice := { eng := y.1, part := part, start := y.2.1, len := y.2.2, lent := true }
    let debt := x.debtLeft h part y.1
    let z := payDebt part y.1 [({ plan := sl, start := sl.start, len := sl.len } : Open)] debt [0]
    let g := { h with
      slices := h.slices ++ z.1
      paid := h.paid ++ match debtNo y.1 with
        | some n => if z.2 < debt then [(part, n, debt - z.2)] else []
        | none => [] }
    if z.1.all fun o => o.len == 0 then x.cutLent part es low need k g else g

/-! ### One step -/

/-- The codes of Table 10-5's LIMIT with which a step is refused: grains, placement; and one that stands for the 10 µs limit (R58). -/
def grainCode : Nat := 8
def placeCode : Nat := 9
def tightCode : Nat := 108

/-- Why a step cannot be planned at a time. Pass 1 items are charged first and never refused for grains (R59). -/
def Site.refuses (x : Site) (h : Sheaf) (q : PSlot) : Option Nat :=
  let e := q.step.eng
  let pic := match q.work with
    | .pic .. => true
    | _ => false
  let tot := (h.slots.filter fun r => r.pass != 1).foldl (fun n r => n + r.cost) q.cost
  let cls := (h.slots.filter fun r => r.pass != 1 && r.part == q.part && r.lc == q.lc).foldl (fun n r => n + r.cost) q.cost
  let l := (q.start, q.step.dur, q.cost) :: x.loads h
  if !x.engineOk q.part e || (!pic && decide (90000 < q.step.dur)) || decide (x.perio < q.stop + (!pic).toNat) ||
      h.slots.any (fun r => r.step.clash r.start q.step q.start) ||
      (sliced e && q.slice.isNone) then some (limitCode e)
  else if !x.rateOk h q then some (if q.step.on 0 != 0 then 5 else if q.step.on 1 != 0 then 7 else 6)
  else if q.pass == 1 then none
  else if decide (x.left < tot) || (q.cost != 0 && !x.calm 1000000 1 1 l) then some grainCode
  else if q.lc && decide (x.res q.part * 2 ^ 24 < cls) then some grainCode
  else if !q.lc && x.limit q.part != 0 && decide (x.limit q.part * 2 ^ 24 < cls) then some grainCode
  else if q.cost != 0 && !x.calm 10000 5 4 l then some tightCode
  else none

/-- The engines of its class on which a step may be planned. -/
def PStep.engines (s : PStep) : List Engine :=
  match s.eng with
  | .shp _ => (List.range 4).map .shp
  | .cle _ => (List.range 2).map .cle
  | e => [e]

/-- Times from `low` on at which what refuses a step may have ended: those at which steps end, with the windows of R58 behind them. -/
def Sheaf.times (h : Sheaf) (low : Nat) : List Nat :=
  sortBy (fun a b => decide (a ≤ b))
    ((low :: (h.slots.flatMap fun r => [r.stop, r.stop + 10000, r.stop + 1000000]).filter fun t => decide (low < t)).dedup)

/-- Where a step of a partition may start on an engine, from `low` on, with the slice that holds it. -/
def Sheaf.starts (h : Sheaf) (part : Nat) (lc : Bool) (s : PStep) (low : Nat) (e : Engine) : List (Engine × Nat × Option Nat) :=
  let ts := h.times low
  if !sliced e then ts.map fun t => (e, t, none)
  else (h.slicesFor part lc e).flatMap fun y =>
    ((if low < y.2.start then y.2.start :: ts else ts).filter fun t =>
      decide (y.2.start ≤ t) && decide (t + s.dur ≤ y.2.start + y.2.len)).map fun t => (e, t, some y.1)

/-- An engine that the build may name for a step instead of the one it has: another of its class, or a port for a transfer to
another module of a spanned partition. -/
def Site.mayTake (x : Site) (part : Nat) (s : PStep) (e : Engine) : Bool :=
  s.engines.contains e || match s.eng, e with
    | .mover _, .link _ => !(x.s.core.part part).grants.members.isEmpty
    | _, _ => false

/-- A transfer step to another module, of a mover's bytes (Table 9-6): entry 39 is the SEAM class. -/
def PStep.toEngine (s : PStep) (e : Engine) (hops : Nat) : PStep :=
  match s.eng, e with
  | .mover _, .link p =>
    let b := (s.tile.map (·.rows)).getD 0
    let ns := 320 * hops + ceilDiv b 100
    { s with eng := .link p, dur := ns, solo := ns, costs := [(39, 1, b)], paths := [(2 + p, b)] }
  | _, _ => { s with eng := e }

/-- Hops to the nearest member of a partition that a port leads to. -/
def Site.hops (x : Site) (part p : Nat) : Nat :=
  (((x.s.core.part part).grants.members.map (·.1)).filterMap fun m =>
    if x.s.link.portTo m == p then (x.s.link.route m).map (·.hops) else none).foldl min 255

/-- The first of some slots at which nothing refuses the step; the code of the first refusal where there is none; whether the 10 µs
limit alone has refused an earlier one. -/
def Site.seek (x : Site) (h : Sheaf) : List PSlot → Option Nat → Bool → Except Nat (PSlot × Bool)
  | [], code, _ => .error (code.getD 1 % 100)
  | q :: r, code, tight =>
    match x.refuses h q with
    | none => .ok (q, tight)
    | some k => x.seek h r (code.orElse fun _ => some k) (tight || k == tightCode)

/-- The tiller of a step's engine. -/
def tillerOf : Engine → Option Nat
  | .arrays t .. | .vector t | .mover t => some t
  | _ => none

/-- A slot is planned; a tiller that the 10 µs limit has delayed is noted (R266). -/
def Sheaf.put (h : Sheaf) (q : PSlot) (tight : Bool) : Sheaf :=
  { h with slots := h.slots ++ [q], hot := match tillerOf q.step.eng with
      | some t => if tight then (t :: h.hot).dedup else h.hot
      | none => h.hot }

/-- What the build says of a step. -/
def Site.told (x : Site) (j : Job) (s : PStep) : Option Start := x.b.starts.find? fun y => y.work == j.work && y.step == s.id

/-- The refresh windows of the tick (R408, Table 2-5). -/
def Site.refresh (x : Site) : List Fixed1 :=
  let at_ := (((x.s.dram.phase : Int) - (x.s.tick.period : Int)) % 3904).toNat
  if x.s.dram.up && !x.s.dram.sr then [{ start := at_, dur := 380, count := ceilDiv (x.perio - at_) 3904, every := 3904 }] else []

/-- How long `n` ns outside refresh windows last from `u` ns after the start of the last window (R409). -/
def gridLen (u n : Nat) : Nat := (380 - u) + n + 380 * ((u - 380 + n - 1) / 3524)

/-- Average time of the DRAM leg of a transfer step: all of it, or all but the scratchpad-and-granary leg that follows (Table 9-6). -/
def PStep.dramNs (s : PStep) : Nat :=
  if s.eng != .granary || s.on 0 == 0 then 0
  else if s.costs.any (·.1 == 20) then s.dur - 100 - ceilDiv (s.on 0) 256 else s.dur

/-- When the DRAM leg of a step that starts at a time ends: its deadline. Latency and data time count outside refresh windows alone,
and data runs faster there than on average (R409). -/
def Site.legEnd (x : Site) (s : PStep) (t : Nat) : Option Nat :=
  match x.refresh with
  | w :: _ =>
    if s.dramNs == 0 then none
    else some (t + gridLen ((((t : Int) - (w.start : Int)) % 3904).toNat) (400 + ceilDiv ((s.dramNs - 400) * 3524) 3904))
  | [] => none

/-- The slot of a step of a job. -/
def Site.slot (x : Site) (pass : Nat) (j : Job) (s : PStep) (t : Nat) (slice : Option Nat) : PSlot :=
  let y := x.told j s
  let s := { s with xbar := (y.map (·.xbar)).getD [], banks := (y.map (·.banks)).getD [] }
  { work := j.work, step := s, start := t, part := j.part, lc := j.lc, pass := pass, cost := x.amb.plan s.costs
    deadline := (x.legEnd s t).orElse fun _ => y.bind (·.deadline), slice := slice
    leg := ((x.legEnd s t).map fun d => (d : Int) - ((t + s.dramNs : Nat) : Int)).getD 0 }

/-- A slice for a gleaning step on a shared engine where the partition has none that holds it (R289). -/
def Site.lend (x : Site) (h : Sheaf) (j : Job) (s : PStep) (low need : Nat) : Sheaf :=
  if j.lc || !sliced s.eng || s.engines.any (fun e => !(h.starts j.part j.lc s low e).isEmpty) then h
  else x.cutLent j.part s.engines low need 64 h

/-- A carried decode has what is left of the first slice of its partition on its decoder that has any (R49, R288); nothing refuses
it. -/
def Site.carried (x : Site) (h : Sheaf) (j : Job) (s : PStep) (low : Nat) : PSlot :=
  let free (o : Open) : Nat := h.slots.foldl (fun n r => if r.step.eng == s.eng && decide (r.start < o.start + o.len) then max n r.stop else n) (max low o.start)
  match (h.slicesFor j.part true s.eng).find? fun y => decide (free y.2 < y.2.start + y.2.len) with
  | some y => x.slot 1 j { s with dur := min s.dur (y.2.start + y.2.len - free y.2) } (free y.2) (some y.1)
  | none => x.slot 1 j { s with dur := 0 } low none

/-- A step that a lead has placed here is planned at its own offset or not at all (R270). -/
def Site.exact (x : Site) (pass : Nat) (j : Job) (s : PStep) (low : Nat) (h : Sheaf) : Except Nat (Sheaf × Nat) :=
  let q := x.slot pass j s low none
  match x.refuses h q with
  | none => .ok (h.put q false, q.stop)
  | some k => .error (k % 100)

/-- Plans a step that is no array step: where the build says, or on the engine of its class and at the time that take it first, in any
gap; a tiller that is no longer the partition's is replaced by the command's first one (R209). -/
def Site.one (x : Site) (pass : Nat) (j : Job) (s : PStep) (low need : Nat) (h : Sheaf) : Except Nat (Sheaf × Nat) :=
  let own := x.s.core.tillersOf j.part
  let moved : Option Nat := (tillerOf s.eng).bind fun t => if own.contains t then none else if own.contains j.home then some j.home else own.head?
  let s := match moved, s.eng with
    | some t, .vector _ => { s with eng := .vector t }
    | some t, .mover _ => { s with eng := .mover t }
    | _, _ => s
  let h := x.lend h j s low need
  let slice (e : Engine) (s : PStep) (t : Nat) : Option Nat :=
    ((h.slicesFor j.part j.lc e).find? fun y => decide (y.2.start ≤ t) && decide (t + s.dur ≤ y.2.start + y.2.len)).map (·.1)
  let first : List PSlot := ((x.told j s).map fun y =>
    let e := match y.eng with
      | some e => if x.mayTake j.part s e then e else s.eng
      | none => s.eng
    let s := s.toEngine e (match e with
      | .link k => x.hops j.part k
      | _ => 0)
    if y.start < low then [] else [x.slot pass j s y.start (slice e s y.start)]).getD []
  let l := sortBy (fun (a b : Engine × Nat × Option Nat) => decide (a.2.1 ≤ b.2.1)) (s.engines.flatMap (h.starts j.part j.lc s low))
  let own := l.map fun y => x.slot pass j { s with eng := y.1 } y.2.1 y.2.2
  match x.seek h (first ++ own) none false with
  | .ok q => .ok (h.put q.1 q.2, q.1.stop)
  | .error k =>
    let clip := match j.work with
      | .clip _ => true
      | _ => false
    -- steps of a clip frame that the tick cannot hold continue in the next build (R338)
    if pass != 1 || clip then .error (if (first ++ own).isEmpty then limitCode s.eng else k)
    else
      let q := if sliced s.eng then x.carried h j s low
        else x.slot 1 j s (h.slots.foldl (fun n r => if overlaps r.step.eng s.eng then max n r.stop else n) low) none
      .ok (h.put q false, q.stop)

/-- Plans steps one after the other. -/
def Site.chain (x : Site) (pass : Nat) (j : Job) : List PStep → Nat → Sheaf → Except Nat (Sheaf × Nat)
  | [], low, h => .ok (h, low)
  | s :: r, low, h => do
    let y ← x.one pass j s low 0 h
    x.chain pass j r y.2 y.1

/-! ### Room -/

/-- What lies on chip in the tick: copies, those that move or are carried to new places, and what works take. -/
def Core.onChipNow (c : Core) (h : Sheaf) : List Temp :=
  c.layout (c.spots h.places ++ (h.carries.filter fun y => match y.1 with
    | .move _ => false
    | _ => true).flatMap (·.2)) (c.aims ++ h.temps)

/-- Steps that the builder adds to those that the stages of a work give have numbers of their own: transfers of outputs to their places,
which form stages of their own; moves of output rows to the first tiller, those of each sheaf by their own; and, made anew with each
sheaf, moves of parked rows to another tiller and DRAM reads of blocks. -/
def leafId : Nat := 2 ^ 18
def gatherId : Nat := 2 ^ 19
def madeId : Nat := 2 ^ 20
def PStep.made (s : PStep) : Bool := decide (madeId ≤ s.id)

/-- A step leaves rows in its scratchpad for a later one: lines are reserved from its start on (R192, R195, R496). -/
def PSlot.parks (q : PSlot) (c : Core) (h : Sheaf) : Except Nat Sheaf :=
  match q.step.park, tillerOf q.step.eng with
  | 0, _ | _, none => .ok h
  | n, some t =>
    let y : Temp := { part := q.part, place := .nowhere, bytes := 64 * n, work := some q.work, step := some q.step.id, from_ := q.start }
    match y.inScratch (c.onChipNow h) t with
    | some p => .ok { h with temps := h.temps ++ [{ y with place := p }] }
    | none => .error placeCode

/-- What a step leaves is read for the last time. -/
def Sheaf.freed (h : Sheaf) (w : Work) (k : Option Nat) (t : Nat) : Sheaf :=
  match k with
  | none => h
  | some k => { h with temps := h.temps.map fun y => if y.work == some w && y.step == some k then { y with till := some t } else y }

/-- The tiller in whose scratchpad a step of a work has left rows. -/
def Sheaf.parkedAt (h : Sheaf) (w : Work) (k : Nat) : Option Nat :=
  (h.temps.find? fun y => y.work == some w && y.step == some k).bind fun y => match y.place with
    | .scratch t _ => some t
    | _ => none

/-! ### Array steps -/

/-- The use of a cell by a planned step, in ac of the tick: from when and till when, the start of its load, the block. -/
structure Use where
  cell  : Nat
  from_ : Nat
  till  : Nat
  load  : Option Nat
  blk   : Option Block
  deriving DecidableEq, Repr

/-- The block of array `j` of a step's chain. -/
def PStep.blockAt (s : PStep) (j : Nat) : Option Block := s.stat.map fun y => { y.blk with pos := y.blk.pos + j * y.blk.kb }

def PSlot.uses (q : PSlot) : List Use :=
  match q.step.eng with
  | .arrays t f _ k => q.step.holds.zipIdx.flatMap fun y => (cellsAt t (f + y.2) k).map fun u =>
      { cell := u, from_ := (q.start + y.1.1) / 4, till := (q.start + y.1.1 + y.1.2) / 4
        load := (q.step.loads.find? (·.1 == y.2)).map (·.2.1), blk := q.step.blockAt y.2 }
  | _ => []

def Sheaf.cellUses (h : Sheaf) : List Use := h.slots.flatMap PSlot.uses

/-- Loads on the granary ports: tiller, ac, bytes per ac (R497). -/
def Sheaf.ports (h : Sheaf) : List (Nat × Nat × Nat) :=
  h.slots.flatMap fun q => match q.step.eng with
    | .arrays t .. => q.step.loads.map fun l => (t, l.2.1, l.2.2)
    | _ => []

/-- The block in a cell when the sheaf begins; none where steps of the sheaf in force are still to change it. -/
def Site.held (x : Site) (u : Nat) : Option Block :=
  let fg := (Tab.get {} x.s.core.cells u).fg
  if x.s.tick.sheaf.cellUses.any fun y => y.cell == u && y.blk != fg then none else fg

/-- One array of a chain as a step needs it: cells, block, start and time of its strip from that of the chain, the ac at which its block
is in the granary. -/
structure Need where
  array : Nat
  cells : List Nat
  blk   : Option Block
  off   : Nat
  dur   : Nat
  ready : Nat

/-- What an attempt to start a chain at an ac finds: the loads that it needs, a later ac for them, or another step in its way. -/
inductive Try where
  | fits (loads : List (Nat × Nat × Nat)) | later (ac : Nat) | clash

/-- One array of a chain (R189, R191, R497): its cells are free for the strip; a block that they do not hold is loaded after the swap to
the last block loaded before, and before the strip; later steps there still find what they were planned with. -/
def Need.try_ (n : Need) (us : List Use) (held : Nat → Option Block) (ports : List (Nat × Nat × Nat)) (t bpa t0 : Nat) : Try :=
  let st := t0 + n.off
  let seen := n.cells.map fun u =>
    let mine := us.filter (·.cell == u)
    let prev := mine.foldl (fun (m : Option Use) y => if y.from_ < st && (m.all fun b => decide (b.from_ < y.from_)) then some y else m) none
    let next := mine.foldl (fun (m : Option Use) y => if st ≤ y.from_ && (m.all fun b => decide (y.from_ < b.from_)) then some y else m) none
    (prev, next, match prev with
      | some y => y.blk
      | none => held u)
  if seen.any fun y => y.1.any (fun p => decide (st < p.till)) || y.2.1.any fun q => decide (q.from_ < st + n.dur) then .clash
  else if n.blk.isSome && seen.all fun y => y.2.2 == n.blk then .fits []
  else if seen.any fun y => y.2.1.any fun q => match q.load with
      | some l => decide (l < st)
      | none => q.blk != n.blk then .clash
  else
    let free := seen.foldl (fun m y => match y.1 with
      | some p => if p.load.isSome then max m p.from_ else m
      | none => m) n.ready
    let l := portSlot ports t bpa free
    if l + 32 ≤ st then .fits [(n.array, l, bpa)] else .later (l + 32 - n.off)

/-- All arrays of a chain at an ac. -/
def tryAll (us : List Use) (held : Nat → Option Block) (t bpa t0 : Nat) : List Need → List (Nat × Nat × Nat) → List (Nat × Nat × Nat) → Nat → Try
  | [], _, ls, late => if t0 < late then .later late else .fits ls
  | n :: r, ports, ls, late =>
    match n.try_ us held ports t bpa t0 with
    | .clash => .clash
    | .later a => tryAll us held t bpa t0 r (ports ++ [(t, a + n.off - 32, bpa)]) ls (max late a)
    | .fits l => tryAll us held t bpa t0 r (ports ++ l.map fun y => (t, y.2.1, y.2.2)) (ls ++ l) late

/-- The first ac from `t0` on, as its loads allow, at which a chain may start. -/
def settleAt (us : List Use) (held : Nat → Option Block) (ports : List (Nat × Nat × Nat)) (t bpa : Nat) (l : List Need) : Nat → Nat → Option (Nat × List (Nat × Nat × Nat))
  | 0, _ => none
  | k + 1, t0 =>
    match tryAll us held t bpa t0 l ports [] 0 with
    | .clash => none
    | .later a => settleAt us held ports t bpa l k (max a (t0 + 1))
    | .fits ls => some (t0, ls)

/-- The chains of a segment's length to which a step may be dealt (R194, R197, R202): those that the build names, or those into which
the arrays in service of its tillers are divided. -/
def Site.chains (x : Site) (j : Job) (len : Nat) (quarter : Bool) : List Chain :=
  let named := j.choice.chains.filter fun c => c.quarter.isSome == quarter && decide (len ≤ c.len) && j.pool.contains c.tiller
  let qs : List (Option Nat) := if quarter then (List.range 4).map some else [none]
  let own := j.pool.flatMap fun t => [0, 32].flatMap fun f => (({ live := x.s.arrayLive, choice := j.choice } : Deal).runs t f).flatMap fun r =>
    (List.range (r.2 / max 1 len)).flatMap fun i => qs.map fun q => ({ tiller := t, first := r.1 + i * len, len := len, quarter := q } : Chain)
  (if named.isEmpty then own else named.map fun c => { c with len := len }).filter fun c => x.engineOk j.part (.arrays c.tiller c.first len c.quarter)

/-- The arrays of a chain for a step, whose blocks are in the granary at some ac. -/
def Site.needs (x : Site) (s : PStep) (c : Chain) (ready : Nat → Nat) : List Need :=
  let skew := x.s.arraySkew c.tiller
  let tile := s.tile.getD { row := 0, rows := 1, col := 0, pos := 0, len := 1, kb := 0 }
  (chainOffs skew c.len c.first 0).zipIdx.map fun y =>
    { array := y.2, cells := cellsAt c.tiller (c.first + y.2) c.quarter, blk := s.blockAt y.2, off := y.1
      dur := stripAc (s.costs.foldl (fun v k => if k.1 < 8 then k.1 / 2 else v) 0) tile.rows c.quarter.isSome (skew (c.first + y.2)), ready := ready y.2 }

/-- The step on a chain, with its loads: a load counts one unit of the load entry, a quarter's 16 × 16 block too (DESIGN CHOICE, log 52):
Table 3-2 names one 32 × 32 block into one array. -/
def PStep.on_ (s : PStep) (c : Chain) (l : List Need) (loads : List (Nat × Nat × Nat)) : PStep :=
  let dur := acNs (l.foldl (fun n y => max n (y.off + y.dur)) 0)
  let n := loads.length
  let v := s.costs.foldl (fun v k => if k.1 < 8 then k.1 else v) 0
  { s with
    eng := .arrays c.tiller c.first c.len c.quarter, dur := dur, solo := dur, loads := loads
    holds := l.map fun y => (acNs y.off, acNs y.dur)
    costs := s.costs ++ if n == 0 then [] else [(8 + v, n, n), (23, n, n * s.block)] }

/-- Bytes of blocks in a partition's staging area at most at one time of a span (R241, R254). -/
def Sheaf.stagedIn (h : Sheaf) (part a b : Nat) : Nat :=
  let l := h.staged.filter fun y => y.part == part && decide (y.from_ < b) && decide (a < y.till)
  (a :: l.map (·.from_)).foldl (fun m t => max m (l.foldl (fun n y => if y.from_ ≤ max a t && max a t < y.till then n + y.bytes else n) 0)) 0

/-- DRAM rate of a job's transfers in bytes per µs (R256). -/
def Site.dramRate (x : Site) (j : Job) : Nat :=
  max 1 (if j.choice.rate == 0 then 493000 * x.share j.part 0 / 250 else min j.choice.rate 493000)

/-- The DRAM read of a block into the staging area, where none is planned yet (R254): as early as the area and the rates take it. -/
def Site.readBlock (x : Site) (pass : Nat) (j : Job) (s : PStep) (low k : Nat) (b : Block) (bytes : Nat) (h : Sheaf) : Except Nat Sheaf :=
  if h.staged.any fun y => y.part == j.part && y.blk == b then .ok h
  else
    let ns := 400 + ceilDiv (1000 * bytes) (x.dramRate j)
    let st : PStep :=
      { id := 4 * madeId + 64 * s.id + k, eng := .granary, dur := ns, solo := 400 + ceilDiv (1000 * bytes) 493000, stage := s.stage
        costs := [(25, 1, bytes), (24, 1, bytes)], paths := [(0, bytes)]
        tile := some { row := 0, rows := 1, col := b.col, pos := b.pos, len := 1, kb := b.kb } }
    let cap := 262144 * (x.s.core.part j.part).tillers.length
    let ts := (h.times low ++ ((h.staged.filter fun y => y.part == j.part && decide (low < y.till)).map (·.till))).filter fun t =>
      decide (h.stagedIn j.part t x.perio + bytes ≤ cap)
    if ts.isEmpty then .error placeCode
    else do
      let q ← x.seek h ((sortBy (fun a b => decide (a ≤ b)) ts).map fun t => x.slot pass j st t none) none false
      .ok { (h.put q.1 false) with
        staged := h.staged ++ [{ part := j.part, blk := b, bytes := bytes, from_ := q.1.start, till := q.1.stop, read := (j.work, st.id), stop := q.1.stop }] }

/-- DRAM reads of the blocks of a step. -/
def Site.readBlocks (x : Site) (pass : Nat) (j : Job) (s : PStep) (low : Nat) (h : Sheaf) : Except Nat Sheaf :=
  match s.stat, s.tile with
  | some y, some t =>
    if !y.dram then .ok h
    else (List.range t.len).foldl (fun (r : Except Nat Sheaf) k => do
      let h ← r
      match s.blockAt k with
      | none => .ok h
      | some b =>
        let ks := min t.kb (t.ks - k * t.kb)
        x.readBlock pass j s low k b (max 1 (ceilDiv (t.cols * ks * y.bits) 8)) h) (.ok h)
  | _, _ => .ok h

/-- The read of a block, and when it is in the staging area. -/
def Sheaf.stagedBlock (h : Sheaf) (part : Nat) (b : Option Block) : Option Staged :=
  b.bind fun b => h.staged.find? fun y => y.part == part && y.blk == b

/-- The blocks that a slot loads stay in the staging area until then, and their reads have its loads as deadlines; none where the area
cannot keep them. -/
def Sheaf.keeps (h : Sheaf) (cap : Nat) (q : PSlot) : Option Sheaf :=
  q.step.loads.foldl (fun (m : Option Sheaf) l => m.bind fun h =>
    match h.stagedBlock q.part (q.step.blockAt l.1) with
    | none => some h
    | some y =>
      let till := max y.till (acNs (l.2.1 + 32))
      if cap < h.stagedIn q.part y.till till + (if y.till < till then y.bytes else 0) then none
      else some { h with
        staged := h.staged.map fun z => if z == y then { y with till := till } else z
        slots := h.slots.map fun r => if r.work == y.read.1 && r.step.id == y.read.2 then
          { r with deadline := some (min (r.deadline.getD (acNs l.2.1)) (acNs l.2.1)) } else r }) (some h)

/-- Parked rows go to the tiller of the step that takes them (R182, R195). -/
def Site.bringRows (x : Site) (pass : Nat) (c : Core) (j : Job) (s : PStep) (k from_ to_ low : Nat) (h : Sheaf) : Except Nat (Sheaf × Nat) := do
  let b := 64 * ((h.temps.find? fun y => y.work == some j.work && y.step == some k).map fun y => ceilDiv y.bytes 64).getD 0
  let ns := acNs (ceilDiv b 1024 + 40)
  let m : PStep :=
    { id := madeId + s.id, eng := .mover from_, dur := ns, solo := ns, stage := s.stage, costs := [(20, 1, b)], prev := some k, tile := s.tile }
  let y ← x.one pass j m low 0 h
  let room : Temp := { part := j.part, place := .nowhere, bytes := b, work := some j.work, step := some m.id, from_ := y.2 - ns }
  let h := y.1.freed j.work (some k) y.2
  match room.inScratch (c.onChipNow h) to_ with
  | some p => .ok ({ h with temps := h.temps ++ [{ room with place := p }] }, y.2)
  | none => .error placeCode

/-- An array step on a chain: the first start at which nothing refuses it, with room for the rows that it parks. -/
def Site.onChain (x : Site) (pass : Nat) (c : Core) (j : Job) (s : PStep) (low : Nat) (ch : Chain) (h : Sheaf) : Except Nat (Sheaf × Nat) := do
  -- rows that an earlier segment has parked
  let prev := s.prev.map fun k => if (h.parkedAt j.work (madeId + s.id)).isSome then madeId + s.id else k
  let s := { s with prev := prev }
  let src := s.prev.bind (h.parkedAt j.work)
  let y : Sheaf × Nat × PStep ← (match src, s.prev with
    | some t, some k =>
      if t == ch.tiller then Except.ok (h, low, s)
      else (x.bringRows pass c j s k t ch.tiller (low - s.gap) h).map fun y => (y.1, y.2, { s with prev := some (madeId + s.id), gap := 0 })
    | _, _ => Except.ok (h, low, s))
  let h := y.1
  let s := y.2.2
  let low := ceilDiv y.2.1 4
  let l := x.needs s ch fun k => ((h.stagedBlock j.part (s.blockAt k)).map fun z => ceilDiv z.stop 4).getD 0
  let us := h.cellUses.filter fun u => l.any fun n => n.cells.contains u.cell
  let first := ((x.told j s).filter fun z => z.eng == some (.arrays ch.tiller ch.first ch.len ch.quarter) && decide (4 * low ≤ z.start)).map fun z => z.start / 4
  let ts := first.toList ++ sortBy (fun a b => decide (a ≤ b))
    (((low :: (l.flatMap fun n => (us.filter fun u => n.cells.contains u.cell).map fun u => u.till - n.off)) ++
      (h.times (4 * low)).map fun t => ceilDiv t 4).filter fun t => decide (low ≤ t)).dedup
  let fits := ts.filterMap fun t => settleAt us x.held h.ports ch.tiller (ceilDiv s.block 32) l 8 t
  let q ← x.seek h (fits.map fun f => x.slot pass j (s.on_ ch l f.2) (4 * f.1) none) none false
  let rs := (q.1.step.loads.filterMap fun z => (h.stagedBlock j.part (s.blockAt z.1)).map (·.read)).dedup
  let q1 := { q.1 with step := { q.1.step with needs := rs } }
  match (h.put q1 q.2).keeps (262144 * (x.s.core.part j.part).tillers.length) q1 with
  | none => .error placeCode
  | some h => do
    let h ← q1.parks c (h.freed j.work s.prev q1.stop)
    .ok (h, q1.stop)

/-- Deals an array step (R202): to a chain that holds its blocks and is free when its strip is present, or else to the one that is free
first; ties go to the lowest tiller and logical array. Where that one does not take it, the next one does. -/
def Site.array (x : Site) (pass : Nat) (c : Core) (j : Job) (s : PStep) (base low : Nat) (h : Sheaf) : Except Nat (Sheaf × Nat) := do
  let t0 := ceilDiv low 4
  let tile := s.tile.getD { row := 0, rows := 1, col := 0, pos := 0, len := 1, kb := 0 }
  let all := x.chains j tile.len (match s.eng with
    | .arrays _ _ _ q => q.isSome
    | _ => false)
  let named := all.filter fun c => (x.told j s).any fun y => y.eng == some (.arrays c.tiller c.first c.len c.quarter)
  let uses := h.cellUses
  let free (ch : Chain) : Nat :=
    let l := x.needs s ch fun _ => 0
    l.foldl (fun m n => (uses.filter fun u => n.cells.contains u.cell).foldl (fun m u => max m (u.till - n.off)) m) t0
  let resident (ch : Chain) : Bool := match tryAll uses x.held ch.tiller 0 t0 (x.needs s ch fun _ => 0) [] [] 0 with
    | .fits [] => true
    | _ => false
  let key (ch : Chain) : Nat := if named.contains ch then 0 else if resident ch then 1 else 2 + free ch
  let order := sortBy (fun (a b : Nat × Chain) => decide (a.1 < b.1) || (a.1 == b.1 && chainLe a.2 b.2)) (all.map fun ch => (key ch, ch))
  let h ← if order.head?.any fun y => y.1 == 1 then .ok h else x.readBlocks pass j s (if s.stat.any fun y => y.blk.own.isSome then base else 0) h
  order.foldl (fun r y => match r with
    | .ok z => .ok z
    | .error k => match x.onChain pass c j s low y.2 h with
      | .ok z => .ok z
      | .error k' => .error (if k == 1 then k' else k)) (.error 1)

/-! ### The steps of a job -/

/-- Where a job stands while its steps are placed: the stage, the end of what comes before it, the latest end. -/
structure Spot where
  stage : Option Nat := none
  base  : Nat
  last  : Nat

/-- Rows that a stage leaves in other tillers than the command's first one go there (R255, R256). -/
def Site.gather (x : Site) (pass : Nat) (j : Job) (st : Spot) (h : Sheaf) : Except Nat (Sheaf × Nat) :=
  match st.stage with
  | none => .ok (h, st.last)
  | some g =>
    let mine := h.slots.filter fun q => q.work == j.work && q.step.stage == g && !q.step.made && match q.step.eng with
      | .arrays .. | .vector _ => true
      | _ => false
    let ts := ((mine.filterMap fun q => tillerOf q.step.eng).dedup).filter (· != j.home)
    let bytes := j.outs.foldl (fun n o => n + o.1) 0
    ts.foldl (fun (r : Except Nat (Sheaf × Nat)) t => do
      let y ← r
      let on := mine.filter fun q => tillerOf q.step.eng == some t
      let b := ceilDiv (bytes * on.length) (max 1 mine.length)
      let lastQ := on.foldl (fun (m : Option PSlot) q => if m.all fun z => decide (z.stop < q.stop) then some q else m) none
      let ns := acNs (ceilDiv b 1024 + 40)
      let m : PStep :=
        { id := gatherId + 8192 * (x.tick % 64) + 32 * g + t, eng := .mover t, dur := ns, solo := ns, stage := g, costs := [(20, 1, b)], prev := lastQ.map (·.step.id) }
      let z ← x.one pass j m ((lastQ.map PSlot.stop).getD st.last) 0 y.1
      .ok (z.1, max y.2 z.2)) (.ok (h, st.last))

/-- Transfers of an output from the command's first tiller to its place (Table 9-6), in stages from `g` on. -/
def Site.leaves (x : Site) (j : Job) (g k bytes : Nat) (to_ : Place) : List PStep :=
  let leg (costs : List (Nat × Nat)) (extra : Nat) : List PStep := moveSteps [j.home] g bytes 1024 extra costs
  let l := match to_ with
    | .scratch t _ => if t == j.home then [] else leg [(20, 1)] 40
    | .granary _ => leg [(20, 1), (24, 1)] 24
    | .dram _ => leg [(20, 1), (24, 1)] 24 ++
        match transfer 4 bytes 400 (x.dramRate j) 493000 [(23, bytes), (26, bytes)] [(0, bytes)] with
        | .even cls n ns solo costs paths => (List.range n).map (evenStep { choice := j.choice } (g + 1) cls n ns solo costs paths)
        | _ => []
    | .nowhere => []
  l.zipIdx.map fun s => { s.1 with id := leafId + 4096 * k + s.2, tile := none }

/-- The steps that take the outputs of a job to their places, after those of its stages. -/
def Site.leave (x : Site) (j : Job) : List PStep :=
  j.outs.zipIdx.flatMap fun o => x.leaves j (leafStage + 2 * o.2) o.2 o.1.1 o.1.2

/-- What is planned of a stage that the moves of its rows do not follow is left to a later sheaf, from its last step on. -/
def Sheaf.unstaged (h : Sheaf) (w : Work) : Sheaf :=
  match (h.slots.filter fun q => q.work == w && !q.step.made).getLast? with
  | some q => { h with slots := h.slots.filter fun r => !(r.work == w && r.step.id == q.step.id) }
  | none => h

/-- Plans the steps of a job one after the other: the sheaf so far, when they end, and the code of what refused the rest. -/
def Site.steps (x : Site) (pass : Nat) (c : Core) (j : Job) : List PStep → Spot → Sheaf → Sheaf × Nat × Option Nat
  | [], st, h =>
    match x.gather pass j st h with
    | .error k => (h.unstaged j.work, st.last, some k)
    | .ok y => (y.1, y.2, none)
  | s :: r, st, h =>
    let y := if st.stage == some s.stage then .ok (h, st)
      else (x.gather pass j st h).map fun y => (y.1, ({ stage := some s.stage, base := y.2, last := y.2 } : Spot))
    match y with
    | .error k => (h.unstaged j.work, st.last, some k)
    | .ok (h, st) =>
      let prev := ((s.prev.bind fun k => h.slots.find? fun q => q.work == j.work && q.step.id == k).map PSlot.stop).getD st.base
      let low := max st.base prev + s.gap
      let need := r.foldl (fun n p => if limitCode p.eng == limitCode s.eng then n + p.dur else n) s.dur
      let z := match j.work, s.eng with
        | .far .., _ => x.exact pass j s low h
        | _, .arrays .. => x.array pass c j s st.base low h
        | _, _ => do
          let z ← x.one pass j s low need h
          match z.1.slots.getLast? with
          | some q => do
            let h ← q.parks c (z.1.freed j.work s.prev z.2)
            .ok (h, z.2)
          | none => .ok z
      match z with
      | .error k =>
        match x.gather pass j st h with
        | .ok y => (y.1, y.2, some k)
        | .error _ => (h.unstaged j.work, st.last, some k)
      | .ok z => x.steps pass c j r { st with last := max st.last z.2 } z.1

/-- When the works that a job follows end; none where one of them is not planned to its end. -/
def Plan.ready (p : Plan) (j : Job) : Option Nat :=
  j.after.foldl (fun m w => m.bind fun n => ((p.ends.find? (·.1 == w)).map fun e => max n e.2)) (some 0)

/-- The first ns at which a job may start for what it follows: a vector step 8 ac after the array steps before it (R214). -/
def Plan.from_ (p : Plan) (j : Job) (n : Nat) : Nat :=
  match j.steps.head?.map fun (s : PStep) => s.eng with
  | some (.vector _) => p.sheaf.slots.foldl (fun m q => match q.step.eng with
      | .arrays .. => if q.part == j.part && decide (q.stop ≤ n) then max m (q.stop + 32) else m
      | _ => m) n
  | _ => n

/-- How the planning of a job went: it waits for what is not planned, it is planned, a rule refuses it, with what of it is
planned. -/
inductive Placed where
  | waits
  | all (p : Plan)
  | part (p : Plan) (code : Nat)

/-- Plans a job. -/
def Site.job (x : Site) (pass : Nat) (p : Plan) (j : Job) : Placed :=
  match p.ready j with
  | none => .waits
  | some n =>
    match j.bad with
    | some k => .part p k
    | none =>
      let from_ := p.from_ j n
      let h0 := { p.sheaf with
        places := p.sheaf.places ++ j.spots, temps := p.sheaf.temps ++ j.temps
        carries := if j.carry.isEmpty then p.sheaf.carries else p.sheaf.carries ++ [(j.work, j.carry)] }
      let y := x.steps pass p.c j j.steps { base := from_, last := from_ } h0
      let made (s : PStep) : Bool := y.1.slots.any fun q => q.work == j.work && q.step.id == s.id
      let h := { y.1 with
        works := if y.2.2.isNone || j.steps.any made then y.1.works ++ [(j.work, pass, j.choice, j.whole)] else y.1.works }
      let q := { p with sheaf := h, done := p.done ++ [(pass, { j with steps := j.steps.filter made }, y.2.2.isNone)] }
      match y.2.2 with
      | some k => .part q k
      | none => .all { q with
          ends := p.ends ++ [(j.work, y.2.1)]
          signals := match j.signal with
            | some g => p.signals ++ [(j.part, g.1, g.2, j.work)]
            | none => p.signals }

/-- Plans jobs in order, as far as the rules allow; those that wait are left out (R284, R286). -/
def Site.jobs (x : Site) (pass : Nat) : List Job → Plan → Plan × Option Nat
  | [], p => (p, none)
  | j :: r, p =>
    match x.job pass p j with
    | .waits => x.jobs pass r p
    | .all q => x.jobs pass r q
    | .part q k => (q, some k)

end Sys2Proof.Machine
end

