-- ==== Sys2Proof/Machine/Jobs.lean ====
section
/-! DEFINITION. What a build plans: the jobs of pictures, clips and migrations, of an instance with the seams between its commands
(R107, R251 to R255, R267, R305, R338), and weight-sharing runs (R168). -/

namespace Sys2Proof.Machine

/-- The sheaf in force holds a step that has not started. -/
def State.held (s : State) (w : Work) (id : Nat) : Bool := s.tick.sheaf.slots.any fun q => q.work == w && q.step.id == id

/-- Steps that the sheaf in force leaves to the next one. -/
def State.unplanned (s : State) (w : Work) (l : List PStep) : List PStep := l.filter fun p => !s.held w p.id

/-- How the builder deals for a work: `units` take its vector rows and mover transfers. -/
def State.deal (s : State) (ch : Choice) (dec : Nat) (units : List Nat) : Deal :=
  { live := s.arrayLive, dec := dec, choice := ch, units := if units.isEmpty then [0] else units }

/-! ### Pictures -/

/-- Luma samples of a picture. -/
def Pic.samples (p : Pic) : Nat := p.info.width * p.info.height

/-- Reference traffic that a picture is planned with (R309): its raw size times the compressed ratio of its stream, plus 10 %. -/
def Ctx.refBytes (x : Ctx) (p : Pic) : Nat :=
  let a := p.info
  let raw := a.width * a.height * (if a.depth > 8 then 2 else 1)
  if a.isRef && x.codec != 4 then (Rat.floor (((if a.mono then raw else raw * 3 / 2 : Nat) : Rat) * x.compress * 11 / 10)).toNat else 0

/-- The decode steps of a picture at the durations of R305, the last one shorter. -/
def decodeSteps (x : Ctx) (p : Pic) : List PStep :=
  let n := max 1 (decSteps p.samples)
  (List.range n).map fun i =>
    let ns := min 93000 (p.samples - 93000 * i) + 250
    { id := i, eng := .dec x.home, dur := ns, solo := ns
      costs := [(26 + x.codec, 1, portion (ceilDiv p.samples 4096) n i)]
      paths := [(0, portion (x.refBytes p) n i)] }

/-- The decode run of a picture. -/
def Core.picRun (c : Core) (k num : Nat) : Option Run := c.runs.find? fun r => !r.dead && r.post == .decode k num

/-- The window of a picture's decode (R305): all of it, or what is left of a carried one (R49). -/
def Core.window (c : Core) (k : Nat) (p : Pic) : PStep :=
  let x := c.ctx k
  let l := match c.picRun k p.num with
    | some r => if r.steps.isEmpty then (decodeSteps x p).drop (decSteps p.samples - 1) else r.steps
    | none => decodeSteps x p
  let nom : Nat := l.foldl (fun n s => n + s.dur) 0
  let ns := (Rat.floor ((((nom : Nat) : Rat) * max 1 x.ratio + 999) / 1000)).toNat * 1000
  { id := 0, eng := .dec x.home, dur := ns, solo := nom, costs := l.flatMap (·.costs), paths := l.flatMap (·.paths) }

/-- Instances of a picture. -/
def Core.picInsts (c : Core) (k num : Nat) : List Inst := c.insts.filter fun i => i.pic == some (k, num)

/-- A slot of the reference store is free for a picture, with those planned before it in the sheaf (R308). -/
def Plan.slotFree (p : Plan) (k : Nat) (q : Pic) : Bool :=
  let x := p.c.ctx k
  let mine := p.sheaf.slots.filter fun r => match r.work with
    | .pic y n => y == k && x.pics.any fun z => z.num == n && !z.slot
    | _ => false
  q.slot || decide ((x.pics.filter (p.c.holdsSlot k)).length + mine.length < x.refs + 2)

/-- The decode of a picture, after those before it in decode order (R50). -/
def Site.picJob (x : Site) (p : Plan) (k : Nat) (q : Pic) : Job :=
  let y := p.c.ctx k
  let w : Work := .pic k q.num
  { work := w, part := y.part, lc := (p.c.picInsts k q.num).any (·.lc), choice := { work := w }
    steps := x.s.unplanned w [p.c.window k q]
    after := ((y.pics.filter fun z => !z.decoded && decide (z.num < q.num) && (z.made || z.started)).map fun z => .pic k z.num)
    bad := if p.slotFree k q then none else some 2 }

/-- The pictures up to one whose decode the sheaf does not plan yet. -/
def Site.picJobs (x : Site) (p : Plan) (k num : Nat) : List Job :=
  ((p.c.ctx k).pics.filter fun q => !q.decoded && (q.made || q.started) && decide (q.num ≤ num) &&
    !p.ends.any (·.1 == .pic k q.num)).map (x.picJob p k)

/-! ### Clips -/

/-- Steps of a row of a clip frame, and steps that a number of coded units makes (R338). -/
def Clip.rowSteps (k : Clip) : Nat := (k.cols + 9) / 10
def Clip.stepsDone (k : Clip) (unit : Nat) : Nat := unit / k.cols * k.rowSteps + (unit % k.cols + 9) / 10

/-- Step `i` of a clip frame: up to 10 units of one row (R338). How many bytes of source, reference and bitstream it charges, no
rule says: free values (log 28). -/
def Clip.step (k : Clip) (i : Nat) : PStep :=
  let g := i % k.rowSteps
  let w := min 640 (k.w - 640 * g)
  let h := min 64 (k.h - 64 * (i / k.rowSteps))
  let ns := 2 * (w * h) + 2000
  let traffic (e : Nat) : Nat × Nat × Nat := (e, 1, Config.freeNat k.key (64 * i + e))
  { id := i, eng := .cle 0, dur := ns, solo := ns, costs := [(33 + k.codec, 1, ceilDiv w 64), traffic 25, traffic 26, traffic 37]
    prev := if i == 0 then none else some (i - 1) }

/-- The steps of the frame of a clip that are not done. -/
def Clip.steps (k : Clip) : List PStep := ((List.range (k.rows * k.rowSteps)).drop (k.stepsDone k.unit)).map k.step

/-- The picture of the frame that a clip codes next. -/
def Clip.frame (k : Clip) : Option Nat := k.cur.orElse fun _ => if k.ending.isSome then none else k.taken.head?

/-- The frame of a clip, the first `n` steps that are not planned: after its picture's decode. -/
def Site.clipJob (x : Site) (p : Plan) (k : Clip) (n : Nat) : List Job :=
  match k.frame with
  | none => []
  | some num =>
    let w : Work := .clip k.binding
    let steps := (x.s.unplanned w k.steps).filter fun s => !p.sheaf.slots.any fun q => q.work == w && q.step.id == s.id
    [{ work := w, part := k.part, lc := k.lc, choice := { work := w }, steps := steps.take n
       after := if (p.c.ctx k.ctx).pics.any (fun q => q.num == num && q.decoded) then [] else [.pic k.ctx num] }]

/-! ### Migrations -/

/-- The most bytes that a tiller moves in a sheaf for migrations (R267): 32 MB, in 4 ms of its mover. -/
def moveLimit : Nat := min 33554432 (1000000 * 1024)

/-- A transfer of bytes from a place to another (Table 9-6), by the mover of the tiller that has the copy or gets it, or of `t`. -/
def Site.carry (x : Site) (ch : Choice) (rate t g bytes : Nat) (from_ to_ : Place) : List PStep :=
  let dram (rd : Bool) (g : Nat) : List PStep :=
    match transfer 4 bytes 400 rate 493000 (if rd then [(25, bytes), (24, bytes)] else [(23, bytes), (26, bytes)]) [(0, bytes)] with
    | .even cls n ns solo costs paths =>
      (List.range n).map fun i => { evenStep (x.s.deal ch 0 []) g cls n ns solo costs paths i with tile := none }
    | _ => []
  let leg (u g extra : Nat) (costs : List (Nat × Nat)) : List PStep := moveSteps [u] g bytes 1024 extra costs
  let l := match from_, to_ with
    | .scratch u _, .scratch _ _ => leg u g 40 [(20, 1)]
    | .scratch u _, .granary _ => leg u g 24 [(20, 1), (24, 1)]
    | .granary _, .scratch u _ => leg u g 24 [(20, 1), (23, 1)]
    | .granary _, .granary _ => leg t g 24 [(20, 1), (23, 1)] ++ leg t (g + 1) 24 [(20, 1), (24, 1)]
    | .scratch u _, .dram _ => leg u g 24 [(20, 1), (24, 1)] ++ dram false (g + 1)
    | .granary _, .dram _ => dram false g
    | .dram _, .granary _ => dram true g
    | .dram _, .scratch u _ => dram true g ++ leg u (g + 1) 24 [(20, 1), (23, 1)]
    | _, _ => []
  numbered 0 l

/-- The traffic of a migration in a sheaf (R267): what the tiller's limit leaves of it; none while a writer of the copy runs. -/
def Site.moveJob (x : Site) (p : Plan) (m : Moving) : List Job :=
  let w : Work := .move m.num
  let used := (p.sheaf.slots.filter fun q => match q.work with
    | .move _ => q.step.eng == .mover m.tiller
    | _ => false).foldl (fun n q => n + ((q.step.tile.map (·.rows)).getD 0)) 0
  let writes := p.c.runs.any fun r => r.part == m.part && !r.active.isEmpty && r.outs.any fun o => o.buf == m.buf && o.key == m.key
  let bytes := if writes then 0 else min m.left (moveLimit - used)
  if bytes == 0 then []
  else
    let ch : Choice := { work := w, tillers := [m.tiller] }
    let rate := max 1 (493000 * x.share m.part 0 / 250)
    [{ work := w, part := m.part, lc := false, choice := ch, home := m.tiller
       carry := if bytes == m.left then [(m.part, m.buf, m.key, m.to_)] else []
       steps := x.carry ch rate m.tiller 0 bytes (p.c.copy m.part m.buf m.key).place m.to_ }]

/-! ### The commands of an instance -/

/-- Two commands that keep their order (R91, R111, R218). -/
def Uses.clash (u v : Uses) : Bool :=
  meet u.outs v.ins || meet u.outs v.outs || meet u.ins v.outs ||
    u.sOut.any (fun n => v.sIn.contains n || v.sOut == some n)

/-- A work that is never planned to its end: what follows it waits. -/
def workNever : Work := .ring 4096 0

/-- The instance of the preceding frame, which a command with PREV waits for (R112): all that is left of it, once it is known to
its end. -/
def Core.prevWorks (c : Core) (e : Env) : List Work :=
  if !e.awaitsPrev c then []
  else
    match (e.inst.bind (·.prevInst)).bind c.inst? with
    | none => []
    | some i =>
      if !i.halted then [workNever]
      else (i.todo.map fun t => Work.inst i.id t.seq) ++ (c.runs.filter fun r => r.ofInst i.id).map fun r => .inst i.id r.n

/-- The moves of some buffers that must end first (R267). -/
def Plan.moves (p : Plan) (part : Nat) (bufs : List Nat) : List Work :=
  (p.c.moving.filter fun m => m.part == part && bufs.contains m.buf).map fun m =>
    if p.ends.any (·.1 == .move m.num) then .move m.num else workNever

/-- What must have ended before a command of an instance starts. -/
def Plan.follows (p : Plan) (i : Inst) (pr : Program) (t : Todo) (e : Env) : List Work :=
  let c := p.c
  let u := e.uses c
  let w (n : Nat) : Work := .inst i.id n
  let runs := c.runs.filter fun r => r.ofInst i.id && decide (r.n < t.seq)
  let todo := i.todo.filter fun v => decide (v.seq < t.seq)
  let fence := e.op == 0x0002
  ((runs.filter fun r => fence || (bitAt 0 e.flags && r.n + 1 == t.seq) ||
      Uses.clash ⟨r.ins, r.outs.map (·.buf), [], r.scalar.map (·.1)⟩ u).map fun r => w r.n) ++
    ((todo.filter fun v => fence || pr.op v.idx == 0x0002 || (bitAt 0 e.flags && v.seq + 1 == t.seq) ||
      Uses.clash (c.useAt i pr v.idx) u || t.behind == some v.seq).map fun v => w v.seq) ++
    (if e.op == 0x0004 then (p.signals.filter fun g => g.1 == i.part && g.2.1 == e.word 0).map (·.2.2.2) else []) ++
    (if e.op == 0x4005 || e.op == 0x4009 then
      (match e.anyPic c with
        | some x => if x.2.decoded then [] else [.pic x.1 x.2.num]
        | none => []) else []) ++
    p.moves i.part (u.ins ++ u.outs) ++ c.prevWorks e

/-- Buffer copies that some operand words of a command name. -/
def Env.copies (e : Env) (c : Core) (ks : List Nat) : List (Nat × CopyKey) :=
  ((e.bufsOf c ks).map fun b => (b, e.key (((c.buf? e.part b).map (·.desc.scope)).getD 0))).dedup

/-- Commands whose steps run on tillers. -/
def tillerOp (op : Nat) : Bool := decide (0x1000 < op) && decide (op < 0x4000) || op == 0x5004

/-- Products that the arrays compute (R203). -/
def arrayOp (op : Nat) : Bool := op == 0x1001 || op == 0x1002 || op == 0x1004

/-- Operand words that the granary port serves: stationary operands with their metadata (R185, R243). Scale blocks take no
ac of it, as R497 plans the loads of blocks alone (DESIGN CHOICE, log 52). -/
def Env.portWords (e : Env) : List Nat := statWords e.op ++ if e.op != 0x1004 && e.flag 3 then [5] else []

/-- The stage map of a program as a plan has it (R251). -/
def Plan.mapOf (p : Plan) (part prog : Nat) : StageMap :=
  ((p.c.mapOf part prog).orElse fun _ => p.sheaf.stages.find? fun m => m.part == part && m.prog == prog).getD
    { part := part, prog := prog, tillers := [p.c.tillersOf part] }

/-- Planned array-ac of a command of a program (R210, R251). -/
def Site.cmdAc (x : Site) (c : Core) (i : Inst) (pr : Program) (k : Nat) : Nat :=
  match pr.cmds[k]? with
  | none => 0
  | some pc => (maxPieces (c.envAt x.tick pc.1 pc.2 i pr { i.here with idx := k }) c).foldl (fun n y => match y with
      | .arrays q => n + q.arrayAc (q.quarter false) 0
      | _ => n) 0

/-- The stage map of the program of an instance, made at the first build that plans it: cuts as the build brings them, tillers in
proportion to planned array-ac; a gleaning program runs wherever its partition has idle ac (R251). -/
def Site.staged (x : Site) (p : Plan) (i : Inst) (pr : Program) : Plan :=
  if !i.lc || (p.c.mapOf i.part i.prog).isSome || p.sheaf.stages.any fun m => m.part == i.part && m.prog == i.prog then p
  else
    let cuts := ((x.b.stages.find? fun m => m.part == i.part && m.prog == i.prog && cutsRise m.cuts && m.cuts.all (· < pr.cmds.length)).map (·.cuts)).getD []
    let ends := cuts ++ [pr.cmds.length]
    let acs := (ends.zip (0 :: cuts)).map fun y => (List.range (y.1 - y.2)).foldl (fun n k => n + x.cmdAc p.c i pr (y.2 + k)) 0
    { p with sheaf := { p.sheaf with
        stages := p.sheaf.stages ++ [{ part := i.part, prog := i.prog, cuts := cuts, tillers := shareOut (p.c.tillersOf i.part) acs }] } }

/-- Tillers of a partition that a build plans for: one that retires or leaves takes nothing once each copy in it moves (R209, R280). -/
def Site.own (x : Site) (part : Nat) : List Nat :=
  let c := x.s.core
  let going (t : Nat) : Bool :=
    (x.s.mend.retiring.contains t || (c.part part).pend.any fun y => decide (y.effTick ≤ x.tick) && y.leaving.contains t) &&
      c.copies.all fun y => c.isMoving y || match y.place with
        | .scratch u _ => u != t
        | _ => true
  (c.tillersOf part).filter fun t => !going t

/-- Of some tillers those that a build plans for, or else those of the partition. -/
def Site.among (x : Site) (part : Nat) (l : List Nat) : List Nat :=
  let k := l.filter (x.own part).contains
  if k.isEmpty then x.own part else k

/-- Tillers on which a command of an instance may run. -/
def Site.stageTillers (x : Site) (p : Plan) (i : Inst) (idx : Nat) : List Nat :=
  x.among i.part (if i.lc then let m := p.mapOf i.part i.prog; m.tillers.getD (stageAt m idx) [] else [])

/-- Tillers of a work that has been dealt: those that it has, where they are still its partition's, or else another (R209). -/
def Site.pool (x : Site) (part : Nat) (l : List Nat) : List Nat :=
  let k := l.filter (x.own part).contains
  if k.isEmpty then (x.own part).take 1 else k

/-- What the planning of an instance has found so far: jobs, places given, and the tiller and work that make each copy; the tiller to
which each command goes first. -/
structure Track where
  jobs  : List Job := []
  plan  : Plan
  spots : Spots
  made  : List (Nat × CopyKey × Nat × Work) := []
  homes : List (Nat × Nat) := []
  /-- Room taken, beside copies. -/
  temps : List Temp := []
  short : List (Nat × Nat) := []

/-- A copy has another place in a list. -/
def Spots.to_ (l : Spots) (part : Nat) (b : Nat × CopyKey) (q : Place) : Spots :=
  l.filter (fun y => !(y.1 == part && y.2.1 == b.1 && y.2.2.1 == b.2)) ++ [(part, b.1, b.2, q)]

/-- The tiller to which each command goes first (R252): in order, its inputs where they lie or where their producers leave them. -/
def Site.homes (x : Site) (p : Plan) (i : Inst) (pr : Program) (r : Track) : Track :=
  let f (r : Track × Spots) (t : Todo) : Track × Spots :=
    match pr.cmds[t.idx]? with
    | none => r
    | some pc =>
      let e := p.c.envAt x.tick pc.1 pc.2 i pr t
      let ins := (e.copies p.c (inWords pc.1 e.sub e.flags)).filter fun b => p.c.isTensor i.part b.1
      let made := ins.filterMap fun b => ((r.1.made.find? fun m => m.1 == b.1 && m.2.1 == b.2).map (·.2.2.1)).orElse fun _ =>
        (p.c.copy i.part b.1 b.2).maker
      let own := x.stageTillers p i t.idx
      let h := (pickTiller own (fun u => p.c.bytesIn r.2 i.part u ins) made (p.c.nearTillers r.2 i.part i.prog (ins.map (·.1)))).getD 0
      let h := match t.choice with
        | some ch => ch.tillers.headD h
        | none => h
      let outs := (e.copies p.c (outWords pc.1 e.sub e.flags)).filter fun b => p.c.isTensor i.part b.1
      ({ r.1 with
          homes := r.1.homes ++ [(t.seq, h)]
          made := r.1.made ++ if tillerOp pc.1 then outs.map fun b => (b.1, b.2, h, .inst i.id t.seq) else [] },
        if tillerOp pc.1 then outs.foldl (fun l b => l.to_ i.part b (.scratch h 0)) r.2 else r.2)
  let y := i.todo.foldl f (r, r.spots)
  { y.1 with made := [] }

def Track.home (r : Track) (seq : Nat) : Nat := ((r.homes.find? (·.1 == seq)).map (·.2)).getD 0

/-- What lies on chip, as the planning of an instance has it. -/
def Track.onChip (r : Track) (c : Core) : List Temp := c.layout r.spots (c.aims ++ r.temps)

/-- Room for a copy at a place that a rule gives: in a tiller's scratchpad, else in the granary where that may be; the tiller that
lacks lines is noted (R253, R285). -/
def Track.room (r : Track) (c : Core) (part bytes : Nat) (at_ : Option Nat) (gran : Bool) : Option Place :=
  let y : Temp := { part := part, place := .nowhere, bytes := bytes }
  let l := r.onChip c
  (at_.bind (y.inScratch l)).orElse fun _ => if gran then c.inGranary y l else none

/-- A seam or other transfer before a command: bytes, from where, to where. -/
abbrev Legs := List (Nat × Place × Place)

/-- Takes room for a copy, which then lies there; none where there is none. -/
def Track.place (r : Track) (c : Core) (part : Nat) (b : Nat × CopyKey) (at_ : Option Nat) (gran : Bool) : Option (Track × Place) :=
  (r.room c part (c.copyBytes part b.1) at_ gran).map fun q => ({ r with spots := r.spots ++ [(part, b.1, b.2, q)] }, q)

/-- Takes room of a work's own. -/
def Track.take (r : Track) (c : Core) (part bytes : Nat) (w : Work) (at_ : Option Nat) : Option (Track × Place) :=
  (r.room c part bytes at_ at_.isNone).map fun q => ({ r with temps := r.temps ++ [{ part := part, place := q, bytes := bytes, work := some w }] }, q)

/-- The planning of a command's operands so far: room, transfers before it, copies that transfers take along, or what lacks room. -/
structure Lay where
  r     : Track
  legs  : Legs := []
  carry : Spots := []
  fresh : Spots := []
  ok    : Bool := true

def Lay.fail (y : Lay) (part : Nat) (t : Option Nat) : Lay :=
  { y with ok := false, r := { y.r with short := y.r.short ++ t.toList.map fun u => (part, u) } }

/-- Later than any tick ends. -/
def tickEnd : Nat := 2 ^ 40

/-- An output on chip (R253): in the scratchpad that a rule gives, where it may lie already, else in the granary. -/
def Lay.out (y : Lay) (c : Core) (part t : Nat) (b : Nat × CopyKey) : Lay :=
  match spotOf y.r.spots part b.1 b.2 with
  | .scratch u a =>
    if u == t then y
    else match y.r.place c part b (some t) true with
      | some z =>
        let old : Temp := { part := part, place := .scratch u a, bytes := c.copyBytes part b.1, till := some tickEnd }
        { y with r := { z.1 with temps := z.1.temps ++ [old] }, fresh := y.fresh ++ [(part, b.1, b.2, z.2)] }
      | none => y
  | q =>
    match y.r.place c part b (some t) (match q with
        | .granary _ => false
        | _ => true), q with
    | some z, _ => { y with r := z.1, fresh := y.fresh ++ [(part, b.1, b.2, z.2)] }
    | none, .granary _ => y
    | none, _ => y.fail part (some t)

/-- A streaming input in a tiller's scratchpad (R185, R253, R255): a copy that nothing has written gets a place; one from DRAM, or one
that the seam hands on, goes there; of any other the tiller gets a copy of its own. -/
def Lay.stream (y : Lay) (c : Core) (part : Nat) (w : Work) (t : Nat) (hand : Bool) (b : Nat × CopyKey) : Lay :=
  let bytes := c.copyBytes part b.1
  let own := fun (p : Place) => match y.r.take c part bytes w (some t) with
    | some z => { y with r := z.1, legs := y.legs ++ [(bytes, p, z.2)] }
    | none => y.fail part (some t)
  match spotOf y.r.spots part b.1 b.2 with
  | .nowhere => match y.r.place c part b (some t) true with
    | some z => { y with r := z.1, fresh := y.fresh ++ [(part, b.1, b.2, z.2)] }
    | none => y.fail part (some t)
  | .scratch u a =>
    if u == t then y
    else if hand then match y.r.place c part b (some t) false with
      | some z => { y with r := z.1, legs := y.legs ++ [(bytes, .scratch u a, z.2)], carry := y.carry ++ [(part, b.1, b.2, z.2)] }
      | none => own (.scratch u a)
    else own (.scratch u a)
  | .dram a => match y.r.place c part b (some t) true with
    | some z => { y with r := z.1, legs := y.legs ++ [(bytes, .dram a, z.2)], carry := y.carry ++ [(part, b.1, b.2, z.2)] }
    | none => y.fail part (some t)
  | .granary a => own (.granary a)

/-- A stationary TENSOR operand in the granary (R243). -/
def Lay.port (y : Lay) (c : Core) (part : Nat) (b : Nat × CopyKey) : Lay :=
  match spotOf y.r.spots part b.1 b.2 with
  | .granary _ => y
  | q => match y.r.place c part b none true, q with
    | some z, .nowhere => { y with r := z.1, fresh := y.fresh ++ [(part, b.1, b.2, z.2)] }
    | some z, q => { y with r := z.1, legs := y.legs ++ [(c.copyBytes part b.1, q, z.2)], carry := y.carry ++ [(part, b.1, b.2, z.2)] }
    | none, _ => y.fail part none

/-- An operand in DRAM that no array reads as blocks: it is staged and brought to a tiller (Table 9-2, Table 9-6, R214). -/
def Lay.staged (y : Lay) (c : Core) (part : Nat) (w : Work) (t : Nat) (b : Nat × CopyKey) : Lay :=
  match y.r.take c part (c.copyBytes part b.1) w (some t) with
  | some z => { y with r := z.1, legs := y.legs ++ [(c.copyBytes part b.1, .dram 0, z.2)] }
  | none => y.fail part (some t)

/-- Room of a command's own. -/
def Lay.temp (y : Lay) (c : Core) (part : Nat) (w : Work) (at_ : Option Nat) (bytes : Nat) : Lay :=
  if bytes == 0 then y
  else match y.r.take c part bytes w at_ with
    | some z => { y with r := z.1 }
    | none => y.fail part at_

/-- The steps of some transfers, one after the other. -/
def Site.legs (x : Site) (ch : Choice) (rate t : Nat) (l : Legs) : List PStep :=
  numbered 0 (l.zipIdx.flatMap fun y => x.carry ch rate t (2 * y.2) y.1.1 y.1.2.1 y.1.2.2)

/-- What two problems must share to form one weight-sharing run (R168), besides the blocks and the stage; none for a command that is no
such problem, or whose length is not settled. -/
def Env.shareKey (e : Env) : Option (List Nat) :=
  match e.dWord 0 with
  | none => none
  | some a =>
    let d0 := dim (e.dims a) 0
    let known := e.dimsSettled && !(e.isScalar 4 && e.inst.any fun i => meet (i.owed.map (·.1) ++ i.badScal) ((scalarRef (e.word 4)).toList))
    let common := [e.part, e.op, e.flags / 4 % 4, a.dtype, a.group, (a.scaleH != 0).toNat, (a.rowH != 0).toNat]
    if !known then none
    else if e.op == 0x1001 then ((lenOperand (e.int 4) d0).filter (· != 0)).map fun k => common ++ [k]
    else if e.op == 0x1002 then some (common ++ [e.word 4, d0])
    else none

/-- The products among some stages with the names of their blocks. -/
def withStats (stat : Nat → Option Stat) : List Piece → Nat → List Piece
  | [], _ => []
  | .arrays x :: r, n => .arrays { x with stat := stat n } :: withStats stat r (n + 1)
  | p :: r, n => p :: withStats stat r n

/-- Tillers beside the first one among which a product is dealt (R202): as many as its tiles need beyond the chains of the first one,
those that the build names before the others. -/
def Site.more (x : Site) (own named : List Nat) (home : Nat) (j : Job) : List Nat :=
  match j.steps.find? fun s => match s.eng with
    | .arrays .. => true
    | _ => false with
  | none => []
  | some s =>
    let q : Bool := match s.eng with
      | .arrays _ _ _ k => k.isSome
      | _ => false
    let len := (s.tile.map (·.len)).getD 1
    let tiles := (j.steps.filter fun s => match s.eng with
      | .arrays .. => s.prev.isNone
      | _ => false).length
    let per := max 1 (x.chains { j with pool := [home], choice := { j.choice with chains := [] } } len q).length
    let rest := (named.filter fun t => own.contains t && t != home) ++ own.filter fun t => t != home && !named.contains t
    rest.take (max (named.filter fun t => own.contains t && t != home).length (ceilDiv tiles per - 1))

/-- The job of a command that the builder has reached, and what it finds with it. -/
def Site.todoJob (x : Site) (i : Inst) (pr : Program) (r : Track) (t : Todo) : Track :=
  let p := r.plan
  match pr.cmds[t.idx]? with
  | none => r
  | some pc =>
    let c := p.c
    let w : Work := .inst i.id t.seq
    let e := c.envAt x.tick pc.1 pc.2 i pr t
    let after := p.follows i pr t e
    let dec := (c.ctx ((i.pic.map (·.1)).getD 4096)).home
    let home := r.home t.seq
    let blank : Job := { work := w, part := i.part, lc := i.lc, choice := { work := w }, steps := [], after := after, home := home }
    let add (j : List Job) (r : Track) : Track := { r with jobs := r.jobs ++ j }
    let outs := if tillerOp pc.1 then e.copies c (outWords pc.1 e.sub e.flags) else []
    let kept (sp : Spots) : List (Nat × Place) := outs.map fun b =>
      (c.copyBytes i.part b.1, if c.isTensor i.part b.1 then spotOf sp i.part b.1 b.2 else .dram 0)
    if unplanned pc.1 then add [blank] r
    else if pc.1 == 0x0003 then add [{ blank with signal := some (e.word 0, (e.value (e.word 1)).toNat) }] r
    else if e.dimsSettled && (match e.shapes with
      | .ok _ => false
      | .error _ => true) then add [blank] r
    else if t.choice.isSome then
      let ch := t.choice.getD { work := w }
      let us := x.pool i.part ch.tillers
      add [{ blank with
        choice := ch, steps := x.s.unplanned w (t.plan.filter (!·.made)), whole := t.plan.filter (!·.made)
        home := us.headD home, pool := us, outs := kept r.spots }] r
    else
      let told := (x.b.choices.find? (·.work == w)).getD { work := w }
      let own := x.stageTillers p i t.idx
      let named := told.tillers.filter fun u => own.contains u && u != home
      let arr := arrayOp pc.1
      let ch1 := { told with tillers := home :: (if arr then [] else named) }
      let port := e.portWords
      let ins := e.copies c ((inWords pc.1 e.sub e.flags).filter fun k => !port.contains k)
      let stats := (e.copies c port).filter fun b => c.isTensor i.part b.1
      -- what the command's own steps need, cut for its first tiller
      let e1 := { e with choice := some ch1 }
      let ch2 := (x.s.deal ch1 dec [home]).settle (maxPieces e1 c)
      let draft : Job := { blank with choice := ch2, steps := stepsOf (x.s.deal ch2 dec [home]) (maxPieces e1 c) }
      let us := home :: if pc.1 == 0x1004 then [] else if arr then x.more own told.tillers home draft else named
      -- operands and outputs on chip
      let first (b : Nat) : Bool := !((i.todo.filter fun v => decide (v.seq < t.seq)).any fun v =>
        (r.made.find? (·.1 == b)).any (fun m => match m.2.2.2 with
          | .inst _ n => decide (n < v.seq)
          | _ => false) && (c.useAt i pr v.idx).ins.contains b)
      let hand (b : Nat × CopyKey) : Bool := r.made.any (fun m => m.1 == b.1 && m.2.1 == b.2) && first b.1
      let user (b : Nat) : Nat := (((i.todo.filter fun v => decide (t.seq < v.seq) && (c.useAt i pr v.idx).ins.contains b).head?).map fun v =>
        r.home v.seq).getD home
      let tins := ins.filter fun b => c.isTensor i.part b.1
      let y : Lay := { r := r }
      let y := (outs.filter fun b => c.isTensor i.part b.1).foldl (fun y b => y.out c i.part home b) y
      let y := if tillerOp pc.1 then y else
        ((e.copies c (outWords pc.1 e.sub e.flags)).filter fun b => c.isTensor i.part b.1).foldl (fun y b => y.out c i.part (user b.1) b) y
      let y := stats.foldl (fun y b => y.port c i.part b) y
      let y := tins.foldl (fun y b => y.stream c i.part w home (hand b) b) y
      let y := if tillerOp pc.1 then (ins.filter fun b => !c.isTensor i.part b.1).foldl (fun y b => y.staged c i.part w home b) y else y
      let v := e.maxView
      let y := if pc.1 == 0x1001 then
          let y := if (v 0).trans then y.temp c i.part w (some home) (v 0).bytes else y
          if (v 1).trans then y.temp c i.part w none (v 1).bytes else y
        else if pc.1 == 0x1004 then
          (y.temp c i.part w none (if e.inDram c 1 then (v 1).bytes else 0)).temp c i.part w none (if e.inDram c 2 then (v 2).bytes else 0)
        else y
      -- further tillers, each with what it streams
      let grow (s : Lay × List Nat) (u : Nat) : Lay × List Nat :=
        let z := tins.foldl (fun y b => y.stream c i.part w u false b) s.1
        let z := (ins.filter fun b => !c.isTensor i.part b.1).foldl (fun y b => y.staged c i.part w u b) z
        let z := if pc.1 == 0x1001 && (v 0).trans then z.temp c i.part w (some u) (v 0).bytes else z
        if z.ok then (z, s.2 ++ [u]) else s
      let g := if y.ok then us.tail.foldl grow (y, [home]) else (y, [home])
      let y := g.1
      let us := g.2
      if !y.ok then add [{ blank with bad := some placeCode }] { r with short := y.r.short }
      else
        let ch3 := { told with tillers := us, chains := told.chains.filter fun k => us.contains k.tiller }
        let units := if arr then [home] else if tillerOp pc.1 then us else
          ((e.copies c (if pc.1 == 0x6003 then outWords pc.1 e.sub e.flags else inWords pc.1 e.sub e.flags)).filterMap fun b =>
            match spotOf y.r.spots i.part b.1 b.2 with
            | .scratch u _ => some u
            | _ => none).take 1
        let c2 := c.putPlaces y.r.spots
        let pieces := maxPieces { e with choice := some ch3 } c2
        let open_ (k : Nat) : Bool :=
          let b := (e.dWord k).elim 0 fun d => e.bufNum c d.handle
          (r.made.any (·.1 == b)) || (c.runs.any fun q => !q.dead && q.part == i.part && q.outs.any (·.buf == b)) ||
            (i.todo.any fun v => decide (v.seq < t.seq) && (c.useAt i pr v.idx).outs.contains b)
        let stat (n : Nat) : Option Stat := (statWords pc.1)[n]?.bind fun k => e.stationary c w n k (open_ k)
        let pieces := withStats stat pieces 0
        let ch := (x.s.deal ch3 dec units).settle pieces
        let made := { blank with choice := ch, outs := kept y.r.spots }
        let steps := stepsOf (x.s.deal ch dec units) pieces ++ x.leave made
        let rate := max 1 (if ch.rate == 0 then 493000 * x.share i.part 0 / 250 else min ch.rate 493000)
        let seamW : Work := .seam i.id t.seq
        let lsteps := x.legs { ch with work := seamW } rate home y.legs
        let seams : List Job := if lsteps.isEmpty then [] else
          [{ work := seamW, part := i.part, lc := i.lc, choice := { ch with work := seamW }, steps := x.s.unplanned seamW lsteps
             after := after, home := home, carry := y.carry }]
        let temps := y.r.temps.drop r.temps.length
        let job : Job :=
          { made with
            steps := steps, whole := steps, after := after ++ seams.map (·.work), pieces := pieces, pool := us
            spots := y.fresh, temps := temps
            key := match e.shareKey, stat 0 with
              | some k, some s => if s.blk.own.isNone then some (k ++ own, s.blk) else none
              | _, _ => none }
        { y.r with
          jobs := r.jobs ++ seams ++ [job]
          made := r.made ++ if tillerOp pc.1 then (outs.filter fun b => c.isTensor i.part b.1).map fun b => (b.1, b.2, home, w) else [] }

/-- What is left of a command in flight: the run of its problem, the transfers for it, its own steps. -/
def Site.runJob (x : Site) (p : Plan) (r : Run) : Job :=
  let w := r.work
  let ch := ((r.todo.bind (·.choice)).getD { work := w, tillers := (x.own r.part).take 1 })
  let us := x.pool r.part ch.tillers
  let own (r : Run) : List (Nat × Place) := if !tillerOp r.op then [] else r.outs.map fun o =>
    (p.c.copyBytes r.part o.buf, if p.c.isTensor r.part o.buf then (p.c.copy r.part o.buf o.key).place else .dram 0)
  let outs := match r.post with
    | .share ms => (p.c.runs.filter fun y => !y.dead && ms.any fun m => m.1 == y.work).flatMap own
    | _ => own r
  { work := w, part := r.part, lc := r.lc, choice := ch, steps := x.s.unplanned w (r.steps.filter (!·.made)), pieces := r.pieces
    home := us.headD 0, pool := us, outs := outs
    after := (match r.share.bind p.c.run? with
      | some g => [g.work]
      | none => []) ++ match r.post with
        | .carry (.move _) _ => []
        | _ => p.moves r.part (r.ins ++ r.outs.map (·.buf)) }

/-- The jobs of an instance, in the order of its commands, and the tillers that lack lines for it. -/
def Site.instJobs (x : Site) (p : Plan) (i : Inst) : List Job × List (Nat × Nat) :=
  match p.c.prog? i.part i.prog with
  | none => ([], [])
  | some pr =>
    let runs := (p.c.runs.filter fun r => r.ofInst i.id).map (x.runJob p)
    let r : Track := { plan := p, spots := p.c.spots p.sheaf.places ++ p.sheaf.carries.flatMap (·.2), temps := p.sheaf.temps }
    let r := i.todo.foldl (x.todoJob i pr) (x.homes p i pr r)
    ((match i.pic with
      | some k => x.picJobs p k.1 k.2
      | none => []) ++ runs ++ r.jobs, r.short)

/-- Transfers for commands and runs of several commands that are in flight. -/
def Site.sideJobs (x : Site) (p : Plan) (lc : Bool) : List Job :=
  (p.c.runs.filter fun r => !r.dead && r.lc == lc && match r.work with
    | .share .. | .seam .. => true
    | _ => false).map (x.runJob p)

/-! ### WAITs (R107) -/

/-- Amounts of the SIGNALs of a counter that the sheaf admits. -/
def Plan.signalled (p : Plan) (part counter : Nat) : Nat :=
  (p.signals.filter fun g => g.1 == part && g.2.1 == counter).foldl (fun n g => n + g.2.2.1) 0

/-- The builder passes the WAIT at which it stands: what comes after it stands behind it. -/
def Inst.passWait (i : Inst) (use : Nat → Uses) (p : Program) : Inst :=
  let j := (i.enter (use i.pc) 0x0004).advance i.pc i.loops
  let j := { j with behind := some i.seq }
  j.walk use p (j.ahead p)

/-- An instance at a WAIT goes on while the counter with the SIGNALs admitted to the sheaf reaches the value. -/
def Site.passWaits (x : Site) : Nat → Plan → Nat → Plan
  | 0, p, _ => p
  | n + 1, p, id =>
    match p.c.inst? id with
    | none => p
    | some i =>
      match p.c.prog? i.part i.prog with
      | none => p
      | some pr =>
        match pr.cmds[i.pc]? with
        | none => p
        | some pc =>
          let e := p.c.envAt x.tick pc.1 pc.2 i pr i.here
          if pc.1 != 0x0004 || !p.c.frontReady i pr e ||
              (Tab.get 0 (p.c.part i.part).events (e.word 0)).toNat + p.signalled i.part (e.word 0) < (e.value (e.word 1)).toNat then p
          else x.passWaits n { p with c := Core.steer x.s.amb 65536 (p.c.updInst id fun _ => i.passWait (p.c.useAt i pr) pr) id } id

/-! ### Weight-sharing runs (R168) -/

/-- A problem waits, in its instance, for another of the jobs. -/
def reaches (l : List Job) (a b : Work) : Nat → Bool
  | 0 => false
  | n + 1 =>
    match l.find? (·.work == b) with
    | none => false
    | some j => j.after.any fun w => w == a || reaches l a w n

/-- Groups of problems with equal keys, each in the order of admission, at most 4,096 to a group, none of which waits for another
of its group. -/
def shareGroups (all l : List Job) : List (List Job) :=
  l.foldl (fun gs j =>
    let ok (g : List Job) : Bool := decide (g.length < 4096) && match g.head? with
      | some h => h.key == j.key && h.part == j.part && g.all fun k => !reaches all k.work j.work all.length
      | none => false
    match gs.findIdx? ok with
    | some n => gs.modify n (· ++ [j])
    | none => gs ++ [[j]]) []

/-- Rows of the first product of some stages. -/
def rowsIn (l : List Piece) : Nat := ((l.filterMap fun p => match p with
  | .arrays x => some x.m
  | _ => none).headD 0)

/-- Stages of several problems as one: transfers and rows added up to the first product. -/
def mergePieces (ls : List (List Piece)) : List Piece :=
  let n := ((ls.headD []).findIdx? (·.isArrays)).getD 0
  ((ls.headD []).take (n + 1)).zipIdx.map fun y => match y.1 with
    | .arrays x => .arrays { x with m := ls.foldl (fun s l => s + rowsIn l) 0 }
    | .move b per extra costs =>
      if costs.any fun k => k.1 == 21 then
        (if y.2 == 0 then .move (ls.foldl (fun s l => match l.head? with
          | some (.move b ..) => s + b
          | _ => s) 0) per extra costs else .move b per extra costs)
      else .move b per extra costs
    | q => q

/-- A member keeps the stages after its product. -/
def Job.member (j : Job) (w : Work) : Job :=
  let n := 2 * ((j.pieces.findIdx? (·.isArrays)).getD 0) + 2
  let steps := j.steps.filter fun s => decide (n ≤ s.stage)
  { j with steps := steps, after := w :: j.after }

/-- A weight-sharing run as a job: its rows go to the first tiller of each member. -/
def Site.shareJob (x : Site) (g : List Job) : Option Job :=
  match g.head? with
  | none => none
  | some h =>
    let w : Work := match h.work with
      | .inst i n => .share i n
      | k => k
    let pieces := mergePieces (g.map (·.pieces))
    let us := (g.flatMap (·.pool)).dedup
    let ch := (x.s.deal { h.choice with work := w, tillers := us } 0 [h.home]).settle pieces
    let job := { h with
      work := w, choice := ch, pieces := pieces, key := none, spots := [], carry := [], signal := none, temps := [], pool := us
      outs := g.flatMap fun j => j.outs.map fun o => (o.1, .scratch j.home 0) }
    let steps := stepsOf (x.s.deal ch 0 [h.home]) pieces ++ x.leave job
    some { job with
      steps := steps, whole := steps, lc := g.any (·.lc), after := (g.flatMap (·.after)).dedup }

/-- Jobs with a weight-sharing run of some of them, which stands before its first member. -/
def Site.sharing (x : Site) (l : List (Nat × Job × Bool)) (g : List Job) : List (Nat × Job × Bool) :=
  match x.shareJob g with
  | none => l
  | some s => l.flatMap fun y =>
    if !(g.any fun k => k.work == y.2.1.work) then [y]
    else
      let m := (y.1, y.2.1.member s.work, true)
      if (g.head?.map (·.work)) == some y.2.1.work then [(y.1, s, true), m] else [m]

/-- Plans jobs again, each once what it waits for is planned; none where one of them does not fit. -/
def Site.again (x : Site) : Nat → List (Nat × Job × Bool) → Plan → Option Plan
  | _, [], p => some p
  | 0, _, _ => none
  | n + 1, l, p =>
    match l.findIdx? fun y => (p.ready y.2.1).isSome with
    | none => none
    | some k =>
      match l[k]? with
      | none => none
      | some y =>
        match x.job y.1 p y.2.1 with
        | .all q =>
          x.again n (l.eraseIdx k) (if y.2.2 then q else { q with ends := p.ends })
        | _ => none

/-- The sheaf after a pass, its problems in weight-sharing runs; `base` is the plan before the passes. Every run whose steps can be
planned in the sheaf forms (DESIGN CHOICE, log 54). -/
def Site.shared (x : Site) (base p : Plan) : Sheaf :=
  let l := p.done.drop base.done.length
  let js := l.map (·.2.1)
  let gs := (shareGroups js (js.filter fun j => j.key.isSome)).filter fun g => decide (2 ≤ g.length)
  let y := gs.foldl (fun (s : List (Nat × Job × Bool) × List (List Job) × Sheaf) g =>
    let l := x.sharing s.1 g
    match x.again (l.length + 1) l base with
    | some q => (l, s.2.1 ++ [g], q.sheaf)
    | none => s) (l, [], p.sheaf)
  { y.2.2 with
    insts := p.sheaf.insts, refused := p.sheaf.refused, short := p.sheaf.short, stages := p.sheaf.stages
    shares := y.2.1.map fun g => g.map fun j => (j.work, rowsIn j.pieces) }

end Sys2Proof.Machine
end

