-- ==== Sys2Proof/Machine/Sheaf.lean ====
section
/-! DEFINITION. The build and the seal: bindings and instances (R82, R100, R101, R302, R502, R503), the pictures that a
clip takes (R337), slices and debts (R288, R291), the passes of Table 2-5 (R34, R43, R59, R60, R284 to R289), and what the seal
fixes (R35). What the manual leaves to placement comes with the row (`Build`, R265). -/

namespace Sys2Proof.Machine

/-! ### Bindings and instances -/

/-- Bindings that end at this build (R100): their clips end with reason 2, their own copies go once no instance is
left, a RUNNING stream that loses its last one is OPEN again (Table 11-1), and an unbound stream decodes from a random access point
when it is bound again (R302). -/
def Core.endBindings (c : Core) (now : Nat) : Core :=
  let gone := (c.bindings.filter (·.ending)).map (·.num)
  let c := c.finishClips now 2 fun k => gone.contains k.binding
  let c := { c with
    bindings := c.bindings.filter fun b => !b.ending
    copies := c.copies.filter fun x => match x.key with
      | .binding b => !gone.contains b || c.insts.any (·.binding == some b)
      | _ => true }
  (c.ctxs.filter fun x => (x.2.state == .running || (x.2.state == .opened && x.2.synced)) && !c.bound x.1).foldl (fun c e =>
    c.updCtx e.1 fun x =>
      ({ x with
        state := .opened, event := x.event || x.state == .running, synced := false, recover := none, raslSkip := false } : Ctx).scan false) c

/-- Instances whose queue has been given ENABLE = 0 and that no sealed sheaf has admitted (R82). -/
def Core.abandonLeft (c : Core) (now : Nat) : Core :=
  (c.insts.filter fun i => !i.admitted && ((c.q i.queue).draining || (c.q i.queue).state == .disabled)).foldl
    (fun c i => c.abandon now 4 i) c

/-- What becomes of a ready picture (Table 11-5, R503): it creates instances, is decoded for reference only, or is
discarded. -/
inductive Fate where
  | make | refOnly | drop
  deriving DecidableEq, Repr

/-- The picture is, or comes before, the recovery frame that the context waits for. -/
def Ctx.recoverAt (x : Ctx) (p : Pic) : Ctx × Fate :=
  match x.recover with
  | none => (x, .make)
  | some f => if p.info.frameNum == f then ({ x with recover := none }, .make) else (x, .refOnly)

def Ctx.fate (x : Ctx) (p : Pic) : Ctx × Fate :=
  if !x.synced then
    match p.info.kind with
    | .recovery n => ({ x with synced := true, recover := some ((p.info.frameNum + n) % p.info.maxFrame) } : Ctx).recoverAt p
    | _ => ({ x with synced := true, raslSkip := true }, .make)
  else
    match p.info.kind with
    | .rasl => if x.raslSkip then (x, .drop) else x.recoverAt p
    | .rap => ({ x with raslSkip := false } : Ctx).recoverAt p
    | _ => x.recoverAt p

/-- Bindings that take a picture, by number. -/
def Core.takers (c : Core) (k : Nat) : List Binding :=
  sortBy (fun a b => decide (a.num ≤ b.num)) (c.bindings.filter fun b => b.ctx == k && !b.ending)

/-- An instance of a binding for a picture (R101, R103). -/
def Core.makeInst (c : Core) (now k num : Nat) (b : Binding) : Core :=
  match c.prog? b.part b.prog with
  | none => c
  | some p =>
    let i := newInst c p b.queue b.tag b.allow
      [BitVec.ofNat 64 num, BitVec.ofNat 64 k, b.param.setWidth 64, BitVec.ofNat 64 b.num]
    let c := { c with bindings := listSet c.bindings (·.num == b.num) fun x => { x with last := some i.id } }
    c.addInst now { i with binding := some b.num, pic := some (k, num), prevInst := b.last }

/-- One ready picture of a stream (R101). -/
def Core.makePic (c : Core) (now k : Nat) (p : Pic) : Core :=
  let f := (c.ctx k).fate p
  let bs := c.takers k
  let c := c.updCtx k fun _ => f.1
  let mark (r : Bool) (c : Core) : Core := c.updCtx k fun x => x.updPic p.num fun q => { q with made := true, refOnly := r }
  match f.2 with
  | .drop => c.updCtx k fun x => { (x.discard p.bytes) with pics := x.pics.filter fun q => q.num != p.num }
  | .refOnly => mark true c
  | .make => mark bs.isEmpty (bs.foldl (fun c b => c.makeInst now k p.num b) c)

/-- Every ready picture of the bound streams, in decode order; in OPEN decoding starts at a random access point. -/
def Core.makeAll (c : Core) (now : Nat) : Core :=
  c.ctxs.foldl (fun c e =>
    let x := c.ctx e.1
    if !(x.state == .opened || x.state == .running) || !c.bound e.1 then c
    else
      let new := x.pics.filter fun p => !p.made && p.parsed
      let new := if x.synced then new else new.dropWhile fun p => !AuKind.isRap p.info.kind
      new.foldl (fun c p => c.makePic now e.1 p) c) c

/-! ### Clips -/

/-- A clip considers one picture (R337): `live` says that the binding's instance for it has not completed. -/
def Clip.consider (k : Clip) (p : Pic) (live : Bool) : Clip :=
  let full := k.frames ≤ k.coded + k.taken.length + (if k.cur.isSome then 1 else 0)
  if p.num < k.nextCons || (p.num - k.firstPic) % k.stride != 0 || full || k.ending.isSome ||
      k.lastPic.any fun l => decide (l < p.num) then k
  else
    let k := { k with nextCons := p.num + k.stride }
    if p.info.poc ≤ k.lastPoc then { k with skipped := satAdd 0xFFFF k.skipped 1 }
    else
      let k := { k with lastPoc := p.info.poc }
      if live then { k with taken := k.taken ++ [p.num] } else { k with missed := satAdd 0xFFFF k.missed 1 }

/-- Every clip considers the pictures for which its binding has made instances. -/
def Core.considerAll (c : Core) : Core :=
  { c with clips := c.clips.map fun k =>
      ((c.ctx k.ctx).pics.filter fun p => p.made && !p.refOnly).foldl (fun k p =>
        k.consider p (c.insts.any fun i => i.binding == some k.binding && i.pic == some (k.ctx, p.num))) k }

/-! ### Order of admission -/

def Core.hNext (c : Core) (p : Nat) (f : Health → Health) : Core := c.updPart p fun x => { x with hNext := f x.hNext }

/-- WAITs that stand before place `n` of a ring are met by their counters with the SIGNALs that the sheaf admits: the works of those
SIGNALs; none where a WAIT is not met (R107). -/
def Plan.pastWaits (p : Plan) (q n : Nat) : Option (List Work) :=
  ((p.c.q q).fetched.filter fun g => decide (g.n < n) && g.op == 0x0004).foldl (fun m g => m.bind fun l =>
    let k := g.cmd.w0.toNat
    let part := (p.c.q q).part
    if (Tab.get 0 (p.c.part part).events k).toNat + ((p.signals.filter fun y => y.1 == part && y.2.1 == k).foldl (fun n y => n + y.2.2.1) 0) <
        (g.cmd.w1.signExtend 64).toNat then none
    else some (l ++ (p.signals.filter fun y => y.1 == part && y.2.1 == k).map (·.2.2.2))) (some [])

/-- Work that the build considers: not of a frozen queue unless admitted (R121), not before its INVOKE may start (R91, R107). -/
def Plan.considers (p : Plan) (i : Inst) : Bool :=
  !((p.c.q i.queue).state == .frozen && !i.admitted) &&
    (p.c.gateOpen i || (p.c.ringOpen i.queue i.ringN i.chained true && (p.pastWaits i.queue i.ringN).isSome))

/-- Lexicographic order of keys. -/
def lexLe : List Nat → List Nat → Bool
  | [], _ => true
  | _, [] => false
  | a :: r, b :: t => decide (a < b) || (a == b && lexLe r t)

def byKey {α : Type} (f : α → List Nat) (l : List α) : List α := sortBy (fun a b => lexLe (f a) (f b)) l

/-- Effective weight (R286). -/
def Inst.weight (i : Inst) : Nat := i.glw * (1 + min i.waited 255)

/-- Ring-order key of R34: LIVE streams, then the oldest ready frame, then the binding, then decode order (R306); an invoked
instance stands ahead, by its INVOKE. -/
def Core.ringKey (c : Core) (i : Inst) : List Nat :=
  match i.pic with
  | some (k, num) =>
    let x := c.ctx k
    [1, if x.live then 0 else 1, ((x.pics.find? (·.num == num)).map (·.ready)).getD 0, i.binding.getD 0, num]
  | none => [0, i.ringN]

/-- Transfers of rings that are in flight: a frozen queue's wait unless admitted, and in QUIET nothing new starts (R115, R121). -/
def Core.ringRuns (c : Core) : List Run :=
  c.runs.filter fun r => match r.src with
    | .ring q => !r.dead && !r.internal && r.op != 0x4002 && !r.steps.isEmpty &&
        (r.admitted || ((c.q q).state != .frozen && c.mstate != .quiet))
    | .inst .. => false

/-- EPOCH_BEGIN and GRAFT of a ring run as gleaning work of GL weight 1 (R343). -/
def Run.gleans (r : Run) : Bool := r.op == 0x5002 || r.op == 0x5005
def Run.weight (r : Run) : Nat := 1 + min r.waited 255

/-! ### Slices -/

/-- Shares of a class, engines of it (Table 10-1). -/
def Grants.shareOf (g : Grants) (cls : Nat) : Nat := if cls == 2 then g.decode else if cls == 3 then g.shaping else g.clip
def enginesOf (cls : Nat) : List Engine :=
  if cls == 2 then (List.range 8).map .dec else if cls == 3 then (List.range 4).map .shp else (List.range 2).map .cle

/-- Planned work of latency-critical instances of a partition on a decoder, in ns: decodes, and motion exports. -/
def Core.decLoad (c : Core) (part d : Nat) : Nat :=
  let pics := c.ctxs.foldl (fun n e =>
    if e.2.part != part || e.2.home != d then n
    else (e.2.pics.filter fun p => !p.decoded && (c.picInsts e.1 p.num).any (·.lc)).foldl (fun n p => n + (c.window e.1 p).dur) n) 0
  let here (i : Inst) : Bool := i.part == part && i.lc && i.pic.any fun k => (c.ctx k.1).home == d
  let motion (l : List Piece) : Nat := l.foldl (fun n p => match p with
    | .even 1 k ns _ _ _ => n + k * ns
    | _ => n) 0
  (c.insts.filter here).foldl (fun n i => match c.prog? i.part i.prog with
    | none => n
    | some p =>
      let todo := (i.todo.filter fun t => p.op t.idx == 0x4009).foldl (fun n t => match p.cmds[t.idx]? with
        | some pc => n + motion (maxMotion (c.envAt 0 pc.1 pc.2 i p t) c)
        | none => n) n
      (c.runs.filter fun r => !r.dead && r.ofInst i.id && r.op == 0x4009).foldl (fun n r => r.steps.foldl (fun n s => n + s.dur) n) todo) pics

/-- Carried decodes of a partition on a decoder, in ns (R49). -/
def Core.carryLoad (c : Core) (part d : Nat) : Nat :=
  c.ctxs.foldl (fun n e =>
    if e.2.part != part || e.2.home != d then n
    else (e.2.pics.filter fun p => !p.decoded && p.carried).foldl (fun n p => n + (c.window e.1 p).dur) n) 0

/-- A partition has ready latency-critical work on a class. -/
def Core.classReady (c : Core) (part cls : Nat) : Bool :=
  if cls == 2 then (List.range 8).any fun d => c.decLoad part d != 0
  else if cls == 3 then
    (c.insts.any fun i => i.part == part && i.lc && (c.prog? i.part i.prog).any fun p => i.todo.any fun t => p.op t.idx == 0x4005) ||
      c.runs.any fun r => r.part == part && r.lc && r.op == 0x4005
  else c.clips.any fun k => k.part == part && k.lc && k.frame.isSome

/-- Time that the builder gives a partition on some engines of a class (R288): the guaranteed time, on the decoders in proportion
to the planned load, and what its carried decodes need. -/
def Site.wanted (x : Site) (c : Core) (part : Nat) : List (List Engine × Nat) :=
  let g (cls : Nat) : Nat :=
    if c.classReady part cls then
      ceilDiv ((((c.part part).grantsAt x.tick).shareOf cls) * (enginesOf cls).length * x.span ((enginesOf cls).headD .hostDma)) 250
    else 0
  let all := (List.range 8).foldl (fun n d => n + c.decLoad part d) 0
  ((List.range 8).map fun d =>
    let k := c.carryLoad part d
    ([.dec d], max (ceilDiv (g 2 * c.decLoad part d) (max 1 all)) (if k == 0 then 0 else max 200000 k))) ++
    [(enginesOf 3, g 3), (enginesOf 4, g 4)]

/-- A slice that the rules allow beside others (R288, R289). -/
def Site.sliceOk (x : Site) (l : List Slice) (q : Slice) : Bool :=
  sliced q.eng && x.engineOk q.part q.eng && decide (q.part < 16) && decide (200000 ≤ q.len) && decide (q.start + q.len ≤ x.span q.eng) &&
    decide ((l.filter fun r => r.eng == q.eng && r.part == q.part).length < 8) &&
    l.all fun r => r.eng != q.eng || r.lent != q.lent || decide (r.start + r.len ≤ q.start) || decide (q.start + q.len ≤ r.start)

/-- Slices of a partition on some engines, added in their gaps until they have the time that it needs. -/
def Site.fill (x : Site) (part : Nat) (l : List Slice) (n : List Engine × Nat) : List Slice :=
  let have_ (l : List Slice) : Nat := (l.filter fun q => n.1.contains q.eng && q.part == part && !q.lent).foldl (fun s q => s + q.len) 0
  n.1.foldl (fun l e =>
    let used := (l.filter fun q => q.eng == e && !q.lent).map fun q => (q.start, q.len)
    (freeGaps (x.span e) (sortBy (fun a b => decide (a.1 ≤ b.1)) used) 0).foldl (fun l g =>
      let q : Slice := { eng := e, part := part, start := g.1, len := min g.2 (max 200000 (n.2 - have_ l)) }
      if have_ l < n.2 && x.sliceOk l q then l ++ [q] else l) l) l

/-- The slices of a sheaf (R288): those that the build brings as far as the rules allow, and for each partition what it still
needs; where those of the build leave no room for that, the builder's own alone. -/
def Site.slices (x : Site) (c : Core) : List Slice :=
  let mine := x.b.slices.foldl (fun l q => if x.sliceOk l q then l ++ [q] else l) []
  let full (l : List Slice) : List Slice :=
    (List.range 16).foldl (fun l k => if (c.part k).state == .empty then l else (x.wanted c k).foldl (x.fill k) l) l
  let met (l : List Slice) : Bool := (List.range 16).all fun k => (c.part k).state == .empty || (x.wanted c k).all fun n =>
    decide (n.2 ≤ (l.filter fun q => n.1.contains q.eng && q.part == k && !q.lent).foldl (fun s q => s + q.len) 0)
  if met (full mine) then full mine else full []

/-- The slices of a sheaf after debts, and what they pay. -/
def Site.open_ (x : Site) (c : Core) : List Open × List (Nat × Nat × Nat) :=
  let l := (x.slices c).map fun q => ({ plan := q, start := q.start, len := q.len } : Open)
  let pairs := (List.range 16).flatMap fun k => ((enginesOf 2 ++ enginesOf 3 ++ enginesOf 4).filterMap fun e =>
    (debtNo e).bind fun n => let d := Tab.get 0 (c.part k).debts n; if d == 0 then none else some (k, e, n, d))
  let y := pairs.foldl (fun (s : List Open × List (Nat × Nat × Nat)) y =>
    let ix := (s.1.zipIdx.filter fun o => o.1.plan.eng == y.2.1 && o.1.plan.part == y.1 && !o.1.plan.lent).map fun o => (o.2, o.1.start)
    let z := payDebt y.1 y.2.1 s.1 y.2.2.2 ((sortBy (fun a b => decide (a.2 ≤ b.2)) ix).map (·.1))
    (z.1, s.2 ++ [(y.1, y.2.2.1, y.2.2.2 - z.2)])) (l, [])
  (y.1.filter fun o => o.len != 0, y.2)

/-! ### The passes -/

/-- Plans jobs one by one, each as far as it goes. -/
def Site.each (x : Site) (pass : Nat) (l : List Job) (p : Plan) : Plan :=
  l.foldl (fun p j => match x.job pass p j with
    | .waits => p
    | .all q => q
    | .part q _ => q) p

/-- A step, or a command that has none, has been planned since. -/
def Plan.grown (p q : Plan) : Bool := decide (p.sheaf.works.length < q.sheaf.works.length)

/-- Pass 1 (R34, R49, R59, R267, R338): migration traffic, carried decodes, clip frames that have begun. -/
def Site.pass1 (x : Site) (moves : Bool) (p : Plan) : Plan :=
  let p := if moves then p.c.moving.foldl (fun p m =>
      match p.c.runs.find? fun r => r.work == .move m.num with
      | some r => x.each 1 [x.runJob p r] p
      | none => x.each 1 (x.moveJob p m) p) p else p
  let p := p.c.ctxs.foldl (fun p e =>
    x.each 1 ((e.2.pics.filter fun q => q.carried && !q.decoded).map (x.picJob p e.1)) p) p
  p.c.clips.foldl (fun p k => if p.c.clipBegun k then x.each 1 (x.clipJob p k (k.rows * k.rowSteps)) p else p) p

/-- The WAITs of an instance that the sheaf's SIGNALs meet are behind it (R107). -/
def Site.past (x : Site) (p : Plan) (i : Inst) : Plan :=
  match p.c.prog? i.part i.prog with
  | none => p
  | some pr => x.passWaits (i.ahead pr) p i.id

/-- The builder comes to an instance: WAITs that are met are behind it, and its program has a stage map (R107, R251). -/
def Site.reach (x : Site) (p : Plan) (i : Inst) : Plan :=
  let q := x.past p i
  match q.c.prog? i.part i.prog with
  | none => q
  | some pr => x.staged q i pr

/-- The jobs of an instance as the plan knows it, and the tillers that lack lines for it. -/
def Site.jobsOf (x : Site) (p : Plan) (id : Nat) : List Job × List (Nat × Nat) :=
  match p.c.inst? id with
  | none => ([], [])
  | some i => x.instJobs p i

/-- A latency-critical instance has not ended by the boundary that closes tick home + allowance; builds that refused it
count against the allowance (R42, R43). -/
def Inst.expired (i : Inst) (now : Nat) : Bool :=
  i.lc && i.home.any fun h => decide (h + (i.allow - i.refused) ≤ now)

/-- The clip of the instance's binding that takes its picture: the first steps of the frame (R338). -/
def Site.firstClip (x : Site) (p : Plan) (i : Inst) (n : Nat → Nat) : List Job :=
  match i.binding, i.pic with
  | some b, some k => (p.c.clips.filter fun (c : Clip) => c.binding == b && c.frame == some k.2).flatMap fun c => x.clipJob p c (n (c.rows * c.rowSteps))
  | _, _ => []

/-- Pass 2: admitted to an earlier tick, not finished and not abandoned at the boundary (R42), with the runs that several commands share
and the clip frames of its instances. -/
def Site.pass2 (x : Site) (p : Plan) : Plan :=
  let l := byKey (fun (i : Inst) => [4096 - min 4096 (i.late x.s.tick.count), i.home.getD 0, i.queue, i.id])
    (p.c.insts.filter fun i => p.considers i && i.lc && i.admitted && !i.expired x.s.tick.count)
  let sides := (x.sideJobs p true).filter fun j => match j.work with
    | .seam id _ => l.any (·.id == id)
    | _ => true
  l.foldl (fun p i =>
    let q := x.reach p i
    let r := (x.jobs 2 (x.jobsOf q i.id).1 q).1
    let r := x.each 2 (x.firstClip r i id) r
    if q.grown r then { r with sheaf := { r.sheaf with insts := r.sheaf.insts ++ [(i.id, 2)] } } else r) (x.each 2 sides p)

/-- A new instance with the first step of its clip frame: the plan with it, or the code of what refuses it (R284, R338), and the tillers
that lack lines for it. -/
def Site.whole (x : Site) (pass : Nat) (p : Plan) (i : Inst) : Plan × Option Nat × List (Nat × Nat) :=
  let l := x.jobsOf p i.id
  let y := x.jobs pass l.1 p
  match y.2 with
  | some k => (y.1, some k, l.2)
  | none => let z := x.jobs pass (x.firstClip y.1 i fun _ => 1) y.1; (z.1, z.2, [])

/-- Pass 3 on a new latency-critical instance, as a whole (R284); a partition without a reservation has none (R283). Builds that ended
in a bare sheaf have refused it too. -/
def Site.takeIn (x : Site) (p : Plan) (i : Inst) : Plan :=
  let refuse (k : Nat) (l : List (Nat × Nat)) : Plan :=
    { p with sheaf := { p.sheaf with refused := p.sheaf.refused ++ [(i.id, k)], short := (p.sheaf.short ++ l).dedup } }
  if i.allow < i.refused then refuse 0 []
  else if x.res i.part == 0 then refuse grainCode []
  else
    let q := x.reach p i
    match x.whole 3 q i with
    | (_, some k, l) => refuse k l
    | (r, none, _) =>
      if !q.grown r then r
      else
        let r := x.each 3 (x.firstClip r i id) r
        { r with sheaf := { r.sheaf with insts := r.sheaf.insts ++ [(i.id, 3)] } }

/-- The steps that leads have placed here, each a job of its own at its offset, when its seam is in (R270). The lead decides admission:
no reservation of this module holds them back. -/
def Site.farJobs (x : Site) : List Job :=
  x.s.link.steps.flatMap fun y =>
    match x.s.core.memberSlot y.1 y.2.1 with
    | none => []
    | some k => y.2.2.zipIdx.map fun z =>
      let s := z.1
      let paths := match s.eng with
        | .link p => [(2 + p, s.costs.foldl (fun n c => n + c.2.2) 0)]
        | _ => []
      { work := .far k x.tick z.2, part := k, lc := false, choice := { work := .far k x.tick z.2 }, home := (tillerOf s.eng).getD 0
        steps := [{ id := 0, eng := s.eng, dur := s.dur, solo := s.dur, costs := s.costs, gap := max s.start s.seam, paths := paths }] }

/-- A host transfer of a ring behind a WAIT that SIGNALs of the sheaf meet is taken up, and planned after them (R107). -/
def Site.ringPast (x : Site) (p : Plan) (q : Nat) (f : Fetched) : Plan :=
  match p.pastWaits q f.n with
  | none => p
  | some ws =>
    let cmd := { f.cmd with src := .ring q }
    let body := if f.op == 0x6003 then runOnly hostReadRun else runOnly hostWriteRun
    let c := Core.commandOn (p.c.atHand x.s.tick.count f.op cmd true) body x.s.amb p.c
    match c.runs.find? fun r => r.src == .ring q && r.n == f.n with
    | some r => if p.c.runs.any (·.id == r.id) then p
      else let p := { p with c := c }; let j := x.runJob p r; x.each 3 [{ j with after := j.after ++ ws }] p
    | none => p

/-- Pass 3: new latency-critical instances and ring transfers, by partition, queue and ring order (R34, R290). -/
def Site.pass3 (x : Site) (p : Plan) : Plan :=
  let is := (p.c.insts.filter fun i => p.considers i && i.lc && !i.admitted).map fun i =>
    (i.part :: i.queue :: p.c.ringKey i, (Sum.inl i : Inst ⊕ (Run ⊕ (Nat × Fetched))))
  let rs := (p.c.ringRuns.filter (!·.gleans)).map fun r => ([r.part, r.queue, 0, r.n], (Sum.inr (.inl r) : Inst ⊕ (Run ⊕ (Nat × Fetched))))
  let ws := p.c.qs.flatMap fun e => ((e.2.fetched.filter fun f => (f.op == 0x6003 || f.op == 0x6004) &&
      e.2.fetched.any fun g => g.op == 0x0004 && decide (g.n < f.n))).map fun f =>
    ([e.2.part, e.1, 0, f.n], (Sum.inr (.inr (e.1, f)) : Inst ⊕ (Run ⊕ (Nat × Fetched))))
  (byKey (·.1) (is ++ rs ++ ws)).foldl (fun p y => match y.2 with
    | .inl i => x.takeIn p i
    | .inr (.inl r) => x.each 3 [x.runJob p r] p
    | .inr (.inr w) => x.ringPast p w.1 w.2) p

/-- Pass 4 on a gleaning instance: the longest prefix of its steps that fits (R286); a new one only with the first step of its clip
frame (R338). -/
def Site.glean (x : Site) (p : Plan) (i : Inst) : Plan :=
  let q := x.reach p i
  let r := (x.jobs 4 (x.jobsOf q i.id).1 q).1
  let k := if i.admitted then (r, none) else x.jobs 4 (x.firstClip r i fun _ => 1) r
  if q.grown r && k.2.isNone then { k.1 with sheaf := { k.1.sheaf with insts := k.1.sheaf.insts ++ [(i.id, 4)] } } else p

/-- Gleaning instances and gleaning commands of rings, in the order of R286: of equal weights the instances before the commands. -/
def Core.gleaners (c : Core) (l : List Inst) : List (Inst ⊕ Run) :=
  let l : List (Inst ⊕ Run) := l.map .inl ++ (c.ringRuns.filter (·.gleans)).map .inr
  let top := l.foldl (fun m y => max m (y.elim Inst.weight Run.weight)) 0
  byKey (fun y => match y with
    | .inl i => [top - i.weight, 0, i.id, i.part, i.queue]
    | .inr r => [top - r.weight, 1, r.id, r.part, r.queue]) l

def Site.gleanAll (x : Site) (l : List (Inst ⊕ Run)) (p : Plan) : Plan :=
  l.foldl (fun p y => match y with
    | .inl i => x.glean p i
    | .inr r => x.each 4 [x.runJob p r] p) p

/-- Lent slices that gleaning instances have in slices of their own partition. -/
def Sheaf.ownLent (h : Sheaf) : List Slice :=
  (h.slices.filter fun o => o.plan.lent && h.slices.any fun s => !s.plan.lent && s.plan.eng == o.plan.eng && s.plan.part == o.plan.part &&
    decide (s.start < o.plan.start + o.plan.len) && decide (o.plan.start < s.start + s.len)).map (·.plan)

/-- Pass 4: gleaning work, then pictures that no instance waits for (R51, R307), and what is left of the clip frames. The lent time of
each slice is offered to its owner's instances first, all of them in order, and then to all (R289). -/
def Site.pass4 (x : Site) (p : Plan) : Plan :=
  let l := p.c.gleaners (p.c.insts.filter fun i => p.considers i && !i.lc)
  let p := x.each 4 (x.sideJobs p false) p
  let own := (({ x with owned := true } : Site).gleanAll l p).sheaf.ownLent
  let p := ({ x with claims := own } : Site).gleanAll l p
  let p := p.c.ctxs.foldl (fun p e =>
    let open_ := e.2.state == .opened || e.2.state == .running || e.2.state == .draining
    x.each 4 (if open_ then
      (e.2.pics.filter fun q => q.made && !q.decoded && !q.carried && (q.refOnly || q.started || (p.c.picInsts e.1 q.num).isEmpty) &&
        !p.ends.any (·.1 == .pic e.1 q.num)).map (x.picJob p e.1) else []) p) p
  (p.c.clips.filter (!·.lc)).foldl (fun p k => x.each 4 (x.clipJob p k (k.rows * k.rowSteps)) p) p

/-! ### The build -/

/-- The ledger of a build for a tick: budget, floor and Vb (R54, R55, R57), coefficients (R63). During tick 0 no tick has ended:
Vb is then the lowest average since the release of MCP, which the build brings. -/
def State.budgetFor (s : State) (vbMv : Nat) : Ledger :=
  let tick := s.tick.count + 1
  let vb := s.led.vbLast.getD (min s.led.vbBoot vbMv)
  { s.led with
    nextVb := vb, nextBudget := budgetOf (s.led.contractAt tick) vb (s.tick.periodAt tick), nextFloor := s.led.floorOf
    nextCoef := s.led.coef, nextImg := s.led.img }

/-- What the builders know at a build. -/
def State.site (s : State) (b : Build) (led : Ledger) : Site :=
  let tick := s.tick.count + 1
  { s := s, b := b, tick := tick, perio := s.tick.periodAt tick, hemNs := 1000 * s.tick.hemAt tick
    peff := peffMw (s.led.contractAt tick) led.nextVb, floor := led.nextFloor }

/-- Sum of the unscaled reservations (R60). -/
def Core.resSum (c : Core) (tick period : Nat) : Nat := c.parts.foldl (fun n e => n + e.2.resGrains tick period) 0

/-- A work is in flight, or planned and not started. -/
def Core.workLive (c : Core) (w : Work) : Bool :=
  (c.runs.any fun r => !r.dead && r.work == w) || match w with
    | .inst id n => (c.inst? id).any fun i => i.todo.any fun t => t.seq == n && t.choice.isSome
    | _ => false

/-- The sheaf before the passes: fixed items, slices, room that works in flight hold. -/
def Site.base (x : Site) (fixed : List Fixed1) : Plan :=
  let o := x.open_ x.s.core
  { c := x.s.core
    sheaf := { fixed := fixed, slices := o.1, paid := o.2.filter (·.2.2 != 0)
               temps := (x.s.tick.sheaf.temps.filter fun y => y.till.isNone && y.work.any x.s.core.workLive).map fun y => { y with from_ := 0 } } }

/-- Planned cost of a sheaf in 2^-24 grain. -/
def Sheaf.cost (h : Sheaf) (a : Amb) : Nat := h.slots.foldl (fun n q => n + q.cost) (h.fixed.foldl (fun n f => n + a.fixed f) 0)

/-- A bare sheaf (R35): pass 1 without migration. Its fixed items are those of the build for its tick, or, where none has begun, those
of the sheaf in force (DESIGN CHOICE, log 52). -/
def Site.bare (x : Site) : Sheaf := (x.pass1 false (x.base (x.s.tick.plan.headD x.s.tick.sheaf).fixed)).sheaf

/-- The sheaf after each pass (R34, R59, R60), the plan after the last. -/
def Site.build (x : Site) (led : Ledger) : List Sheaf × Plan × Nat :=
  let base := x.base (x.refresh ++ x.b.fixed)
  let p1 := x.pass1 true base
  let left := plannable led.nextBudget led.nextFloor * 2 ^ 24
  let cost := p1.sheaf.cost x.amb
  let factor := resFactor (left - cost) (x.s.core.resSum x.tick x.perio)
  if left < cost then
    -- no later pass admits any work: pass 3 refuses what is new
    let new := p1.c.insts.filter fun i => p1.considers i && i.lc && !i.admitted
    let p3 := { p1 with sheaf := { p1.sheaf with refused := new.map fun i => (i.id, grainCode) } }
    ([p1.sheaf, p1.sheaf, p3.sheaf, p3.sheaf], p3, factor)
  else
    let x := { x with
      left := left - cost, res := fun k => (x.s.core.part k).resGrains x.tick x.perio * factor / 1024
      limit := fun k => grainsOf ((x.s.core.part k).grantsAt x.tick).glMw x.perio }
    let p2 := x.each 2 x.farJobs (x.pass2 p1)
    let p3 := x.pass3 p2
    let p4 := x.pass4 p3
    ([p1.sheaf, x.shared base p2, x.shared base p3, x.shared base p4], p4, factor)

/-- The lead sends each member of a partition with planned work the steps placed there (R270); their bytes are free
values (log 27). -/
def State.sendSteps (s : State) (h : Sheaf) : State :=
  (s.core.parts.filter fun e => h.slots.any fun q => q.part == e.1).foldl (fun s e =>
    e.2.grants.members.foldl (fun s m => s.sendMgmt m.1 0x20 .none) s) s

/-- A queue fetches all that its doorbells have announced: the reads end well before the cut-off (R32, R86). -/
def Core.fetchAll (now q : Nat) : Nat → Core → Core
  | 0, c => c
  | n + 1, c => if c.mayFetch q then Core.fetchAll now q n (c.fetch now q .ok) else c

/-- What a ring command does that bears on what a partition runs; a FEED brings its access unit with its own row. -/
def ringBody (op : Nat) : Option (Env → Core → Except Stop (Core × Option Run)) :=
  match op with
  | 0x0001 | 0x0002 => some (runOnly fun _ _ => .ok (quick 0))
  | 0x0003 => some signalCmd
  | 0x0004 => some waitMetCmd
  | 0x4001 => some streamOpen
  | 0x4003 => some streamResync
  | 0x4004 => some streamClose
  | 0x5002 => some epochCmd
  | 0x5005 => some graftCmd
  | 0x6001 => some declare
  | 0x6002 => some releaseBuf
  | 0x6003 => some (runOnly hostReadRun)
  | 0x6004 => some (runOnly hostWriteRun)
  | 0x6005 => some pinHint
  | 0x7002 => some partDestroy
  | 0x7003 => some modelLoad
  | 0x7004 => some modelUnload
  | 0x7005 => some progCmd
  | 0x7006 => some bindCmd
  | _ => none

/-- Fetched commands that nothing holds are taken up, in ring order: they are ready (R32). Their reads of host memory are good (DESIGN
CHOICE, log 52). -/
def Core.startReady (a : Amb) (c : Core) : Core :=
  c.qs.foldl (fun c e => (c.q e.1).fetched.foldl (fun c f =>
    match ringBody f.op with
    | some body => c.command f.op { f.cmd with src := .ring e.1 } body a
    | none => c) c) c

/-- As often as one of them may make way for another. -/
def Core.startAll (a : Amb) : Nat → Core → Core
  | 0, c => c
  | n + 1, c => Core.startAll a n (c.startReady a)

/-- A TICKWAIT whose tick the build plans is over (R107). -/
def Core.tickWaits (c : Core) (now : Nat) : Core :=
  (c.insts.filter fun i => i.tickWait.any fun t => decide (t ≤ now + 1)).foldl (fun c i =>
    (c.updInst i.id fun x => { x with tickWait := none }).proceed now i.id) c

/-- What the cut-off brings about before anything is admitted. -/
def Core.ready (c : Core) (a : Amb) : Core :=
  let now := a.tick
  let c := c.qs.foldl (fun c e => c.fetchAll now e.1 (c.q e.1).sqSize) c
  let c := Core.startAll a (c.qs.foldl (fun n e => n + (c.q e.1).fetched.length) 0) c
  let c := (c.abandonLeft now).endBindings now
  let c := c.ctxs.foldl (fun c e => c.parseCtx now e.1) c
  (((c.makeAll now).considerAll).tickWaits now).steerAll a

/-- The passes of a build over the instances and runs that were there at its cut-off, those with lower numbers than two (R32, R34): the
sheaf after each pass, and what the partitions report. -/
def State.passes (s : State) (b : Build) (insts runs : Nat) : State :=
  let c := s.core
  let led := s.led
  let x := ({ s with core := { c with
    insts := c.insts.filter fun i => decide (i.id < insts), runs := c.runs.filter fun r => decide (r.id < runs) } } : State).site b led
  let y := x.build led
  let last := y.1.getLastD {}
  let d := y.2.1.c
  { s with
    core := { d with
      insts := (d.insts.map fun i => if i.lc then i else { i with waited := i.waited + 1 }) ++ c.insts.filter fun i => decide (insts ≤ i.id)
      runs := (d.runs.map fun r => if r.gleans then { r with waited := r.waited + 1 } else r) ++ c.runs.filter fun r => decide (runs ≤ r.id)
      parts := Tab.mapAll {} d.parts fun _ p =>
        { p with hNext := { factor := y.2.2, resGrains := p.resGrains x.tick x.perio * y.2.2 / 1024 } }
      decPlan := ((List.range 8).map (fun d => last.slots.foldl (fun n q =>
        if q.step.eng == .dec d then n + q.step.dur else n) 0) :: d.decPlan).take 64 }
    tick := { s.tick with plan := y.1, made := some (b, insts, d.nextRun) }
    led := { led with nextShort := decide (plannable led.nextBudget led.nextFloor * 2 ^ 24 < (y.1.headD {}).cost led.ambNext) } }

/-- What the passes count, taken back before they are made again: waiting builds (R286), planned decode time (R262). -/
def Core.unbuilt (c : Core) (insts runs : Nat) : Core :=
  { c with
    insts := c.insts.map fun i => if i.lc || decide (insts ≤ i.id) then i else { i with waited := i.waited - 1 }
    runs := c.runs.map fun r => if !r.gleans || decide (runs ≤ r.id) then r else { r with waited := r.waited - 1 }
    decPlan := c.decPlan.drop 1 }

/-- CUT_OFF: the build for the next tick (R32 to R34, R43, R57 to R60, R82, R101, R284, R286, R287). -/
def execCutOff (b : Build) (s : State) : Host.Outcome State Fault Refusal :=
  .next <|
    if !mlive s.core.mstate || s.tick.cutPassed || s.tick.sealed then s
    else
      let led := s.budgetFor b.vbMv
      let c := ({ s.core with free := s.core.free + 1 }).ready s.amb
      let t := ({ s with
        core := c
        tick := { s.tick with cutPassed := true }
        led := { led with vb := match b.lastMv with
          | some mv => mv
          | none => led.vb } } : State).passes b c.nextInst c.nextRun
      t.sendSteps (t.tick.plan.getLastD {})

/-- MEMBER_STEP_LIST (R270): the steps that the lead placed here, for the sheaf of the next tick; accepting them opens a window for
their seams on a tiller of the partition. They come ahead of pass 3: where the build has passed it, and no seal has closed the sheaf,
it plans again. -/
def execMemberStepList (p lead part : Nat) (steps : List MemberStep) (s : State) : Host.Outcome State Fault Refusal :=
  .next <|
    if !s.portOpen p then s
    else
      match s.core.memberSlot lead part with
      | none => s
      | some k =>
        let ts := (s.core.part k).tillers
        let t := ts.getD (Config.freeNat s.core.free 4 % ts.length) 0
        let s := s.updLink fun l => { l with steps := l.steps.filter (fun x => !(x.1 == lead && x.2.1 == part)) ++ [(lead, part, steps)] }
        let s := (s.grantWindow lead t true false).reply lead (Config.freeNat (s.core.free + 1) 5) .done
        match s.tick.made with
        | some (b, i, r) =>
          if s.tick.sealed then s
          else ({ s with core := s.core.unbuilt i r } : State).passes b i r
        | none => s

/-! ### The seal -/

/-- A new instance is not admitted (R43): carried, or it completes with OVER_BUDGET, whatever command of it has failed (R104); no
rule names its detail word: a free value (R97, log 18). -/
def Core.refuse (c : Core) (now : Nat) (y : Nat × Nat) : Core :=
  match c.inst? y.1 with
  | none => c
  | some i =>
    let c := c.hNext i.part fun h => { h with limit := if h.limit == 0 then y.2 else h.limit }
    if i.refused < i.allow then
      (c.updInst i.id fun x => { x with refused := x.refused + 1 }).hNext i.part fun h => { h with carried := h.carried + 1 }
    else
      let d := c.draw
      (d.2.hNext i.part fun h => { h with refused := h.refused + 1 }).endInst now i .overBudget (Config.freeNat d.1 0 % 2 ^ 32)

/-- A run that belongs to no command. -/
def Core.addRun (c : Core) (r : Run) : Core :=
  { c with runs := c.runs ++ [{ r with id := c.nextRun, admitted := true }], nextRun := c.nextRun + 1 }

/-- A work of a sealed sheaf is taken up: the run of a picture, clip frame, weight-sharing run, seam or migration, where none is
there; a command keeps what the builder has chosen for it. -/
def Core.takeUp (c : Core) (h : Sheaf) (y : Work × Nat × Choice × List PStep) : Core :=
  let w := y.1
  let part := ((h.slots.find? fun q => q.work == w).map (·.part)).getD 0
  let lc := h.slots.any fun q => q.work == w && q.lc
  let mine := (h.slots.filter fun q => q.work == w && !q.step.made).map (·.step)
  let steps := if y.2.2.2.isEmpty then mine else y.2.2.2
  if c.runs.any fun r => !r.dead && r.work == w then
    { c with runs := c.runs.map fun r => if r.work == w then { r with admitted := true } else r }
  else
    match w with
    | .pic k num =>
      let x := c.ctx k
      match x.pics.find? (·.num == num) with
      | none => c
      | some p =>
        if p.decoded then c
        else
          ((c.updCtx k fun x => x.updPic num fun q => { q with left := max 1 q.info.ctus }) : Core).addRun
            { src := .ring x.queue, op := 0x4002, queue := x.queue, part := x.part, lc := lc, post := .decode k num, steps := decodeSteps x p }
    | .clip b =>
      match c.clips.find? (·.binding == b) with
      | none => c
      | some k =>
        match k.frame with
        | none => c
        | some num =>
          ({ c with clips := listSet c.clips (·.binding == b) fun x => { x with cur := some num, taken := x.taken.filter (· != num) } } : Core).addRun
            { src := .ring k.queue, op := 0x4007, queue := k.queue, part := k.part, lc := k.lc, post := .clip b num, steps := k.steps }
    | .share .. =>
      match h.shares.find? fun ms => ms.head?.any fun m => match m.1, w with
          | .inst i n, .share j k => i == j && n == k
          | _, _ => false with
      | none => c
      | some ms => if mine.isEmpty then c else c.addRun { part := part, lc := lc, post := .share ms, steps := steps }
    | .seam .. | .move _ =>
      if mine.isEmpty then c
      else c.addRun { part := part, lc := lc, steps := steps
                      bytes := steps.foldl (fun n s => n + (s.tile.map (·.rows)).getD 0) 0
                      post := .carry w (((h.carries.find? (·.1 == w)).map (·.2)).getD []) }
    | .far .. => if mine.isEmpty then c
      else c.addRun { part := part, lc := lc, steps := steps.map fun s => { s with gap := 0 }, post := .carry w [] }
    | .inst id seq =>
      c.updInst id fun i => { i with todo := listSet i.todo (·.seq == seq) fun t => { t with choice := some y.2.2.1, plan := y.2.2.2 } }
    | .ring .. => c

/-- Where scratchpad lines of gleaning instances kept an instance of their partition from being placed, those copies move to the
granary in the next build (R285), unless they have moved in the last 64 ticks (R267). -/
def Core.evict (c : Core) (next : Nat) (h : Sheaf) : Core :=
  h.short.foldl (fun c y =>
    (c.copies.filter fun x => x.part == y.1 && !c.isMoving x && rested next x.movedAt && (match x.place with
        | .scratch t _ => t == y.2
        | _ => false) && match x.key with
        | .inst k => (c.inst? k).any fun j => !j.lc
        | _ => false).foldl (fun c x =>
      match c.inGranary { part := x.part, place := .nowhere, bytes := c.copyBytes x.part x.buf } (c.layout (c.spots []) c.aims) with
      | some q => c.startMove next x q
      | none => c) c) c

/-- A sealed sheaf admits what its build chose; what pass 3 refuses is refused (R34, R43, R286), and the partitions report it. -/
def Core.sealSheaf (c : Core) (now : Nat) (h : Sheaf) : Core :=
  let mark (i : Inst) : Inst :=
    { i with
      admitted := i.admitted || h.insts.any (·.1 == i.id)
      waited := if h.insts.contains (i.id, 4) then 0 else i.waited }
  let rest (r : Run) : Run := if r.gleans && h.slots.any (·.work == r.work) then { r with waited := 0 } else r
  let c := { c with insts := c.insts.map mark, runs := c.runs.map rest }
  let c := h.works.foldl (fun c y => c.takeUp h y) c
  let sum (k : Nat) (lc : Bool) : Nat := (h.slots.filter fun q => q.part == k && q.lc == lc).foldl (fun n q => n + q.cost) 0
  let new (k : Nat) : Nat := (h.insts.filter fun y => y.2 == 3 && c.insts.any fun i => i.id == y.1 && i.part == k).length
  let report (k : Nat) (n : Health) : Health :=
    { n with lcPlanned := toGrains (sum k true), glPlanned := toGrains (sum k false), admitted := new k }
  let c := { c with parts := Tab.mapAll {} c.parts fun k p => { p with hNext := report k p.hNext } }
  (h.refused.foldl (fun c y => c.refuse now y) c).evict (now + 1) h

/-- A bare sheaf refuses new latency-critical work that its build considered (R35, R43). -/
def Core.barred (c : Core) (h : Sheaf) : Core :=
  { c with insts := c.insts.map fun i =>
    if h.insts.contains (i.id, 3) || h.refused.any (·.1 == i.id) then { i with refused := i.refused + 1 } else i }

/-- Logical arrays that the steps of a sheaf use. -/
def Sheaf.uses (h : Sheaf) (t a : Nat) : Bool :=
  h.slots.any fun q => match q.step.eng with
    | .arrays u f l _ => u == t && decide (f ≤ a) && decide (a < f + l)
    | _ => false

/-- Seals the sheaf of the next tick: the last complete one, after pass `done`, or a bare one (R35). Notices that came in time
change routes at the boundary (R436). Arrays that the sheaf does not use may be darned or tested in its tick (R207, R444). -/
def State.sealSheaf (s : State) (done : Nat) : State :=
  let plan := s.tick.plan.getLastD {}
  let bare := done == 0 || !s.tick.cutPassed || s.fw.reload.contains 2
  let led := if s.tick.cutPassed then s.led else { (s.budgetFor s.led.vbBoot) with nextShort := false }
  let h := if bare then (({ s with led := led } : State).site {} led).bare else s.tick.plan.getD (min done 4 - 1) {}
  let c := s.core.sealSheaf s.tick.count h
  let m := s.mend.sealIdle h.uses
  { s with
    core := if bare then c.barred plan else c
    tick := { s.tick with sealed := true, sealedBare := bare, nextSheaf := h, plan := [], made := none }
    led := { led with nextPlan := h.cost led.ambNext }
    mend := { m with nextTest := (m.learn.pickTest s.core.retired).filter fun x => !((m.arr x.1 x.2).state == 0 && h.uses x.1 (m.arr x.1 x.2).slot) }
    link := { s.link with due := s.link.due ++ s.link.notices, notices := [], steps := [] } }

/-- SEAL_DEADLINE (R35): `done` passes of the build are complete. -/
def execSealDeadline (done : Nat) (s : State) : Host.Outcome State Fault Refusal :=
  .next (if mlive s.core.mstate && !s.tick.sealed then s.sealSheaf done else s)

end Sys2Proof.Machine
end

