-- ==== Sys2Proof/Machine/Steps.lean ====
section
/-! DEFINITION. Steps: their start (R19, R21, R39, R46, R76, R111, R192, R193, R214, R308, R389), their end (R38, R40, R41, R47,
R56, R169, R310, R340, R385) and the step bound (R37). -/

namespace Sys2Proof.Machine

/-! ### Engines -/

/-- Index of an engine among the overruns of Table 15-6. -/
def engineNo : Engine → Option Nat
  | .arrays t .. | .vector t | .mover t => some t
  | .dec d => some (16 + d)
  | .shp n => some (24 + n)
  | .cle n => some (28 + n)
  | .hostDma | .link _ | .granary => none

/-- Class of Table 10-4 under which a step counts. -/
def stepCls : Engine → Nat
  | .arrays .. | .vector _ | .mover _ => 0
  | .dec _ => 1
  | .shp _ => 2
  | .cle _ => 3
  | .granary => 4
  | .link _ => 5
  | .hostDma => 6

/-- The units of an engine whose offsets shift together (R40, R193): cells of arrays, other engines after them. -/
def unitKeys : Engine → List Nat
  | .arrays t f l q => (List.range l).flatMap fun j => cellsAt t (f + j) q
  | .vector t => [4096 + t]
  | .mover t => [4112 + t]
  | .link p => [4128 + p]
  | .hostDma => [4134]
  | .dec _ | .shp _ | .cle _ | .granary => []

/-- Members of a run's partition that a port leads to; on a member, the lead (R270). -/
def State.seamDests (s : State) (r : Run) (p : Nat) : List Nat :=
  let x := s.core.part r.part
  (x.grants.members.map (·.1) ++ (x.lead.map (·.1)).toList).filter fun m => (s.link.route m).isSome && s.link.portTo m == p

/-- The engine of a planned step is there: a tiller of the partition (R76) with its logical arrays in place, a port that leads to a
member. -/
def State.engineUp (s : State) (r : Run) : Engine → Bool
  | .arrays t f l _ => (s.core.tillersOf r.part).contains t && (List.range l).all fun j => (s.mend.holder t (f + j)).isSome
  | .vector t | .mover t => (s.core.tillersOf r.part).contains t
  | .dec d => decide (d < 8)
  | .shp n => decide (n < 4)
  | .cle n => decide (n < 2)
  | .link p => (s.link.port p).state == 2 && !(s.seamDests r p).isEmpty
  | .hostDma | .granary => true

/-- Entries that an engine's source has in the in-flight tracker (Table 1-5). Lines lie over the granary slices in turn, so a granary
transfer has an entry in each of them. Arrays and vector units have no source of their own; host reads are counted by function (R385). -/
def sourceRoom : Engine → Nat
  | .mover t => (Source.mover t).entries
  | .granary => (Source.granary 0).entries
  | .dec d => (Source.media d).entries
  | .shp n => (Source.media (8 + n)).entries
  | .cle n => (Source.media (12 + n)).entries
  | .link p => (Source.link p).entries
  | .arrays .. | .vector _ | .hostDma => 65536

/-- Operations of an engine in flight: steps that run, and messages that a port has sent. -/
def State.inFlight (s : State) (e : Engine) : Nat :=
  match e with
  | .link p => (s.link.sent.filter (·.port == p)).length
  | _ => s.core.runs.foldl (fun n r => n + (r.active.filter (·.eng == e)).length) 0

/-- A running step keeps an engine from a step that would start at a time (R18): of a chain of arrays the next strip may follow on
each array where the last one leaves it (R189). So do its crossbar slots until it ends, and its bank accesses (R184). -/
def Active.bars (a : Active) (e : Engine) (p : PStep) (at_ : Nat) : Bool :=
  (overlaps a.eng e && (a.step.holds.isEmpty || decide (a.start + (a.step.dur : Int) ≤ (at_ : Int)) ||
    a.step.clash a.start { p with eng := e } at_)) ||
    meet a.step.xbar p.xbar || (a.step.bankAt a.start).any (p.bankAt at_).contains

/-- Intake: STREAM_FEED data moves in every sheaf (R33); a frozen queue holds what has not been admitted (R121). -/
def Run.intake (r : Run) : Bool := !r.internal && r.op == 0x4002

/-- Nothing runs that keeps an engine from a step (R18), its source has an entry left (R21), and its plan memory holds this
tick's plan (Table 19-1). Intake has its own share of host DMA: it and planned steps do not bar each other (R33). -/
def State.engineFree (s : State) (r : Run) (e : Engine) (p : PStep) (at_ : Nat) : Bool :=
  !(s.core.runs.any fun x => (e != .hostDma || x.intake == r.intake) && x.active.any fun a => a.bars e p at_) &&
    decide (s.inFlight e < sourceRoom e) && !s.tick.noPlan.any fun x => x == e || overlaps x e

/-! ### The planned step -/

def Core.intakeOpen (c : Core) (r : Run) : Bool := (c.mstate != .quiet && (c.q r.queue).state != .frozen) || r.admitted

/-- R39: a start in the hem needs the planned end before the boundary; a decode step counts as 100 µs. -/
def Tick.mayStart (t : Tick) (e : Engine) (dur at_ : Nat) : Bool :=
  let d := match e with
    | .dec _ => max dur 100000
    | _ => dur
  decide (at_ < t.period - 1000 * t.hem) || decide (at_ + d < t.period)

/-- The slice in which a slot lies, as it stands now. -/
def Tick.sliceOf (t : Tick) (q : PSlot) : Option Open := q.slice.bind fun k => t.sheaf.slices[k]?

/-- How far the start of a slot has shifted (R40, R46, R193); what is planned in the hem does not shift (R48). -/
def Tick.shiftOf (t : Tick) (q : PSlot) : Nat :=
  if t.period - 1000 * t.hem ≤ q.start then 0
  else
    match t.sliceOf q with
    | some o => o.start - o.plan.start
    | none => (unitKeys q.step.eng).foldl (fun n u => max n (Tab.get 0 t.shifts u)) 0

/-- The slot's offset is reached, and its slice is open (R19, R46). -/
def Tick.opens (t : Tick) (q : PSlot) (at_ : Nat) : Bool :=
  decide (q.start + t.shiftOf q ≤ at_) && (t.sliceOf q).all fun o => decide (o.start ≤ at_) && decide (at_ < o.start + o.len)

/-- A planned step is still to start: its run has it, or its command has not started. -/
def Core.slotLive (c : Core) (q : PSlot) : Bool :=
  match c.runs.find? fun r => !r.dead && r.work == q.work with
  | some r => r.steps.any (·.id == q.step.id)
  | none => match q.work with
    | .inst id seq => (c.inst? id).any fun i => i.todo.any fun t => t.seq == seq
    | _ => false

/-- The window of the sheaf in force in which a picture may decode now on a decoder: its own, or the first of its stream where it is
carried (R46, R49). -/
def State.windowOf (s : State) (k n : Nat) (e : Engine) (at_ : Nat) : Option PSlot :=
  s.tick.sheaf.slots.find? fun q => (match q.work with
    | .pic j m => j == k && decide (n ≤ m)
    | _ => false) && q.step.eng == e && s.tick.opens q at_ && decide (at_ < q.stop + s.tick.shiftOf q)

/-- A decode step beyond those planned: a coding tree unit took longer (R305). It is charged as the last planned one. -/
def Core.extraStep (c : Core) (k n : Nat) (e : Engine) : PStep :=
  let costs := match (c.ctx k).pics.find? (·.num == n) with
    | some p => ((decodeSteps (c.ctx k) p).getLast?.map (·.costs)).getD []
    | none => []
  { id := 65536, eng := e, dur := 93250, solo := 93250, costs := costs }

/-- The step of a run that an engine starts: the first one that the sheaf in force has for it there, at the resolved size of its stage
(R203, R238), a decode step in its window, the next of an intake. A step that stands before it on the engine, and may still start,
goes first (R18, R40). -/
def State.pick (s : State) (r : Run) (e : Engine) (at_ : Nat) : Option (PStep × Option PSlot) :=
  match r.post with
  | .decode k n => (s.windowOf k n e at_).map fun q => ({ ((r.steps.head?).getD (s.core.extraStep k n e)) with eng := e }, some q)
  | _ =>
    if r.intake then (if s.core.intakeOpen r && e == .hostDma then r.steps.head?.map fun p => (p, none) else none)
    else
      let mine := s.tick.sheaf.slots.filter fun q => q.work == r.work && q.step.eng == e && r.steps.any (·.id == q.step.id)
      match mine.foldl (fun (m : Option PSlot) q => match m with
        | none => some q
        | some b => if q.start < b.start then some q else some b) none with
      | none => none
      | some q =>
        let ahead := s.tick.sheaf.slots.any fun p =>
          decide (p.start < q.start) && overlaps p.step.eng e && s.core.slotLive p && s.tick.mayStart p.step.eng p.step.dur at_
        if s.tick.opens q at_ && !ahead then some ((q.step.resolved r.pieces).getD q.step, some q) else none

/-- Within its work, a step follows the stages before its own, and the step whose result it takes (R192, R195, R214). -/
def Run.inOrder (r : Run) (p : PStep) (at_ : Nat) : Bool :=
  (r.steps.all fun q => decide (p.stage ≤ q.stage)) && (r.active.all fun a => decide (p.stage ≤ a.step.stage)) &&
    match p.prev with
    | some k => (r.steps.all fun q => q.id != k) && (r.active.all fun a => a.step.id != k) &&
        (r.ends.find? (·.1 == k)).all fun x => decide (x.2 + (p.gap : Int) ≤ (at_ : Int))
    | none => decide (r.stageEnd + (if r.begun then (p.gap : Int) else 0) ≤ (at_ : Int))

/-- A vector step that reads rows of an array step starts 8 ac after the last of them is written (R214). -/
def Core.rowsReady (c : Core) (r : Run) (p : PStep) (at_ : Nat) : Bool :=
  match p.eng with
  | .vector _ => c.rows.all fun x => x.1 != r.part || !r.ins.contains x.2.1 || decide (x.2.2 + 32 ≤ (at_ : Int))
  | _ => true

/-- A command is still to start. -/
def Core.unstarted (c : Core) (w : Work) : Bool :=
  match w with
  | .inst id n => (c.inst? id).any fun i => i.todo.any fun t => t.seq == n
  | _ => false

/-- A step of a work is still to end, or has ended less than `gap` ns before a time. -/
def Core.awaits (c : Core) (w : Work) (id : Nat) (gap at_ : Int) : Bool :=
  c.unstarted w || c.runs.any fun r => !r.dead && r.work == w &&
    (r.steps.any (·.id == id) || r.active.any (·.step.id == id) || r.ends.any fun e => e.1 == id && decide (at_ < e.2 + gap))

/-- The blocks of an array step are in the registers of its arrays when its strip comes to them: its own loads are over, and so are, a
load's time before, the DRAM reads that they follow; or a block is there already, or a step that has gone has loaded it (R191 to R193). -/
def State.loaded (s : State) (q : PSlot) (p : PStep) (at_ : Nat) : Bool :=
  match p.eng with
  | .arrays t f l k => (List.range l).all fun j => match p.blockAt j with
    | none => true
    | some b =>
      let at_ := at_ + (p.holds[j]?).elim 0 (·.1)
      match p.loads.find? (·.1 == j) with
      | some y => decide (4 * (y.2.1 + 32) ≤ at_) && q.step.needs.all fun n =>
          !(s.tick.sheaf.staged.any fun z => z.read == n && z.blk == b) || !s.core.awaits n.1 n.2 128 at_
      | none => (cellsAt t (f + j) k).all fun u => (Tab.get {} s.core.cells u).fg == some b || s.tick.sheaf.slots.any fun z =>
          !(z.work == q.work && z.step.id == q.step.id) && decide (z.start ≤ q.start) && !s.core.slotLive z &&
            z.uses.any fun y => y.cell == u && y.load.isSome && y.blk == some b
  | _ => true

/-- What a media step needs of its picture: decode order, a free slot, no carry in this tick (R49, R50, R308); a clip
step follows the picture's last decode step (R338). -/
def Core.picReady (c : Core) (r : Run) : Bool :=
  match r.post with
  | .decode k n =>
    let x := c.ctx k
    match x.pics.find? (·.num == n) with
    | none => false
    | some p =>
      !(p.carried && x.carriedT) && x.resync.isNone && (x.pics.filter fun q => decide (q.num < n)).all (·.decoded) &&
        (p.slot || decide ((x.pics.filter (c.holdsSlot k)).length < x.refs + 2))
  | .clip b n => c.clips.any fun k => k.binding == b && (c.ctx k.ctx).pics.any fun p => p.num == n && p.decoded
  | _ => true

/-- The first decode step of a picture: it takes its slot; in OPEN with a binding in force the context is RUNNING (Table 11-1). -/
def Core.openPic (c : Core) (r : Run) : Core :=
  match r.post with
  | .decode k n =>
    let x := c.ctx k
    match x.pics.find? (·.num == n) with
    | none => c
    | some p =>
      let c := c.updCtx k fun x => x.updPic n fun q => { q with started := true, slot := true }
      if x.state == .opened && c.bound k && AuKind.isRap p.info.kind then
        c.updCtx k fun x => { x with state := .running, event := true }
      else c
  | _ => c

/-! ### Operands at the first step (R111) -/

/-- What a command reads and computes, for the commands that do nothing else. -/
def bodyOf : Nat → Option (Env → Core → Except Stop Run)
  | 0x000B => some emitRun
  | 0x1001 => some matmulRun
  | 0x1002 => some convRun
  | 0x1003 => some dwconvRun
  | 0x1004 => some attendRun
  | 0x1010 => some transposeRun
  | 0x1011 => some copyRun
  | 0x1012 => some fillRun
  | 0x2001 => some vewRun
  | 0x2002 => some vredRun
  | 0x2003 => some vwinRun
  | 0x2004 => some vspreadRun
  | 0x2005 => some vsfnRun
  | 0x2006 => some vtopkRun
  | 0x2007 => some vnmsRun
  | 0x2008 => some vassocRun
  | 0x2009 => some vpoolRun
  | 0x200A => some vnormRun
  | 0x200B => some vsoftmaxRun
  | 0x200C => some vscanRun
  | 0x3001 | 0x3003 => some quantRun
  | 0x3002 => some dequantRun
  | 0x3004 => some convertRun
  | 0x4005 => some shapeRun
  | 0x4006 => some roiRun
  | 0x4009 => some motionRun
  | 0x5001 => some cachePut
  | 0x5004 => some optimStep
  | 0x6004 => some hostWriteRun
  | _ => none

/-- Something that a command has read has been written since. -/
def Core.stale (c : Core) (now : Nat) (r : Run) : Bool :=
  (r.seen.any fun y => (c.copy r.part y.1 y.2.1).version != y.2.2) || (r.op == 0x4005 && r.cmd.sub == 2 && r.readAt != now)

/-- The command of a run, as it was when it started. -/
def Core.envOf (c : Core) (now : Nat) (r : Run) : Option Env :=
  match r.src, r.todo with
  | .ring q, _ => some { op := r.op, cmd := r.cmd, now := now, q := q, part := r.part, fn := (c.q q).func, n := r.n, draw := c.free }
  | .inst id _, some t => (c.inst? id).bind fun i => (c.prog? i.part i.prog).map fun p => c.envAt now r.op r.cmd i p t
  | .inst .., none => none

/-- The command whose operands the array steps of a run read: its own, or that of the first member. -/
def Core.lead (c : Core) (r : Run) : Run :=
  match r.post with
  | .share ms => (ms.findSome? fun m => c.runs.find? fun x => !x.dead && x.work == m.1).getD r
  | _ => r

/-- The command of a work, in flight or planned. -/
def Core.workEnv (c : Core) (now : Nat) (w : Work) : Option Env :=
  match c.runs.find? fun r => !r.dead && r.work == w with
  | some r => c.envOf now (c.lead r)
  | none => match w with
    | .inst id n => (c.inst? id).bind fun i => (c.prog? i.part i.prog).bind fun p => (i.todo.find? (·.seq == n)).bind fun t =>
        p.cmds[t.idx]?.map fun pc => c.envAt now pc.1 pc.2 i p t
    | _ => none

/-- What a step needs of other runs: the products of its weight-sharing run, the seam before its command (R255), the producers of what
a seam brings; a weight-sharing run starts when each of its members has started, or will not (R169). A transfer of a ring behind a WAIT
starts when the WAIT has completed (R107). -/
def State.fed (s : State) (r : Run) : Bool :=
  r.share.isNone &&
    !(s.core.runs.any fun x => !x.dead && match x.work, r.work with
      | .seam i n, .inst j m => i == j && n == m
      | _, _ => false) &&
    (match r.src with
      | .ring q => r.begun || r.internal || s.core.ringOpen q r.n false false
      | .inst .. => true) &&
    match r.post with
    | .share ms => ms.all fun m => !s.core.unstarted m.1
    | .carry (.seam i n) _ => (s.core.workEnv s.tick.count (.inst i n)).all fun e => !e.pendingDep s.core && e.inst.all s.core.gateOpen
    | _ => true

/-- A command whose operands another queue has written since it started reads them anew (R111). -/
def Core.renew (a : Amb) (c : Core) (r : Run) : Core :=
  match bodyOf r.op, c.envOf a.tick r with
  | some f, some e =>
    let c := { c with free := c.free + 1 }
    match f e c with
    | .ok x =>
      let y := e.stepsFor c (e.fill c x)
      c.updRun r.id fun _ => { y with id := r.id, share := r.share, planned := r.planned, measured := r.measured, admitted := r.admitted, waited := r.waited, stageEnd := r.stageEnd }
    | .error .wait => c
    | .error (.fail st d) => (c.dropRun r.id).stopCmd a e st d
    | .error (.violation k v) => (c.dropRun r.id).violate a e k v
  | _, _ => c

/-- The commands whose first step a run is about to start. -/
def Core.firsts (c : Core) (r : Run) : List Run :=
  match r.post with
  | .share ms => if r.begun then [] else c.runs.filter fun x => !x.dead && ms.any fun m => m.1 == x.work
  | _ => if r.begun then [] else [r]

def Core.freshen (a : Amb) (c : Core) (r : Run) : Core :=
  (c.firsts r).foldl (fun c x => if c.stale a.tick x then c.renew a x else c) c

/-! ### Host accesses -/

/-- Host range of a step of a transfer (R382): direction, address, length. -/
def Run.hostRange (r : Run) : Option (Bool × Nat × Nat) :=
  let w := cmdWords r.cmd
  let long (k : Nat) : Nat := w.getD k 0 + 2 ^ 32 * w.getD (k + 1) 0
  let len := r.bytes
  if r.internal then none
  else if r.op == 0x7003 then some (false, long 0, w.getD 2 0)
  else if r.op == 0x4002 || r.op == 0x6003 then some (false, long 1, len)
  else
    match r.post with
    | .hostWrite a d => some (true, a, d.length)
    | _ => none

/-- Part of a device read has no request yet. -/
def Run.moreReads (r : Run) : Bool :=
  match r.hostRange with
  | some (false, _, n) => decide (r.readPos < n)
  | _ => false

/-- Memory read requests of a device read of `n` bytes at `a`: each ends at the next boundary of the Max Read Request Size
(R372). -/
def reqCount (mrrs a n : Nat) : Nat := if n == 0 then 0 else (a + n - 1) / mrrs + 1 - a / mrrs

/-- Bytes that the next `k` of them cover. -/
def reqBytes (mrrs a n k : Nat) : Nat := min n ((a / mrrs + k) * mrrs - a)

/-- The access of a host DMA step: none, some memory read requests (R385), held back (R389), or a violation (R120, R382). -/
inductive Access where
  | free | read (count : Nat) | wait | violation (addr : Nat)
  deriving DecidableEq, Repr

/-- Requests that the next step of a read issues: those left, cut evenly over the steps left, and no more than the
function may have outstanding (R385). -/
def Core.access (c : Core) (r : Run) : Access :=
  let f := (c.q r.queue).func
  match r.hostRange with
  | none => .free
  | some (wr, a, n) =>
    if !c.mastering f then .wait
    else if wr then
      match c.host.uncovered f true a n with
      | some x => .violation x
      | none => .free
    else if n ≤ r.readPos then .free
    else
      let m := (c.fn f).mrrs
      let a := a + r.readPos
      let n := n - r.readPos
      let k := min (min (ceilDiv (reqCount m a n) (max 1 (r.steps.filter (·.eng == .hostDma)).length)) (c.readLimit f - c.outstanding f))
        (hostReadEntries - c.allReads)
      match c.host.uncovered f false a n with
      | some x => .violation x
      | none => if k == 0 then .wait else .read k

/-- Issues requests for a run, each with its own tag. -/
def Core.issueReqs (c : Core) (f run : Nat) : Nat → Core
  | 0 => c
  | k + 1 =>
    match c.newTag f with
    | none => c
    | some t =>
      Core.issueReqs (((c.useTag f t).updHost fun h => { h with
        reads := h.reads ++ [{ fn := f, tag := t, run := run }] }).updRun run fun x => { x with reads := x.reads + 1 }) f run k

/-- Issues the requests of a step. -/
def Core.issueRead (c : Core) (r : Run) (k : Nat) : Core :=
  let f := (c.q r.queue).func
  match r.hostRange with
  | none => c
  | some (_, a, n) =>
    (c.issueReqs f r.id k).updRun r.id fun x => { x with
      readPos := r.readPos + reqBytes (c.fn f).mrrs (a + r.readPos) (n - r.readPos) k }

/-- A step of a link engine sends a SEAM message (R270, R423) to a member behind its port; which, and what the message
names, are free values (log 27). -/
def State.sendSeam (s : State) (r : Run) (p : Nat) : State :=
  let ds := s.seamDests r p
  let k := s.core.free
  match ds[Config.freeNat k 400 % ds.length]? with
  | none => s
  | some dest =>
    let f := { s.mgmtFlit dest (Config.freeNat k 401 % 17) with cls := 1, window := Config.freeNat k 402 % 256 }
    let l := s.link.launch none f
    { s with
      core := { s.core with free := k + 1 }
      link := { l with
        nextMsg := l.nextMsg + 1, sent := l.sent ++ [{ id := l.nextMsg, port := p, what := .run r.id, tick := s.tick.count }] } }

/-! ### Start -/

/-- Grains of a step count for its command; those of a decode step for the instance of the lowest binding (R307), of a clip step
for the clip, of a weight-sharing run for its first open member, of a seam for the instance it serves. -/
def Core.charge (c : Core) (r : Run) (planned measured : Nat) : Core :=
  let add (i : Inst) : Inst := { i with planned := i.planned + planned, measured := i.measured + measured }
  match r.post with
  | .decode k n =>
    match sortBy (fun (a b : Inst) => decide (a.binding.getD 0 ≤ b.binding.getD 0)) (c.picInsts k n) with
    | i :: _ => c.updInst i.id add
    | [] => c
  | .clip b _ => { c with clips := listSet c.clips (·.binding == b) fun x =>
      { x with planned := x.planned + planned, measured := x.measured + measured } }
  | .share ms =>
    match ms.findSome? fun m => c.runs.find? fun x => !x.dead && x.work == m.1 with
    | some x => c.updRun x.id fun x => { x with planned := x.planned + planned, measured := x.measured + measured }
    | none => c
  | .carry (.seam i _) _ => c.updInst i add
  | .carry .. => c
  | _ => c.updRun r.id fun x => { x with planned := x.planned + planned, measured := x.measured + measured }

/-- Codes of the elements of a block and their positions in it, column after column: what the registers hold (R165, R186). The second
stationary operand of ATTEND has its positions in its rows. -/
def Core.blockCodes (c : Core) (now : Nat) (w : Work) (b : Block) : List (Nat × Nat) :=
  match c.workEnv now w with
  | none => []
  | some e =>
    let k := (statWords e.op).getD ((b.own.map (·.2)).getD 0) 1
    let md := if e.flag 3 && e.op != 0x1004 then (match e.arg c 5 with
      | .ok m => some m.view.data
      | .error _ => none) else none
    match e.arg c k with
    | .error _ => []
    | .ok a => (List.range b.side).flatMap fun j =>
        if k == 2 then
          if a.view.d0 ≤ b.col + j then []
          else ((List.range b.kb).filter fun i => decide (b.pos + i < a.view.rows)).map fun i => (a.view.code (b.pos + i) (b.col + j), i)
        else if a.view.rows ≤ b.col + j then []
        else ((staticRow a.view md (b.col + j)).filter fun y => decide (b.pos ≤ y.1) && decide (y.1 < b.pos + b.kb)).map fun y => (y.2, y.1 - b.pos)

/-- Registers of the units that a step uses (R186, R190, R191, Table 8-1): its blocks swapped in, the strip in the accumulator units,
and in the background the block that the sheaf loads next into the cell; what a vector step leaves in the registers of its unit is a
free value. -/
def Core.putRegs (c : Core) (now : Nat) (slots : List PSlot) (r : Run) (p : PStep) : Core :=
  match p.eng with
  | .arrays t f l k => (List.range l).foldl (fun c j => match p.blockAt j with
    | none => c
    | some b => (cellsAt t (f + j) k).foldl (fun c u =>
      let next := (slots.flatMap fun q => (q.uses.filter fun y => y.cell == u && y.load.isSome).map fun y => (y.from_, q.work, y.blk)).foldl
        (fun (m : Option (Nat × Work × Option Block)) y => if m.all fun z => decide (y.1 < z.1) then some y else m) none
      let bg := next.bind fun y => y.2.2.map fun z => (y.2.1, z)
      let x : Cells :=
        { fg := some b, fgCodes := c.blockCodes now r.work b, bg := bg.map (·.2), acc := p.tile.map fun z => (r.work, z), accs := c.free + 1
          bgCodes := bg.elim [] fun z => c.blockCodes now z.1 z.2 }
      { c with cells := Tab.set {} c.cells u x, free := c.free + 1 }) c) c
  | .vector t => let d := c.draw; { d.2 with vregs := Tab.set 0 d.2.vregs t (d.1 + 1) }
  | _ => c

/-- The partial sum and the accumulator of a strip row and a column in the accumulator unit of an array, or of quarter `k` of one (R190). -/
def Core.accWord (c : Core) (cell bank : Nat) (row : Fin 256) (col : Fin 32) : Word :=
  match (Tab.get {} c.cells cell).accs with
  | 0 => 0
  | k + 1 => BitVec.ofNat 32 (Config.freeNat k (2 ^ 24 + 2 ^ 20 * bank + 32 * row + col))
def Core.partialSum (c : Core) (cell : Nat) (row : Fin 256) (col : Fin 32) : Word := c.accWord cell 0 row col
def Core.accumulator (c : Core) (cell : Nat) (row : Fin 256) (col : Fin 32) : Word := c.accWord cell 1 row col

/-- The registers of a vector unit by the names of Table 8-1: lane of V0 to V31, word of M0 to M7, bits of K0 to K7. No command names
one (R212): from reset on they are 0 (log 55), after a vector step free values. -/
def Core.vecReg (c : Core) (t bank reg ix : Nat) : Word :=
  match Tab.get 0 c.vregs t with
  | 0 => 0
  | k + 1 => BitVec.ofNat 32 (Config.freeNat k (2 ^ 20 * bank + 2 ^ 12 * reg + ix))
def Core.vReg (c : Core) (t : Nat) (reg : Fin 32) (lane : Fin 256) : Word := c.vecReg t 0 reg lane
def Core.mReg (c : Core) (t : Nat) (reg : Fin 8) (row col : Fin 32) : Word := c.vecReg t 1 reg (32 * row + col)
def Core.kReg (c : Core) (t : Nat) (reg : Fin 8) (bit : Fin 1024) : Bool := bitAt (bit % 32) (c.vecReg t 2 reg (bit / 32)).toNat

/-- Planned cost of a step by entry, in 2^-24 grain, at the coefficients of its build (R61, R63). -/
def Amb.byEntry (a : Amb) (p : PStep) : List (Nat × Nat) := p.costs.map fun x => (x.1, a.plan [x])

/-- A step runs from `at_`: how far it is behind its planned start (R292), the shift that it leaves to its units (R40, R193), its
planned cost. A read that has requests left keeps its last step. -/
def State.begin (s : State) (r : Run) (e : Engine) (at_ : Nat) (p : PStep) (slot : Option PSlot) : State :=
  let a := s.amb
  let slow := s.led.level != 0
  let window := match r.post with
    | .decode .. => true
    | _ => false
  -- a decode step is planned behind those before it in the window
  let past (q : PSlot) : Nat := if window && q.work == r.work then
    (q.step.solo - r.steps.foldl (fun n y => n + y.dur) 0) * q.step.dur / max 1 q.step.solo else 0
  let late := slot.elim 0 fun q => at_ - (q.start + past q)
  let x : Active :=
    { eng := e, step := p, start := at_, late := late, plan := a.byEntry p, stalled := slow
      due := (slot.bind s.tick.sliceOf).map fun o => ((o.start + o.len : Nat) : Int) }
  let c := s.core.updRun r.id fun y => { y with
    active := y.active ++ [x], admitted := true, begun := true
    steps := if e == .hostDma && y.moreReads && (y.steps.filter (·.eng == .hostDma)).length ≤ 1 then y.steps else y.steps.filter (·.id != p.id) }
  let c := ((c.charge r (a.plan p.costs) 0).putRegs s.tick.count
    (s.tick.sheaf.slots.filter fun q => !(q.work == r.work && q.step.id == p.id)) r p).openPic r
  -- a seam to another module that begins late has passed its slack (Table 9-8)
  let c := match e with
    | .link _ => if late == 0 then c else c.health r.part fun h => { h with seamLate := true }
    | _ => c
  let shifts := match slot with
    | some q => (unitKeys e).foldl (fun t u => Tab.upd 0 t u fun n => max n (at_ - q.start)) s.tick.shifts
    | none => s.tick.shifts
  let slots := if window then s.tick.sheaf.slots
    else s.tick.sheaf.slots.filter fun q => !(q.work == r.work && q.step.id == p.id)
  { s with
    core := c
    led := if slow then s.led.mark (p.costs.map (·.1)) else s.led
    tick := { s.tick with shifts := shifts, sheaf := { s.tick.sheaf with slots := slots } } }

/-- What keeps a run from starting a planned step now. -/
def State.mayBegin (s : State) (r : Run) (e : Engine) (at_ : Nat) (p : PStep) (slot : Option PSlot) : Bool :=
  mlive s.core.mstate && s.engineUp r e && s.engineFree r e p at_ && s.tick.mayStart e p.dur at_ && s.core.picReady r && s.fed r &&
    r.inOrder p at_ && s.core.rowsReady r p at_ && slot.all fun q => s.loaded q p at_

/-- The start itself, with what it reads from the host. -/
def State.launchStep (s : State) (r : Run) (e : Engine) (at_ : Nat) (p : PStep) (slot : Option PSlot) : State :=
  let go (c : Core) : State :=
    let s := { s with core := c }.begin r e at_ p slot
    match e with
    | .link k => s.sendSeam r k
    | _ => s
  match (if e == .hostDma then s.core.access r else .free) with
  | .free => go s.core
  | .read k => go (s.core.issueRead r k)
  | .wait => s
  | .violation a =>
    let ix := match r.src with
      | .inst _ k => k
      | .ring _ => 0xFFFF
    { s with core := (s.core.freezeQ s.tick.count r.queue 2 a (r.op * 65536 + ix)).failRun s.tick.count r .violation }

/-- A migration has moved what its run had to (R267): the copy takes its new place with the last of it. -/
def Core.moved (c : Core) (n bytes : Nat) : Core :=
  { c with moving := c.moving.filterMap fun m =>
      if m.num != n then some m else if m.left ≤ bytes then none else some { m with left := m.left - bytes } }

/-- Nothing is left of a run: a command ends, the members of a weight-sharing run go on with their own steps, copies that a seam or
a migration carries take their places (R168, R255, R267). -/
def Core.finish (c : Core) (now : Nat) (r : Run) : Core :=
  match r.post with
  | .share ms =>
    let c := c.dropRun r.id
    (c.runs.filter fun x => !x.dead && ms.any fun m => m.1 == x.work).foldl (fun c x =>
      let y := { x with share := none, begun := true, stageEnd := max x.stageEnd r.stageEnd }
      if y.done then c.endRun now y else c.updRun x.id fun _ => y) c
  | .carry w l =>
    let c := (c.dropRun r.id).putPlaces l
    match w with
    | .move n => c.moved n r.bytes
    | _ => c
  | _ => c.endRun now r

/-- The last step of a run has ended, and nothing that it reads is still to come (R40, R385). -/
def Core.stepDone (c : Core) (now run : Nat) : Core :=
  match c.run? run with
  | some r => if r.done then c.finish now r else c
  | none => c

/-- Before its first step a weight-sharing run is cut to what the resolved shapes of its members leave (R203). -/
def Core.shareNow (c : Core) (r : Run) : Core :=
  match r.post with
  | .share ms =>
    if r.begun then c
    else
      let product (w : Work) : Option Product := (c.runs.find? fun x => !x.dead && x.work == w).bind fun x =>
        x.pieces.findSome? fun p => match p with
          | .arrays y => some y
          | _ => none
      let y := ms.foldl (fun (s : Nat × List (Nat × Nat) × Nat) m => match product m.1 with
        | some z => (s.1 + m.2, s.2.1 ++ [(s.1, min m.2 z.m)], max s.2.2 z.k)
        | none => (s.1 + m.2, s.2)) (0, [], 0)
      let pieces := r.pieces.map fun p => match p with
        | .arrays z => .arrays { z with k := min z.k y.2.2, spans := y.2.1 ++ [(0, 0)] }
        | p => p
      c.updRun r.id fun x => { x with pieces := pieces, steps := resolveSteps pieces x.steps }
  | _ => c

/-- A weight-sharing run of which no step has started takes what its members leave of it; with nothing left it ends (R203). -/
def State.shareStart (s : State) (r : Run) : State :=
  match r.post with
  | .share _ => if s.fed r then { s with core := (s.core.shareNow r).stepDone s.tick.count r.id } else s
  | _ => s

/-- STEP_START: an engine starts, at `t` ns of the tick, the step of a run that the sheaf in force has for it. -/
def execStepStart (run : Nat) (e : Engine) (t : Nat) (s : State) : Host.Outcome State Fault Refusal :=
  .next <|
    match s.core.run? run with
    | none => s
    | some r =>
      let s := s.shareStart r
      match s.core.run? run with
      | none => s
      | some r =>
        match s.pick r e t with
        | none => s
        | some x =>
          if !s.mayBegin r e t x.1 x.2 then s
          else
            let s := { s with core := s.core.freshen s.amb r }
            match s.core.run? run with
            | none => s
            | some r => s.launchStep r e t x.1 x.2

/-! ### What a step costs -/

/-- Shares of a step's grains among its entries: how they divide between several is a free value (R63). -/
def shares (draw : Nat) : Nat → List (Nat × Nat) → List (Nat × Nat × Nat)
  | _, [] => []
  | g, [x] => [(x.1, x.2, g)]
  | g, x :: r =>
    let k := Config.freeNat draw r.length % (g + 1)
    (x.1, x.2, k) :: shares draw (g - k) r

/-- The ledger after a step (R56, R63). -/
def Ledger.step (l : Ledger) (draw grains : Nat) (plan : List (Nat × Nat)) : Ledger :=
  (shares draw (grains * 2 ^ 24) plan).foldl (fun l x => l.addRan x.1 x.2.1 x.2.2) { l with metered := l.metered + grains }

/-- Classes of Table 10-4 in which a step counts: that of its engine, and one for each DRAM, link or host leg. -/
def PStep.classes (p : PStep) (e : Engine) : List Nat :=
  (stepCls e :: (p.paths.filter (·.2 != 0)).map fun y => if y.1 == 0 then 4 else if y.1 == 1 then 6 else 5).dedup

/-- The partition's counts of a step (R292, R294). -/
def Health.step (h : Health) (lc : Bool) (a : Active) (ns grains : Nat) : Health :=
  let ks := a.step.classes a.eng
  { h with
    lcMeasured := if lc then h.lcMeasured + grains else h.lcMeasured
    glMeasured := if lc then h.glMeasured else h.glMeasured + grains
    glSteps := if lc then h.glSteps else h.glSteps + 1
    throttled := if a.stalled && a.step.costs.any (fun x => decide (x.1 < 20)) then h.throttled + 1 else h.throttled
    tMeas := ks.foldl (fun t k => Tab.upd 0 t k fun n => n + ns + a.late) h.tMeas
    tSolo := ks.foldl (fun t k => Tab.upd 0 t k fun n => n + a.step.solo) h.tSolo }

/-- Slices of an engine that begin at `low` or later start when a step that ran on until `at_` has ended, and keep their lengths
(R46). -/
def pushSlices (e : Engine) (low : Int) (at_ : Nat) (l : List Open) : List Open :=
  let ix := sortBy (fun (a b : Nat × Nat) => decide (a.2 ≤ b.2))
    ((l.zipIdx.filter fun y => y.1.plan.eng == e && decide (low ≤ (y.1.start : Int))).map fun y => (y.2, y.1.start))
  (ix.foldl (fun (x : List Open × Nat) k => match x.1[k.1]? with
    | none => x
    | some o => (x.1.set k.1 { o with start := max o.start x.2 }, max o.start x.2 + o.len)) (l, at_)).1

/-- A step on a shared engine that ran on beyond its slice (R46, R47, R291): later slices of the engine are pushed, the partition's
are shortened, what they cannot take is a slice debt. -/
def State.overrun (s : State) (r : Run) (a : Active) (t : Nat) : State :=
  match a.due, debtNo a.eng with
  | some d, some k =>
    if (t : Int) ≤ d then s
    else
      let n := ((t : Int) - d).toNat
      let mine := sortBy (fun (a b : Nat × Nat) => decide (a.2 ≤ b.2))
        ((s.tick.sheaf.slices.zipIdx.filter fun y => y.1.plan.eng == a.eng && y.1.plan.part == r.part && decide (d ≤ (y.1.start : Int))).map
          fun y => (y.2, y.1.start))
      let x := payDebt r.part a.eng (pushSlices a.eng d t s.tick.sheaf.slices) n (mine.map (·.1))
      { s with
        core := s.core.updPart r.part fun p => { p with debts := Tab.upd 0 p.debts k fun m => m + x.2 }
        tick := { s.tick with sheaf := { s.tick.sheaf with slices := x.1 } } }
  | _, _ => s

/-- A step has ended: it no longer runs; the ends that later steps wait for (R195, R214). -/
def Run.ended (r : Run) (a : Active) (t : Nat) : Run :=
  { r with
    active := r.active.erase a
    ends := r.ends.filter (·.1 != a.step.id) ++ [(a.step.id, (t : Int))]
    stageEnd := max r.stageEnd (t : Int) }

/-- Buffers that the array steps of a run write: its own outputs, or those of the members of its weight-sharing run. -/
def Core.writes (c : Core) (r : Run) : List Nat :=
  match r.post with
  | .share ms => (c.runs.filter fun x => !x.dead && ms.any fun m => m.1 == x.work).flatMap fun x => x.outs.map (·.buf)
  | _ => r.outs.map (·.buf)

/-- An array step has written its last row (R214). -/
def Core.wroteRows (c : Core) (r : Run) (e : Engine) (t : Nat) : Core :=
  match e with
  | .arrays .. =>
    let bs := c.writes r
    { c with rows := (c.rows.filter fun x => !(x.1 == r.part && bs.contains x.2.1)) ++ bs.map fun b => (r.part, b, (t : Int)) }
  | _ => c

/-- Array-ac measured on a stage (Table 9-8). -/
def Core.countAc (c : Core) (r : Run) (a : Active) : Core :=
  match a.eng, (c.lead r).src with
  | .arrays .., .inst id idx =>
    match c.inst? id with
    | none => c
    | some i =>
      match c.mapOf i.part i.prog with
      | none => c
      | some m =>
        let k := stageAt m idx
        let n := a.step.holds.foldl (fun n y => n + y.2 / 4) 0
        c.updPart i.part fun p =>
          let old := ((p.stageAc.find? fun y => y.1 == i.prog && y.2.1 == k).map (·.2.2)).getD 0
          { p with stageAc := (p.stageAc.filter fun y => !(y.1 == i.prog && y.2.1 == k)) ++ [(i.prog, k, old + n)] }
  | _, _ => c

/-- Everything that the end of a step counts, whatever it ends. -/
def State.meter (s : State) (r : Run) (a : Active) (t grains : Nat) : State :=
  let ns := ((t : Int) - a.start).toNat
  let d := s.core.draw
  let c := ((d.2.wroteRows r a.eng t).countAc r a).health r.part fun h => h.step r.lc a ns grains
  let c := c.charge r 0 grains
  let c := { c with runs := c.runs.filterMap fun x =>
    if x.id != r.id then some x
    else
      let y := x.ended a t
      if y.dead && y.active.isEmpty then none else some y }
  let s := { s with
    core := c
    led := s.led.step d.1 grains a.plan
    tick := { s.tick with
      overruns := match engineNo a.eng with
        | some k => if a.start < 0 then Tab.upd 0 s.tick.overruns k fun n => max n t else s.tick.overruns
        | none => s.tick.overruns } }
  s.overrun r a t

/-- A step reads a scale block with a wrong tag (R136, R137): an array step those of its rows and its block columns up to its last
position; a vector step, or a transfer in the scratchpad, those of its rows, where an operand has as many, or of all. Where no input has
one, the destination whose stored scales are read does. -/
def Core.badIn (c : Core) (now : Nat) (r : Run) (p : PStep) : Bool :=
  match c.envOf now r, p.tile with
  | some e, some t =>
    let views (ks : List Nat) : List (Nat × View) := ks.filterMap fun k => match e.arg c k with
      | .ok a => some (k, a.view)
      | .error _ => none
    let ins := views (inWords e.op e.sub e.flags)
    let l := if ins.any fun y => y.2.badTag y.2.d0 then ins else ins ++ views (outWords e.op e.sub e.flags)
    match p.eng with
    | .arrays .. =>
      let top := t.pos + t.ks
      let rows (v : View) (a n : Nat) : List Nat := ((List.range n).map (a + ·)).filter fun i => decide (i < v.rows)
      let window : Option Expand := r.pieces.findSome? fun q => match q with
        | .arrays x => x.window
        | _ => none
      l.any fun y => match window, y.1 with
        | some x, 0 =>
          let px := ((List.range t.rows).map (t.row + ·)).flatMap fun i => (List.range (x.geom.kh * x.geom.kw)).filterMap fun k =>
            x.geom.tap x.w x.h (i / max 1 x.wo) (i % max 1 x.wo) (k / max 1 x.geom.kw) (k % max 1 x.geom.kw)
          y.2.badTagIn px.dedup y.2.d0
        | _, 0 => y.2.badTagIn (rows y.2 t.row t.rows) top
        | _, 1 => y.2.badTagIn (rows y.2 t.col t.cols) top
        | _, _ => false
    | .vector _ =>
      !arrayOp e.op && l.any fun y =>
        let n := match r.pieces[p.stage / 2]? with
          | some (.vector v) => v.rows
          | _ => 0
        if y.2.rows == n then y.2.badTagIn ((List.range t.rows).map (t.col + t.row + ·)) y.2.d0 else y.2.badTag y.2.d0
    | .mover _ =>
      !arrayOp e.op && l.any fun y =>
        let b := max 1 (rowBytes y.2.dtype y.2.d0)
        y.2.badTagIn (((List.range (ceilDiv (t.row + t.rows) b - t.row / b)).map (t.row / b + ·)).filter fun i => decide (i < y.2.rows)) y.2.d0
    | _ => false
  | _, _ => false

/-- The members of a weight-sharing run with the part of a step that is theirs. -/
def Core.shareOfStep (c : Core) (ms : List (Work × Nat)) (p : PStep) : List (Run × PStep) :=
  (ms.foldl (fun (s : Nat × List (Run × PStep)) m =>
    let hi := s.1 + m.2
    match c.runs.find? (fun x => !x.dead && x.work == m.1), p.tile with
    | some x, some t =>
      let a := max t.row s.1
      let b := min (t.row + t.rows) hi
      (hi, if a < b then s.2 ++ [(x, { p with tile := some { t with row := a - s.1, rows := b - a } })] else s.2)
    | _, _ => (hi, s.2)) (0, [])).2

/-- The commands that a step finds a wrong tag for. -/
def Core.badTags (c : Core) (now : Nat) (r : Run) (p : PStep) : List Nat :=
  let l := match r.post with
    | .share ms => c.shareOfStep ms p
    | _ => [(r, p)]
  (l.filter fun y => y.1.status == Status.scaleMisaligned && c.badIn now y.1 y.2).map (·.1.id)

/-! ### How steps end -/

/-- The end of a decode step is one of the three of R38: its 64th unit, the end of the picture, the first unit that ends at or after
93 µs. -/
def decodeEnds (left u ns : Nat) : Bool :=
  decide (u ≤ 64) && decide (ns < 100000) && (u == 64 || decide (left ≤ u) || (decide (1 ≤ u) && decide (93000 ≤ ns)))

/-- A decode step (R38, R49, R52): coding tree units done, the window closed or not. -/
def Core.decodeStep (c : Core) (now : Nat) (r : Run) (k num ns n : Nat) (closed : Bool) : Core :=
  let x := (c.ctx k).updPic num fun p =>
    { p with left := p.left - min n 64, ns := p.ns + ns }
  let left := ((x.pics.find? (·.num == num)).map (·.left)).getD 0
  let c := c.updCtx k fun _ => x
  let c :=
    if left == 0 then (c.dropRun r.id).decodeDone k num
    else if closed then
      c.updCtx k fun x => { (x.updPic num fun p => { p with carried := true }) with carriedT := true, event := true }
    else c
  c.finishResync now k

/-- Floor cost in bytes of everything after unit `u` of the current frame (R339, R340). -/
def Clip.rest (k : Clip) (u : Nat) : Nat :=
  let first := k.coded == 0
  (k.cols - 1 - u % k.cols) * Clip.unitFloor first + (k.rows - 1 - u / k.cols) * k.rowFloor first +
    (k.frames - 1 - k.coded) * k.frameFloor false + 8

/-- One unit of a clip (R340): its bits at QUALITY, at the maximum QP and at floor cost. -/
def Clip.putUnit (k : Clip) (x : Nat × Nat × Nat) : Clip :=
  let allow := 8 * k.cap - k.written - 8 * k.rest k.unit
  let at_ := (k.coded, k.unit / k.cols)
  let low := min x.2.2 (8 * Clip.unitFloor (k.coded == 0))
  let put (bits : Nat) (k : Clip) : Clip := { k with written := k.written + bits, unit := k.unit + 1 }
  if k.mode == .normal && decide (x.1 ≤ allow) then put x.1 k
  else if k.mode != .floor && decide (x.2.1 ≤ allow) then
    put x.2.1 { k with mode := .maxqp, maxqp := k.maxqp.orElse fun _ => some at_ }
  else put low { k with mode := .floor, floorAt := k.floorAt.orElse fun _ => some at_ }

/-- Header bits of a step, within the floor costs of Table 13-4: clip start, picture header, row header. -/
def Clip.headMax (k : Clip) : Nat :=
  (if k.coded == 0 && k.unit == 0 then 8 * 504 else 0) + (if k.unit == 0 then 8 * 64 else 0) +
    (if k.unit % k.cols == 0 then 8 * 24 else 0)

/-- Units of the next step of a clip (R338). -/
def Clip.stepUnits (k : Clip) : Nat := min 10 (k.cols - k.unit % k.cols)

/-- Writes the whole bytes that a step adds to the bitstream; a range that has left the windows is a violation (R382). -/
def Core.clipWrite (c : Core) (now : Nat) (k : Clip) (from_ to_ : Nat) : Core :=
  if to_ ≤ from_ then c
  else
    let f := (c.q k.queue).func
    match c.host.uncovered f true (k.addr + from_) (to_ - from_) with
    | some a => c.freezeQ now k.queue 2 a 0
    | none => c.post f k.queue (k.addr + from_) ((List.range (to_ - from_)).map fun i => Config.clipByte k.key (from_ + i)) none

/-- A frame of a clip has ended (R337, R338, R341). -/
def Core.clipFrame (c : Core) (now : Nat) (k : Clip) : Core :=
  let k := { k with coded := k.coded + 1, frameStart := k.written, cur := none, unit := 0 }
  let c := { c with clips := listSet c.clips (·.binding == k.binding) fun _ => k }
  let c := match k.ending with
    | some why => c.endClip now why k
    | none =>
      if k.coded == k.frames then c.endClip now 0 k
      else if k.lastPic.isSome && k.taken.isEmpty then c.endClip now 1 k
      else c
  c.prunePics k.ctx

/-- A clip step (R338, R340). -/
def Core.clipStep (c : Core) (now : Nat) (r : Run) (k : Clip) (hdr : Nat) (units : List (Nat × Nat × Nat)) : Core :=
  let k1 := units.foldl Clip.putUnit { k with written := k.written + min hdr k.headMax }
  let done := k1.unit == k.rows * k.cols
  let k1 := if done then { k1 with written := (k1.written + 7) / 8 * 8 } else k1
  let c := c.clipWrite now k (k.written / 8) (k1.written / 8)
  let c := { c with clips := listSet c.clips (·.binding == k.binding) fun _ => k1 }
  if done then (c.dropRun r.id).clipFrame now k1 else c

/-- The window in which a decode step ran is closed at its end (R49). -/
def State.closed (s : State) (k n : Nat) (a : Active) (t : Nat) : Bool :=
  !(s.tick.sheaf.slots.any fun q => (match q.work with
    | .pic j m => j == k && decide (n ≤ m)
    | _ => false) && q.step.eng == a.eng && decide (((q.start + s.tick.shiftOf q : Nat) : Int) ≤ a.start) && decide (t < q.stop + s.tick.shiftOf q))

/-- What the end of a live step does to its run. -/
def State.stepEnds (s : State) (r : Run) (a : Active) (t : Nat) (how : StepHow) : State :=
  let now := s.tick.count
  let ns := ((t : Int) - a.start).toNat
  match r.post, how with
  | .decode k n, .ctus u => { s with core := s.core.decodeStep now r k n ns u (s.closed k n a t) }
  | .decode k n, .stop why off => { s with core := (s.core.stopStream now k why n (some off)).finishResync now k }
  | .clip b _, .clip hdr units =>
    match s.core.clips.find? (·.binding == b) with
    | some k => { s with core := s.core.clipStep now r k hdr units }
    | none => s
  | _, .dataLost tier unit w =>
    let u := ({ s with mend := s.mend.lostWords tier 1 }.logError (tierNo tier) unit w).lostAt r (tier == Tier.dram) w
    match r.post with
    | .decode .. | .clip .. => u
    | _ => { u with core := u.core.stepDone now r.id }
  | _, .parity x p =>
    ({ s with core := s.core.dropArray x (s.mend.arr x p).slot, mend := s.mend.queueTest x p } : State).failAt r.id .dataLost fun _ => true
  | _, .badTag =>
    let bad := s.core.badTags now r a.step
    let u := s.failAt r.id .scaleMisaligned fun x => bad.contains x.id
    { u with core := u.core.stepDone now r.id }
  | _, _ => { s with core := s.core.stepDone now r.id }

/-- What can end a step of a run: a decode step as R38 has it or at a stop reason of the bitstream, a clip step with the bits of its
units, any other step as a whole; an error in what it read; a tag that does not agree (R137), where one does not. -/
def State.endsSo (s : State) (r : Run) (a : Active) (t : Nat) (how : StepHow) : Bool :=
  let ns := ((t : Int) - a.start).toNat
  match r.post, how with
  | .decode k n, .ctus u => decodeEnds ((((s.core.ctx k).pics.find? (·.num == n)).map (·.left)).getD 0) u ns
  | .decode .., .stop why _ => decide (1 ≤ why) && decide (why ≤ 6) && decide (ns < 100000)
  | .clip b _, .clip _ units => (s.core.clips.find? (·.binding == b)).any fun k => units.length == k.stepUnits
  | _, .dataLost .. => true
  | .decode .., _ | .clip .., _ => false
  | _, .parity .. => match a.eng with
    | .arrays .. => true
    | _ => false
  | _, .done => (s.core.badTags s.tick.count r a.step).isEmpty
  | _, .badTag => !(s.core.badTags s.tick.count r a.step).isEmpty
  | _, _ => false

/-- STEP_END (R38, R40): a step of a run on an engine ends `t` ns after the start of the tick, within the step bound, with the
grains that its meter records and the words that were corrected meanwhile. An uncorrectable word loses the command that read it and
is logged (R213, R439, R441); a block that failed parity loses the commands and queues its array for self-test (R193, R445). -/
def execStepEnd (run : Nat × Engine) (t grains : Nat) (how : StepHow) (fix : Fixed) (s : State) : Host.Outcome State Fault Refusal :=
  .next <|
    match s.core.runs.find? (·.id == run.1) with
    | none => s
    | some r =>
      match r.active.find? (·.eng == run.2) with
      | none => s
      | some a =>
        if (t : Int) < a.start || a.start + 100000 < (t : Int) || !mlive s.core.mstate || !(r.dead || s.endsSo r a t how) then s
        else
          let m := s.meter r a t grains
          let m := { m with mend := m.mend.fixed fix }
          if r.dead then m else m.stepEnds ((m.core.run? r.id).getD r) a t how

/-- STEP_CUT (R37): a step at the bound is cut and its command abandoned; a decode step never reaches the bound (R38); a step of a
clip or of a migration belongs to no command and is planned again. What its meter recorded is a free value. -/
def execStepCut (run : Nat × Engine) (s : State) : Host.Outcome State Fault Refusal :=
  .next <|
    match s.core.runs.find? (·.id == run.1) with
    | none => s
    | some r =>
      match r.active.find? (·.eng == run.2), r.post with
      | none, _ => s
      | _, .decode .. => s
      | some a, post =>
        if !mlive s.core.mstate then s
        else
          let d := s.core.draw
          let m := { s with
            core := d.2, tick := { s.tick with stepCut := satAdd 4095 s.tick.stepCut 1, stepCutT := s.tick.stepCutT + 1 } }.meter
              r a (a.start + 100000).toNat (Config.freeNat d.1 0)
          if r.dead then m
          else
            match post with
            | .clip .. | .carry (.move _) _ => { m with core := m.core.updRun r.id fun x => { x with steps := a.step :: x.steps } }
            | _ => m.failAt r.id .abandoned fun _ => true

end Sys2Proof.Machine
end

