-- ==== Sys2Proof/Machine/Records.lean ====
section
/-! DEFINITION. The records of a boundary: PARTITION_HEALTH (R292, R294), TICK_SUMMARY (R368), STREAM_STATUS (R313). -/

namespace Sys2Proof.Machine

/-- A count in a field of n bytes, saturating. -/
def satBytes (n v : Nat) : List Byte := leBytes n (min (2 ^ (8 * n) - 1) v)

/-- Slow-down of a class in 1/256 (R292). -/
def Health.slow (h : Health) (cls : Nat) : Nat :=
  if Tab.get 0 h.tSolo cls == 0 then 0 else min 0xFFFF (Tab.get 0 h.tMeas cls * 256 / Tab.get 0 h.tSolo cls)

/-- STATE of Table 10-5. -/
def partNo : PState → Nat
  | .empty => 0 | .loading => 1 | .resident => 2 | .active => 3 | .draining => 4

/-- PARTITION_HEALTH payload, Table 10-5. `x i` is what the members of a spanned partition add to field i: 0 with none,
else a free value, since no rule brings a lead its members' counts; `granary` is the granary in use. -/
def healthBytes (s : State) (k : Nat) (p : Part) (moves granary : Nat) (x : Nat → Nat) : List Byte :=
  let h := p.health
  let fl := s.led.floorShort.toNat + 2 * s.tick.runBare.toNat + 4 * (decide (0 < s.led.levelMax)).toNat +
    8 * (!p.grants.members.isEmpty).toNat
  leBytes 1 (partNo p.state) ++ leBytes 1 fl ++ leBytes 1 h.limit ++ zeros 1 ++
    leBytes 2 (p.tillers.foldl (fun n t => n + 2 ^ t) 0) ++ leBytes 2 h.factor ++ satBytes 4 h.resGrains ++
    satBytes 4 (h.lcPlanned + x 0) ++ satBytes 4 (h.lcMeasured + x 1) ++ satBytes 4 (h.glPlanned + x 2) ++
    satBytes 4 (h.glMeasured + x 3) ++ satBytes 4 s.led.floorEst ++ satBytes 2 (h.throttled + x 4) ++ zeros 2 ++
    satBytes 2 (h.admitted + x 5) ++ satBytes 2 (h.carried + x 6) ++ satBytes 2 (h.refused + x 7) ++
    satBytes 2 (h.late + x 8) ++ satBytes 2 (h.abandoned + x 9) ++ satBytes 2 (h.moves + moves + x 10) ++
    satBytes 4 (h.glSteps + x 11) ++
    (List.range 8).flatMap (fun c => satBytes 2 (if c == 7 then 0 else h.slow c + x (12 + c))) ++
    (List.range 14).flatMap (fun e => satBytes 2 (ceilDiv (Tab.get 0 p.debts e) 1000)) ++
    satBytes 2 granary ++ satBytes 2 p.grants.granary ++ satBytes 4 (s.core.dramUse k 0) ++ satBytes 4 p.grants.dram ++
    satBytes 4 (h.flat + x 20) ++ satBytes 4 (h.nonfinite + x 21) ++ satBytes 4 (h.scaleClamp + x 22) ++
    satBytes 4 (h.sat + x 23) ++ satBytes 4 (h.zeroVar + x 24)

/-- No queue is named, or one without a result ring (R294, R362). -/
def Core.ringless (c : Core) (q : Nat) : Bool := q == 0xFFFF || (c.q q).rrLog == 0xF

/-- The record of one partition, and its copy for queue 0; none where its health queue has no result ring (R294). -/
def State.healthRec (s : State) (moves : List Nat) (k : Nat) (p : Part) : State :=
  if s.core.ringless p.grants.healthQ then s else
  let d := s.core.draw
  let add (i : Nat) : Nat := if p.grants.members.isEmpty then 0 else Config.freeNat d.1 (2 + i)
  let r : Rec := { rtype := 0x09, part := k, tick := s.tick.count,
                   payload := healthBytes s k p (moves.count k) (s.core.granaryUnits k) add }
  let c := d.2.putRec p.grants.healthQ true r
  { s with core := if p.grants.pfCopy then c.putRec 0 false { r with flags := 2 } else c }

/-- One PARTITION_HEALTH record for every partition that is not EMPTY after the boundary: `gone` names those that it empties. -/
def State.healthRecs (s : State) (moves : List Nat) (gone : Nat → Bool) : State :=
  (s.core.parts.filter fun e => e.2.state != .empty && !gone e.1).foldl (fun s e => s.healthRec moves e.1 e.2) s

/-- Overrun in µs (Table 15-6): how a part of a µs is rounded no rule says, so a free choice. -/
def overrunUs (draw ns : Nat) : Nat := ns / 1000 + if ns % 1000 == 0 then 0 else Config.freeNat draw ns % 2

/-- Planned step grains of the sheaf plus its floor estimate (Table 3-5). -/
def Ledger.plannedNow (l : Ledger) : Nat := min 0xFFFFFFFF (toGrains l.sheafPlan + l.floorEst)

/-- Measured floor of the tick (R56); where the meters read more than the tick's input energy the manual gives no value:
a free one. -/
def Ledger.floorNow (l : Ledger) (draw energy : Nat) : Nat :=
  if l.metered ≤ energy then energy - l.metered else Config.freeNat draw 0

/-- TICK_SUMMARY payload, Table 15-6. -/
def State.summary (s : State) (draw floor energy : Nat) : List Byte :=
  let fl := s.led.floorShort.toNat + 2 * s.tick.runBare.toNat + 4 * (decide (0 < s.led.levelMax)).toNat +
    8 * s.tick.missedT.toNat + 16 * s.tick.length.toNat
  let ov (i : Nat) : List Byte := satBytes 2 (overrunUs draw (Tab.get 0 s.tick.overruns i))
  leBytes 1 fl ++ leBytes 1 s.led.levelMax ++ leBytes 1 s.tick.source ++ zeros 1 ++ satBytes 4 s.led.budget ++
    satBytes 4 s.led.floorEst ++ satBytes 4 floor ++ satBytes 4 s.led.plannedNow ++ satBytes 4 energy ++
    satBytes 4 s.led.vbNow ++ satBytes 2 s.tick.stepCutT ++
    leBytes 2 ((s.core.parts.filter fun e => e.2.state != .empty).foldl (fun n e => n + 2 ^ e.1) 0) ++
    satBytes 4 s.core.dropped ++ satBytes 2 s.core.dropQs.length ++
    leBytes 2 (s.core.dropQs.foldl min 0xFFFF) ++ satBytes 4 s.core.chaffT ++ zeros 20 ++
    (List.range 16).flatMap ov ++ (List.range 14).flatMap (fun i => ov (16 + i)) ++ zeros 4

/-- The STREAM_STATUS record of a context with an event in the tick, or on the periodic tick (R313). -/
def State.streamRec (s : State) (next : Nat) (k : Nat) (x : Ctx) : State :=
  if x.event || (x.periodic && x.state != .closed && next % 64 == 0) then
    let r : Rec :=
      { rtype := 0x0A, stream := k, part := x.part, tick := s.tick.count
        status := if x.reason != 0 then .streamDamaged else .ok, payload := x.statusBytes }
    { s with core := s.core.putRec x.queue true r }
  else s

def State.streamRecs (s : State) (next : Nat) : State :=
  let s := s.core.ctxs.foldl (fun s e => s.streamRec next e.1 e.2) s
  { s with core := { s.core with ctxs := Tab.mapAll {} s.core.ctxs fun _ x => { x with event := false, moved := false, carriedT := false } } }

/-- The records of the tick that ends (R368): the counts of the summary are those before any of them is written. `moves` are the
partitions for each move decided at the boundary. The second result says whether the summary was written. -/
def State.boundaryRecs (s : State) (next floor : Nat) (m : Boundary) (moves : List Nat) (gone : Nat → Bool) : State × Bool :=
  let d := s.core.draw
  let r : Rec := { rtype := 0x0D, tick := s.tick.count, payload := s.summary d.1 floor m.energy }
  let s : State := { s with core := { d.2 with dropped := 0, dropQs := [], chaffT := 0 } }
  let s : State := s.healthRecs moves gone
  let before : Nat := (s.core.q 0).rrUsed
  let c : Core := s.core.putRec 0 true r
  let after : Nat := (c.q 0).rrUsed
  let wrote : Bool := decide (before < after)
  (({ s with core := c } : State).streamRecs next, wrote)

end Sys2Proof.Machine
end

