-- ==== Sys2Proof/Machine/Tick.lean ====
section
/-! DEFINITION. The tick boundary and TICK_IN (R24 to R30, R40, R42, R49, R51, R63, R70, R207, R209, R247, R249, R262,
R266, R280, R296, R309, R329, R358, R408, R421, R427 to R434, R437). -/

namespace Sys2Proof.Machine

/-! ### TICK_IN -/

/-- The window of R27 is 5 µs on either side. -/
def edgeNs : Nat := 5000

/-- Two instants lie one period apart, within the window. -/
def Tick.spaced (t : Tick) (a b : Int) : Bool := (b - a - t.period).natAbs ≤ edgeNs

/-- Boundaries that wait for an edge: followed edges, or a re-lock that is due (R27, R28). -/
def Tick.waits (t : Tick) : Bool := t.source == 1 && (t.locked || decide (8 ≤ t.goodEdges))

/-- TICK_IN_EDGE at `t` ns from the last boundary (R27, R28). While boundaries are generated, an edge at the period's
spacing from the one before it is counted. -/
def execTickInEdge (t : Nat) (s : State) : Host.Outcome State Fault Refusal :=
  .next <|
    if !mlive s.core.mstate || s.tick.source != 1 || s.tick.due then s
    else if s.tick.locked then
      if t + edgeNs < s.tick.period then { s with tick := { s.tick with inMissed := satAdd 255 s.tick.inMissed 1 } }
      else if t ≤ s.tick.period + edgeNs then { s with tick := { s.tick with due := true, dueAt := t } }
      else s
    else
      let good := s.tick.lastEdge.any fun l => s.tick.spaced l t
      { s with tick := { s.tick with
        edgeNow := true, lastEdge := some (t : Int), goodEdges := if good then s.tick.goodEdges + 1 else 0 } }

/-- TICK_IN_WINDOW_EXPIRY (R27): the boundary is made at the window's end, and ticks go on at the programmed period. -/
def execTickInWindowExpiry (s : State) : Host.Outcome State Fault Refusal :=
  .next <|
    if !mlive s.core.mstate || !s.tick.waits || s.tick.due then s
    else { s with tick := { s.tick with
      due := true, dueAt := s.tick.period + edgeNs, missedT := true, locked := false, goodEdges := 0
      inMissed := satAdd 255 s.tick.inMissed 1 } }

/-- TICK_IN_RELOCK (R28): after 8 good edges the next boundary lies at the first such edge after the expected one. -/
def execTickInRelock (t : Nat) (s : State) : Host.Outcome State Fault Refusal :=
  .next <|
    if !mlive s.core.mstate || s.tick.source != 1 || s.tick.locked || s.tick.due || s.tick.goodEdges < 8 ||
        t ≤ s.tick.period || 2 * s.tick.period ≤ t || !(s.tick.lastEdge.any fun l => s.tick.spaced l t) then s
    else { s with tick := { s.tick with due := true, dueAt := t, locked := true, length := true, lastEdge := none, goodEdges := 0 } }

/-! ### The tick that ends -/

/-- Length of the tick that ends: the instant of a TICK_IN boundary, or the period. -/
def Tick.lengthNs (t : Tick) : Nat := if t.due then t.dueAt else t.period

/-- Instances past their allowance are abandoned; a picture that no instance is left for is decoded for reference only
(R51). -/
def Core.expire (c : Core) (now : Nat) : Core :=
  (c.insts.filter fun i => i.expired now).foldl (fun c i =>
    let c := c.abandon now 1 i
    match i.pic with
    | some (k, n) =>
      if (c.picInsts k n).isEmpty then
        c.updCtx k fun x => x.updPic n fun p => if p.decoded then p else { p with refOnly := true }
      else c
    | none => c) c

/-- Commands of some instances that stop with the tick keep the planned cost of steps that the sheaf has admitted for them (R492). -/
def Core.owe (c : Core) (slots : List PSlot) (which : Inst → Bool) : Core :=
  let ids := (c.insts.filter which).map (·.id)
  let more (r : Run) : Nat := (slots.filter fun q => q.work == r.work && r.steps.any (·.id == q.step.id)).foldl (fun n q => n + q.cost) 0
  { c with runs := c.runs.map fun r =>
      if r.begun && !r.dead && ids.any (r.ofInst ·) then { r with planned := r.planned + more r } else r }

/-- Runs that no command is left for: of a weight-sharing run no member, of a seam not its command (R168, R255); and steps that a lead
has placed here for a tick that has ended (R270). -/
def Core.pruneSides (c : Core) (now : Nat) : Core :=
  let live (w : Work) : Bool := match w with
    | .inst id n => (c.inst? id).any (fun i => i.todo.any (·.seq == n)) || c.runs.any fun r => !r.dead && r.work == w
    | _ => false
  { c with runs := c.runs.filterMap fun r => match r.post with
      | .share ms => if ms.any fun m => live m.1 then some r else r.over
      | .carry (.seam id n) _ => if live (.inst id n) then some r else r.over
      | .carry (.far _ t _) _ => if now < t then some r else r.over
      | _ => some r }

/-- A picture that has started and is not decoded when the tick ends is carried (R49). -/
def Ctx.carry (x : Ctx) (running : Nat → Bool) : Ctx :=
  if x.pics.any fun p => p.started && !p.decoded && !running p.num then
    { x with
      carriedT := true, event := true
      pics := x.pics.map fun p => if p.started && !p.decoded && !running p.num then { p with carried := true } else p }
  else x

def Core.carryAll (c : Core) : Core :=
  { c with ctxs := Tab.mapAll {} c.ctxs fun k x => x.carry fun n => c.runs.any fun r => !r.dead && r.post == .decode k n && !r.active.isEmpty }

/-- The ledger when a tick ends (R55 to R57, R63, R68): calibration, but not at the boundary at which a LEDGERTAB image
switches (Table 19-5); floors of the last four ticks; the throttle count. -/
def State.closeLedger (s : State) (next floor : Nat) (m : Boundary) : State :=
  let l := if s.fw.tabSwitch next then s.led else s.led.calibrated s.core.free
  { s with
    core := { s.core with free := s.core.free + 128 }
    led := { l with
      floors := (floor :: l.floors).take 4, vbLast := some m.vbMv, vb := m.lastMv
      planned := l.plannedNow, measured := m.energy
      throttles := if 0 < l.levelMax then satAdd 0xFFFF l.throttles 1 else l.throttles } }

/-! ### Changes of schedule -/

/-- TICK_SET in effect (R30): with TICK_IN newly selected, edges are followed from the next one; a change that keeps TICK_IN
leaves a lost lock lost (R28). A follower keeps the link as its source (R24, R432). -/
def Tick.changeAt (t : Tick) (next : Nat) : Tick :=
  match t.change with
  | none => t
  | some x =>
    if next < x.effTick then t
    else
      let u := { t with
        source := if t.follower then t.source else x.source, period := x.period, cutoff := x.cutoff, hem := x.hem, change := none }
      if t.follower || t.source == 1 && x.source == 1 then u else { u with locked := true, goodEdges := 0, lastEdge := none }

/-- LEDGER_SET in effect (R70). -/
def Ledger.changeAt (l : Ledger) (next : Nat) : Ledger :=
  match l.pending with
  | some (w, eff) => if eff ≤ next then { l with contract := w, pending := none } else l
  | none => l

/-! ### The chain -/

/-- CHAIN_FORM in effect (R427, R428): every route replaced; a dissolved follower goes on from its own generator. -/
def State.formAt (s : State) (next : Nat) : State :=
  match s.link.pending with
  | none => s
  | some (t, eff, cmd) =>
    if next < eff then s
    else
      let formed := t.id != 0
      let epochs := if t.id == s.link.table.id then s.link.epochs
        else [0x20, 0x21].foldl (fun e u => Tab.upd 0 e u fun x => (x + 1) % 65536) s.link.epochs
      let s := { s with
        core := s.core.doneLate next 0x800A cmd .ok (next % 2 ^ 32)
        link := { s.link with table := t, formed := formed, pending := none, epochs := epochs, due := [], down := [] } }
      if formed then s.chooseMaster none
      else { s with
        link := { s.link with master := 0, isMaster := false, masterDue := false }
        tick := { s.tick with
          follower := false, source := if s.tick.follower then 0 else s.tick.source, holdover := 0 } }

/-- A strapped module that became known since, with a lower ID than the master or where there was none, is the tick master
(R430): taken up at the boundary. A follower turns to it once it holds a TICK flit from it, and adopts its tick (R432). -/
def State.remaster (s : State) : State :=
  let m := lowest (s.link.candidates none)
  if !s.link.formed || m == 0 || (s.link.master != 0 && decide (s.link.master ≤ m)) ||
      (s.tick.follower && !(s.tick.heard.any fun k => k.master == m)) then s
  else
    let t := s.chooseMaster none
    { t with tick := { t.tick with follower := false } }

/-- A module that holds a TICK flit of the master becomes a follower (R432): count, period, cut-off, hem and pending
change are the master's. The first aligned boundary lengthens the tick by less than a period. -/
def State.adopt (s : State) (next : Nat) : State × Nat :=
  match s.tick.heard with
  | none => (s, next)
  | some k =>
    if s.tick.follower || !s.link.formed || s.link.master == 0 || s.link.isMaster || k.master != s.link.master then (s, next)
    else
      ({ s with tick := { s.tick with
        follower := true, source := 2, period := k.period, cutoff := k.cutoff, hem := k.hem, change := k.change
        length := true, holdover := 0 } }, k.tick + 1)

/-- A follower without a TICK flit for a boundary (R433). -/
def State.holdOver (s : State) : State :=
  if !s.tick.follower then s
  else if s.tick.heardNow then { s with tick := { s.tick with holdover := 0 } }
  else { s with
    tick := { s.tick with holdover := s.tick.holdover + 1 }
    link := { s.link with lost := satAdd 0xFFFF s.link.lost 1 } }

/-- The tick that a TICK flit named goes on counting while none arrives. -/
def Tick.ageHeard (t : Tick) : Tick := { t with heard := t.heard.map fun k => { k with tick := k.tick + 1 }, heardNow := false }

/-- Ports that are up age by a tick; a link that failed and has stayed up for 64 ticks is announced (R437). -/
def State.agePorts (s : State) : State :=
  (List.range 6).foldl (fun s p =>
    let x := s.link.port p
    if x.state != 2 then s
    else
      let e := s.link.table.ends p
      let s := s.updPort p fun y => { y with upTicks := y.upTicks + 1 }
      if x.upTicks + 1 == 64 && s.link.formed && s.link.down.contains (min e.1 e.2, max e.1 e.2) then
        (s.updLink fun l => { l with notices := l.notices ++ [(e.1, e.2, false)] }).broadcast
      else s) s

/-- The owner of a tiller: a partition's number plus 1, 0x20 once it has retired, 0 for nobody. -/
def Core.tillerOwner (c : Core) (t : Nat) : Nat :=
  if c.retired.contains t then 0x20
  else ((c.parts.find? fun e => e.2.tillers.contains t).map (·.1 + 1)).getD 0

/-- Stages on a tiller: partition, program and stage. -/
def Core.stagesAt (c : Core) (t : Nat) : List (Nat × Nat × Nat) :=
  c.parts.flatMap fun e => (e.2.stagesOn t).map fun y => (e.1, y)

/-- A tiller's epoch rises where placement gives it another partition or another stage (R421); a retirement counts its own. `old`
says which stages it had. -/
def State.tillerEpochs (s : State) (old : Nat → List (Nat × Nat × Nat)) : State :=
  let l := (List.range 16).foldl (fun (l : Link) t =>
    let o := s.core.tillerOwner t
    let other := o != Tab.get 0 l.tOwner t && o != 0x20
    let stage := (s.core.stagesAt t).any fun y => !(old t).contains y
    { l with
      tOwner := Tab.set 0 l.tOwner t o
      epochs := if other || stage then Tab.upd 0 l.epochs t fun e => (e + 1) % 65536 else l.epochs }) s.link
  { s with link := l }

/-- Windows revoked at a boundary (R424). -/
def Link.revoke (l : Link) (next : Nat) (ws : List Nat) : Link :=
  ws.foldl (fun l w => { l with windows := Tab.upd none l.windows w fun x => x.map fun y =>
    if y.until_.isNone then { y with until_ := some next } else y }) l

/-! ### Streams, buffers and partitions at a boundary -/

/-- The pending region set of a stream written in the tick comes into force (R329). -/
def Ctx.regionsNow (x : Ctx) : Ctx :=
  match x.pending with
  | some r => { x with force := r, pending := none, pendKey := (0, 0) }
  | none => x

/-- The compressed ratio after a tick with reference blocks (R309): the tick's own ratio is a free value of at most 1. -/
def Ctx.compressNow (x : Ctx) (now : Nat) : Ctx :=
  if !x.wroteRef then x
  else
    let c : Rat := (min 65536 (Config.compressed x.key now) : Nat) / 65536
    { x with
      compress := if x.comprDone then x.compress + (c - x.compress) / 64 else c
      comprDone := true, wroteRef := false }

/-- Ticks in a row with a decode ratio above 1.25 (R262). -/
def Ctx.slowNow (x : Ctx) : Ctx := { x with slowTicks := if 5 / 4 < x.ratio then x.slowTicks + 1 else 0 }

def Core.streamsNow (c : Core) (now : Nat) : Core :=
  { c with ctxs := Tab.mapAll {} c.ctxs fun _ x => ((x.regionsNow.compressNow now).slowNow) }

/-- Planned decode time of a sheaf on a decoder, and that of a stream. -/
def Sheaf.decTime (h : Sheaf) (d : Nat) : Nat := h.slots.foldl (fun n q => if q.step.eng == .dec d then n + q.step.dur else n) 0
def Sheaf.streamTime (h : Sheaf) (k : Nat) : Nat := h.slots.foldl (fun n q => match q.work with
  | .pic j _ => if j == k then n + q.step.dur else n
  | _ => n) 0

/-- The decoder to which a stream goes: of those that stay at or below 85 % with it, the one with the least load, the lowest (DESIGN
CHOICE, log 49). -/
def decoderFor (period time home : Nat) (load : Nat → Nat) : Option Nat :=
  ((List.range 8).filter fun d => d != home && decide (100 * (load d + time) ≤ 85 * period)).foldl (fun m d => match m with
    | none => some d
    | some e => if load d < load e then some d else some e) none

/-- Streams that go to other decoders at a boundary (R262): those with a ratio above 1.25 for 16 ticks, or on a decoder whose planned
load exceeds 95 % of the tick, through which its windows run (log 49); live streams first, then the highest ratio; at most 8, none that
has moved in the last 64 ticks. -/
def Core.streamMoves (c : Core) (next period : Nat) (h : Sheaf) : List (Nat × Nat) :=
  let may (x : Ctx) : Bool := x.state != .closed && (x.movedAt == 0 || decide (x.movedAt + 64 ≤ next))
  let l := sortBy (fun (a b : Nat × Ctx) => if a.2.live == b.2.live then decide (b.2.ratio ≤ a.2.ratio) else a.2.live)
    (c.ctxs.filter fun e => may e.2)
  (l.foldl (fun (s : List (Nat × Nat) × (Nat → Nat)) e =>
    let own := h.streamTime e.1
    if s.1.length < 8 && (16 ≤ e.2.slowNow.slowTicks || 95 * period < 100 * s.2 e.2.home) then
      match decoderFor period own e.2.home s.2 with
      | some d => (s.1 ++ [(e.1, d)], fun k => if k == d then s.2 k + own else if k == e.2.home then s.2 k - own else s.2 k)
      | none => s
    else s) ([], h.decTime)).1

def Core.moveStreams (c : Core) (next : Nat) (l : List (Nat × Nat)) : Core :=
  l.foldl (fun c m => c.updCtx m.1 fun x => { x with home := m.2, moved := true, event := true, movedAt := next }) c

/-- A copy without the pages that leave it: rows of a page that is not allocated read as zeros (R129, R247, R258). -/
def Copy.freed (x : Copy) (b : Buffer) : Copy :=
  let n := 16 * 2 ^ b.page * rowBytes b.desc.dtype (dim b.desc.maxDims 0)
  if x.freeing.isEmpty then x
  else { x with
    pages := x.pages.filter fun p => !x.freeing.contains p
    pageAt := x.pageAt.filter fun p => !x.freeing.contains p.1
    data := Memory.clear x.data fun a => x.freeing.contains (a / n)
    lost := x.lost.filter fun l => !(x.freeing.contains (8 * l / n) && x.freeing.contains ((8 * l + 7) / n))
    freeing := [] }

/-- Buffers and pages released at a boundary (R247); MODEL_UNLOAD completes (R249). -/
def Core.releaseNow (c : Core) (next : Nat) : Core :=
  let un := (c.parts.filter fun e => e.2.unloading.isSome).map (·.1)
  let gone (b : Buffer) : Bool := b.releasing || (b.model && un.contains b.part)
  let dead := c.buffers.filter gone
  let c : Core := { c with
    buffers := c.buffers.filter fun b => !gone b
    copies := (c.copies.filter fun x => !dead.any fun b => b.part == x.part && b.num == x.buf).map fun x =>
      match c.buf? x.part x.buf with
      | some b => x.freed b
      | none => x }
  let c := c.dropBlocks fun p n => dead.any fun b => b.part == p && b.num == n
  un.foldl (fun c k =>
    match (c.part k).unloading with
    | none => c
    | some cmd =>
      let c := c.updPart k fun p => { p with unloading := none, state := if p.state == .resident then .loading else p.state }
      match cmd.src with
      | .ring q => c.completeLate q 0x7004 (bitAt 1 cmd.flags.toNat) { tag := cmd.tag.toNat, status := .ok, tick := next }
      | .inst .. => c) c

/-- Swaps of views that are due (R358). -/
def Core.swapsNow (c : Core) (next : Nat) : Core :=
  c.parts.foldl (fun c e => e.2.adapters.foldl (fun c a => c.swapNow next e.1 a.1) c) c

/-- No partition is left that runs: READY (R115); DRAINING contexts close, partitions empty, loaded ones that run nothing
are RESIDENT again (R116, R118, R296). -/
def Core.settleParts (c : Core) (next : Nat) : Core :=
  let c := c.ctxs.foldl (fun c e => c.closeCtx next e.1) c
  let c := (List.range 16).foldl (fun c k => c.emptyPart next k) c
  let c := { c with parts := Tab.mapAll {} c.parts fun k (p : Part) =>
    if p.state == PState.active && !c.bindings.any (·.part == k) && !c.insts.any (·.part == k) then { p with state := .resident } else p }
  c.settleM

/-! ### The sheaf in force -/

/-- Steps that the builder adds anew with each sheaf join the works that they are for: those of an earlier sheaf go. -/
def Core.joinMade (c : Core) (h : Sheaf) : Core :=
  let extra (w : Work) (l : List PStep) : List PStep :=
    let l := l.filter (!·.made)
    let new := (h.slots.filter fun q => q.work == w && decide (gatherId ≤ q.step.id) && !l.any (·.id == q.step.id)).map (·.step)
    if new.isEmpty then l else sortBy (fun a b => decide (a.stage ≤ b.stage)) (l ++ new)
  { c with
    runs := c.runs.map fun r => if r.dead then r else { r with steps := extra r.work r.steps }
    insts := c.insts.map fun i => { i with todo := i.todo.map fun t => { t with plan := extra (.inst i.id t.seq) t.plan } } }

/-- The sealed sheaf takes effect (R34, R40, R41, R47, R253, R358): what it plans is in force, with its places and the debts that it
pays; the home tick of a latency-critical instance is the first whose sheaf admits a step of it, and its views are resolved there. -/
def Core.sheafNow (c : Core) (next : Nat) (h : Sheaf) : Core :=
  let view (i : Inst) : Inst :=
    let mark (t : Todo) : Todo := { t with inSheaf := h.works.any (·.1 == .inst i.id t.seq) }
    let i := { i with todo := i.todo.map mark }
    let here := h.insts.any (·.1 == i.id)
    { i with
      home := if here && i.lc then i.home.orElse fun _ => some next else i.home
      views := if here && i.views.isEmpty then c.viewMap i.part else i.views }
  let c := ({ c with insts := c.insts.map view }).joinMade h
  (h.paid.foldl (fun c y => c.updPart y.1 fun p => { p with debts := Tab.upd 0 p.debts y.2.1 fun n => n - y.2.2 }) c).putPlaces h.places

/-- What runs, counted from the new boundary. -/
def Active.shift (a : Active) (len : Nat) : Active :=
  { a with start := a.start - (len : Int), due := a.due.map fun d => d - (len : Int) }
def Run.shift (r : Run) (len : Nat) : Run :=
  { r with
    active := r.active.map fun a => a.shift len
    ends := r.ends.map fun e => (e.1, e.2 - (len : Int))
    stageEnd := r.stageEnd - (len : Int) }
def Core.shiftRuns (c : Core) (len : Nat) : Core :=
  { c with
    runs := c.runs.map fun r => r.shift len
    rows := (c.rows.map fun x => (x.1, x.2.1, x.2.2 - (len : Int))).filter fun x => decide (-32 < x.2.2) }

/-- What a partition reports of the new tick: the sheaf's figures, the counts since PART_CREATE, the rest from 0. -/
def Health.next (h n : Health) : Health :=
  { n with
    flat := h.flat, nonfinite := h.nonfinite, scaleClamp := h.scaleClamp, sat := h.sat, zeroVar := h.zeroVar
    skipped := h.skipped }

/-- The figures of the new tick's sheaf; what ran starts anew. -/
def Ledger.nextCore (l : Ledger) (period : Nat) : Ledger :=
  { l with
    budget := budgetOf l.contract l.nextVb period, floorEst := l.nextFloor, vbNow := l.nextVb, sheafPlan := l.nextPlan, floorShort := l.nextShort
    coefNow := l.nextCoef, imgNow := l.nextImg
    ran := [], metered := 0, levelMax := l.level }

/-- The ledger of the new tick. Its budget follows the contract and the period in force for it (R54, R432), with the Vb that
its build took. Entries of steps that run on while the level is above 0 are marked again (R68). -/
def Ledger.next (l : Ledger) (period : Nat) (running : List Nat) : Ledger :=
  let n := l.nextCore period
  if n.level == 0 then n else n.mark running

/-- The tick counters of the new tick: TICK_OUT has its edge (R434), a bare sheaf is counted (R35). -/
def Tick.next (t : Tick) (count len : Nat) : Tick :=
  { t with
    count := count, outEdges := t.outEdges + 1
    bare := if t.sealedBare then satAdd 255 t.bare 1 else t.bare
    runBare := t.sealedBare, sealed := false, sealedBare := false, cutPassed := false
    inMissed := if t.source == 1 && !t.due && !t.edgeNow then satAdd 255 t.inMissed 1 else t.inMissed
    lastEdge := t.lastEdge.map fun x => x - (len : Int)
    edgeNow := false, due := false, dueAt := 0, length := false
    missedT := false
    stepCutT := 0, overruns := [], sheaf := t.nextSheaf, nextSheaf := {}, plan := [], shifts := [] }

/-- The refresh grid against the tick (R408): windows every 3,904 ns; under an outside source the offset is a free
value. -/
def State.gridNow (s : State) (len : Nat) : State :=
  let d := s.core.draw
  let ph := if s.tick.source == 0 && !s.tick.length then ((s.dram.phase : Int) - (len : Int)) % 3904
    else ((Config.freeNat d.1 0 % 3904 : Nat) : Int)
  { s with core := d.2, dram := { s.dram with phase := ph.toNat } }

/-! ### The boundary -/

/-- A tiller that has no copies, steps that run, or work in the sheaf that comes into force: it can leave its partition (R209, R280). -/
def State.vacant (s : State) (t : Nat) : Bool :=
  let h := s.tick.nextSheaf
  let inIt (q : Place) : Bool := match q with
    | .scratch u _ => u == t
    | _ => false
  s.core.emptied t && (s.core.runs.all fun r => r.active.all fun a => tillerOf a.eng != some t) &&
    (h.slots.all fun q => tillerOf q.step.eng != some t) && (h.places.all fun y => !inIt y.2.2.2) && h.temps.all fun y => !inIt y.place

/-- Tillers that retire, or leave their partitions at a boundary (R209, R280). -/
def State.leavers (s : State) (next : Nat) : List Nat :=
  s.mend.retiring ++ s.core.parts.flatMap fun e => (e.2.pend.map fun x => if x.effTick ≤ next then x.leaving else []).getD []

/-- Copies that the sheaf in force or the next one reads or writes. -/
def State.copyUsed (s : State) (part buf : Nat) : Bool :=
  (s.core.runs.any fun r => r.part == part && (r.ins.contains buf || r.outs.any (·.buf == buf))) ||
    s.core.insts.any fun i => i.part == part && (s.core.prog? i.part i.prog).any fun p =>
      i.todo.any fun t => let u := s.core.useAt i p t.idx; u.ins.contains buf || u.outs.contains buf

/-- What is decided to move at a boundary (R262, R266, R267): stages, copies, streams with their decoders; a partition for each move.
Copies that only go to rest are no migrations. -/
def State.decideMoves (s : State) (next : Nat) (m : Boundary) : State × List Nat × List (Nat × Nat) :=
  let h := s.tick.nextSheaf
  let c := s.core.stagesNow h.stages
  let c := { c with parts := Tab.mapAll {} c.parts fun _ p => p.causes s.tick.sheaf.hot }
  let load (t : Nat) : Nat := h.slots.foldl (fun n q => if tillerOf q.step.eng == some t then n + q.cost else n) 0
  let y := c.migrations next load m.moves
  let c := y.1.moveOut next (s.leavers next)
  let new := (c.moving.drop s.core.moving.length).map (·.part)
  let streams := c.streamMoves next s.tick.period h
  ({ s with core := c.rest next s.copyUsed }, y.2 ++ new ++ streams.map fun x => (c.ctx x.1).part, streams)

/-- What ends with the tick: abandonments, carries, moves that met a lost word (R268), what is decided to move, records, calibration,
trials. -/
def State.tickEnds (s : State) (next : Nat) (m : Boundary) : State × List (Nat × Nat) :=
  let d := s.core.draw
  let s := { s with led := s.led.mended m.mended, mend := (m.seqFail.filter fun t => !s.core.retired.contains t).foldl Mend.retire s.mend }
  let floor := s.led.floorNow d.1 m.energy
  let slots := s.tick.sheaf.slots ++ s.tick.nextSheaf.slots
  let s := { s with core := ((d.2.owe slots fun i => i.expired s.tick.count).expire s.tick.count).pruneSides s.tick.count |>.carryAll }
  let s := { s with core := { s.core with moving := s.core.moving.filter fun k => !m.badMoves.any fun x =>
    x.2.part == k.part && x.2.buf == k.buf && ErrAt.key x.2 == k.key } }
  let s := m.badMoves.foldl (fun s x => { s with mend := s.mend.lostWords x.1 1 }.logError (tierNo x.1) 0xFF (some x.2)) s
  let y := s.decideMoves next m
  let after := y.1.core.settleParts next
  let x := y.1.boundaryRecs next floor m y.2.1 fun k => (after.part k).state == .empty
  ((x.1.closeLedger next floor m).countTrials x.2, y.2.2)

/-- What changes at the boundary: schedules, the chain, activations, grants, buffers, views, streams, mending. -/
def State.boundaryActs (s : State) (next : Nat) (m : Boundary) (streams : List (Nat × Nat))
    (old : Nat → List (Nat × Nat × Nat)) : State :=
  let s := (s.switches next).formAt next
  let s := { s with
    tick := { (s.tick.changeAt next) with noPlan := m.planLost }
    led := s.led.changeAt next
    link := (s.link.applyNotices).revoke next m.revoke
    mend := (s.mend.lostWords .internal m.planLost.length).learn }
  let s := if s.link.masterDue then s.chooseMaster (some s.link.master) else s
  let out := (s.leavers next).filter s.vacant
  let c := (List.range 16).foldl (fun c k => c.limitsAt next k out) s.core
  let c := ((c.streamsNow s.tick.count).moveStreams next streams).releaseNow next
  let s := { s with core := c.swapsNow next }
  let s := (s.darnings.retirements out m.lost).startActs
  let s := { s with
    core := s.core.settleParts next
    mend := { s.mend with testing := s.mend.nextTest, found := none, nextTest := none, logged := [] } }
  ((s.tillerEpochs old).agePorts).quietDone.tellMembers

/-- The new tick begins: the sheaf, the ledger and the counters are those of the new tick. -/
def State.tickBegins (s : State) (next len : Nat) : State :=
  let c := (s.core.sheafNow next s.tick.nextSheaf).shiftRuns len
  let s := (s.gridNow len)
  let s := { s with
    core := { c with
      free := s.core.free
      parts := Tab.mapAll {} c.parts fun _ p => { p with health := p.health.next p.hNext, hNext := {} }
      qs := Tab.mapAll {} c.qs fun _ q => { q with refetch := false } }
    led := s.led.next s.tick.period s.core.activeEntries
    tick := (s.tick.next next len).ageHeard
    link := { s.link with steps := [] } }
  if s.link.isMaster && s.link.strap then s.sendTick none s.masterPay else s

/-- TICK_BOUNDARY (R40). A sheaf that nothing sealed in time is a bare one (R35). -/
def execTickBoundary (m : Boundary) (s : State) : Host.Outcome State Fault Refusal :=
  .next <|
    if !mlive s.core.mstate || (s.tick.waits && !s.tick.due) then s
    else
      let s := if s.tick.sealed then s else s.sealSheaf 0
      let len := s.tick.lengthNs
      let s := s.holdOver.remaster
      let x := s.adopt (s.tick.count + 1)
      let e := x.1.tickEnds x.2 m
      (e.1.boundaryActs x.2 m e.2 x.1.core.stagesAt).tickBegins x.2 len

end Sys2Proof.Machine
end

