-- ==== Sys2Proof/Machine/Dispatch.lean ====
section
/-! DEFINITION. The dispatcher: one arm per command, each one direct call of its meaning. -/

namespace Sys2Proof.Machine

def exec (i : Instr) (s : State) : Host.Outcome State Fault Refusal :=
  match i with
  | .nop c => Sys2Proof.Machine.execNop c s
  | .fence c => Sys2Proof.Machine.execFence c s
  | .signal c => Sys2Proof.Machine.execSignal c s
  | .wait c => Sys2Proof.Machine.execWait c s
  | .tickwait c => Sys2Proof.Machine.execTickwait c s
  | .branch c => Sys2Proof.Machine.execBranch c s
  | .loop c => Sys2Proof.Machine.execLoop c s
  | .call c => Sys2Proof.Machine.execCall c s
  | .return c => Sys2Proof.Machine.execReturn c s
  | .sets c => Sys2Proof.Machine.execSets c s
  | .halt c => Sys2Proof.Machine.execHalt c s
  | .emit c => Sys2Proof.Machine.execEmit c s
  | .invoke c => Sys2Proof.Machine.execInvoke c s
  | .matmul c => Sys2Proof.Machine.execMatmul c s
  | .conv2d c => Sys2Proof.Machine.execConv2d c s
  | .dwconv c => Sys2Proof.Machine.execDwconv c s
  | .attend c => Sys2Proof.Machine.execAttend c s
  | .transpose c => Sys2Proof.Machine.execTranspose c s
  | .copy c => Sys2Proof.Machine.execCopy c s
  | .fill c => Sys2Proof.Machine.execFill c s
  | .vew c => Sys2Proof.Machine.execVew c s
  | .vred c => Sys2Proof.Machine.execVred c s
  | .vwin c => Sys2Proof.Machine.execVwin c s
  | .vspread c => Sys2Proof.Machine.execVspread c s
  | .vsfn c => Sys2Proof.Machine.execVsfn c s
  | .vtopk c => Sys2Proof.Machine.execVtopk c s
  | .vnms c => Sys2Proof.Machine.execVnms c s
  | .vassoc c => Sys2Proof.Machine.execVassoc c s
  | .vpool c => Sys2Proof.Machine.execVpool c s
  | .vnorm c => Sys2Proof.Machine.execVnorm c s
  | .vsoftmax c => Sys2Proof.Machine.execVsoftmax c s
  | .vscan c => Sys2Proof.Machine.execVscan c s
  | .quant c => Sys2Proof.Machine.execQuant c s
  | .dequant c => Sys2Proof.Machine.execDequant c s
  | .rescale c => Sys2Proof.Machine.execRescale c s
  | .convert c => Sys2Proof.Machine.execConvert c s
  | .streamOpen c => Sys2Proof.Machine.execStreamOpen c s
  | .streamFeed c au => Sys2Proof.Machine.execStreamFeed c au s
  | .streamResync c => Sys2Proof.Machine.execStreamResync c s
  | .streamClose c => Sys2Proof.Machine.execStreamClose c s
  | .shape c => Sys2Proof.Machine.execShape c s
  | .roiSet c => Sys2Proof.Machine.execRoiSet c s
  | .motionExport c => Sys2Proof.Machine.execMotionExport c s
  | .clipBegin c => Sys2Proof.Machine.execClipBegin c s
  | .clipEnd c => Sys2Proof.Machine.execClipEnd c s
  | .cachePut c => Sys2Proof.Machine.execCachePut c s
  | .epochBegin c => Sys2Proof.Machine.execEpochBegin c s
  | .batchDraw c => Sys2Proof.Machine.execBatchDraw c s
  | .optimStep c => Sys2Proof.Machine.execOptimStep c s
  | .graft c => Sys2Proof.Machine.execGraft c s
  | .bufDeclare c => Sys2Proof.Machine.execBufDeclare c s
  | .bufRelease c => Sys2Proof.Machine.execBufRelease c s
  | .pinHint c => Sys2Proof.Machine.execPinHint c s
  | .hostRead c => Sys2Proof.Machine.execHostRead c s
  | .hostWrite c => Sys2Proof.Machine.execHostWrite c s
  | .modelLoad c => Sys2Proof.Machine.execModelLoad c s
  | .modelUnload c => Sys2Proof.Machine.execModelUnload c s
  | .progLoad c => Sys2Proof.Machine.execProgLoad c s
  | .bind c => Sys2Proof.Machine.execBind c s
  | .partCreate c => Sys2Proof.Machine.execPartCreate c s
  | .partDestroy c => Sys2Proof.Machine.execPartDestroy c s
  | .partLimits c => Sys2Proof.Machine.execPartLimits c s
  | .mendStart c => Sys2Proof.Machine.execMendStart c s
  | .mendStatus c => Sys2Proof.Machine.execMendStatus c s
  | .fwStage c => Sys2Proof.Machine.execFwStage c s
  | .fwActivate c => Sys2Proof.Machine.execFwActivate c s
  | .fwConfirm c => Sys2Proof.Machine.execFwConfirm c s
  | .attest c => Sys2Proof.Machine.execAttest c s
  | .thaw c => Sys2Proof.Machine.execThaw c s
  | .ledgerSet c => Sys2Proof.Machine.execLedgerSet c s
  | .tickSet c => Sys2Proof.Machine.execTickSet c s
  | .chainForm c => Sys2Proof.Machine.execChainForm c s
  | .quiet c => Sys2Proof.Machine.execQuiet c s
  | .doorbellSq fn slot v => Sys2Proof.Machine.execDoorbellSq fn slot v s
  | .doorbellCq fn slot v => Sys2Proof.Machine.execDoorbellCq fn slot v s
  | .doorbellRr fn slot v => Sys2Proof.Machine.execDoorbellRr fn slot v s
  | .queueEnable fn slot v => Sys2Proof.Machine.execQueueEnable fn slot v s
  | .queueDisable fn slot v => Sys2Proof.Machine.execQueueDisable fn slot v s
  | .queuePause fn slot p => Sys2Proof.Machine.execQueuePause fn slot p s
  | .ivEnWrite fn slot b => Sys2Proof.Machine.execIvEnWrite fn slot b s
  | .queueDrained q => Sys2Proof.Machine.execQueueDrained q s
  | .hifQownWrite fn slot v => Sys2Proof.Machine.execHifQownWrite fn slot v s
  | .tckCountLoRead => Sys2Proof.Machine.execTckCountLoRead s
  | .registerWrite fn bar off size be v => Sys2Proof.Machine.execRegisterWrite fn bar off size be v s
  | .commandFetch q r => Sys2Proof.Machine.execCommandFetch q r s
  | .msixRateLimitRelease fn vec => Sys2Proof.Machine.execMsixRateLimitRelease fn vec s
  | .msixUnmask fn vec => Sys2Proof.Machine.execMsixUnmask fn vec s
  | .tickBoundary m => Sys2Proof.Machine.execTickBoundary m s
  | .tickInEdge t => Sys2Proof.Machine.execTickInEdge t s
  | .tickInWindowExpiry => Sys2Proof.Machine.execTickInWindowExpiry s
  | .tickInRelock t => Sys2Proof.Machine.execTickInRelock t s
  | .cutOff b => Sys2Proof.Machine.execCutOff b s
  | .sealDeadline complete => Sys2Proof.Machine.execSealDeadline complete s
  | .stepStart run e t => Sys2Proof.Machine.execStepStart run e t s
  | .stepEnd run t grains how fix => Sys2Proof.Machine.execStepEnd run t grains how fix s
  | .stepCut run => Sys2Proof.Machine.execStepCut run s
  | .streamFeedResume ctx => Sys2Proof.Machine.execStreamFeedResume ctx s
  | .governorRaise a b => Sys2Proof.Machine.execGovernorRaise s a b
  | .governorLower a b => Sys2Proof.Machine.execGovernorLower s a b
  | .hostReadCompletion fn tag => Sys2Proof.Machine.execHostReadCompletion fn tag s
  | .completionTimeout fn tag => Sys2Proof.Machine.execCompletionTimeout fn tag s
  | .hostReadErrorCompletion fn tag r => Sys2Proof.Machine.execHostReadErrorCompletion fn tag r s
  | .lateCompletion fn tag => Sys2Proof.Machine.execLateCompletion fn tag s
  | .quarantineExpiry fn tag => Sys2Proof.Machine.execQuarantineExpiry fn tag s
  | .busMasterDisable fn => Sys2Proof.Machine.execBusMasterDisable fn s
  | .busMasterEnable fn => Sys2Proof.Machine.execBusMasterEnable fn s
  | .d3hotEntry fn => Sys2Proof.Machine.execD3hotEntry fn s
  | .d0Return fn => Sys2Proof.Machine.execD0Return fn s
  | .vfFlr fn => Sys2Proof.Machine.execVfFlr fn s
  | .flrReadWaitExpiry fn => Sys2Proof.Machine.execFlrReadWaitExpiry fn s
  | .pfFlr => Sys2Proof.Machine.execPfFlr s
  | .perstAssert => Sys2Proof.Machine.execPerstAssert s
  | .hotReset => Sys2Proof.Machine.execHotReset s
  | .pcieLinkDown => Sys2Proof.Machine.execPcieLinkDown s
  | .pcieRetrain gen width => Sys2Proof.Machine.execPcieRetrain gen width s
  | .doeRequest proto obj => Sys2Proof.Machine.execDoeRequest proto obj s
  | .doeAbort => Sys2Proof.Machine.execDoeAbort s
  | .doeDiscovery index => Sys2Proof.Machine.execDoeDiscovery index s
  | .getVersion b => Sys2Proof.Machine.execGetVersion b s
  | .getCapabilities b => Sys2Proof.Machine.execGetCapabilities b s
  | .negotiateAlgorithms b asym hash => Sys2Proof.Machine.execNegotiateAlgorithms b asym hash s
  | .getDigests b => Sys2Proof.Machine.execGetDigests b s
  | .getCertificate b slot off len => Sys2Proof.Machine.execGetCertificate b slot off len s
  | .challenge b slot nonce => Sys2Proof.Machine.execChallenge b slot nonce s
  | .getMeasurements b index nonce => Sys2Proof.Machine.execGetMeasurements b index nonce s
  | .spdmSessionRequest b code => Sys2Proof.Machine.execSpdmSessionRequest b code s
  | .setEndpointId b eid => Sys2Proof.Machine.execSetEndpointId b eid s
  | .mctpControl b code => Sys2Proof.Machine.execMctpControl b code s
  | .telemetryRequest b vinMv iinMa tj tdram => Sys2Proof.Machine.execTelemetryRequest b vinMv iinMa tj tdram s
  | .recoveryDownloadMessage b v off data => Sys2Proof.Machine.execRecoveryDownloadMessage b v off data s
  | .recoveryBegin v => Sys2Proof.Machine.execRecoveryBegin v s
  | .recoveryWrite v => Sys2Proof.Machine.execRecoveryWrite v s
  | .recoveryVerify v => Sys2Proof.Machine.execRecoveryVerify v s
  | .recoveryCommit v => Sys2Proof.Machine.execRecoveryCommit v s
  | .smbusArp addr => Sys2Proof.Machine.execSmbusArp addr s
  | .alertResponse => Sys2Proof.Machine.execAlertResponse s
  | .dramRequestEntry ch r => Sys2Proof.Machine.execDramRequestEntry ch r s
  | .dramUrgencyRise ch id t => Sys2Proof.Machine.execDramUrgencyRise ch id t s
  | .dramBankIssue ch bank t => Sys2Proof.Machine.execDramBankIssue ch bank t s
  | .dramReadReturn ch id t e0 e1 where_ => Sys2Proof.Machine.execDramReadReturn ch id t e0 e1 where_ s
  | .refreshWindowStart => Sys2Proof.Machine.execRefreshWindowStart s
  | .refreshWindowEnd => Sys2Proof.Machine.execRefreshWindowEnd s
  | .sramPatrolScrub st corrected bad where_ on => Sys2Proof.Machine.execSramPatrolScrub st corrected bad where_ s on
  | .dramPatrolScrub ch e where_ on => Sys2Proof.Machine.execDramPatrolScrub ch e where_ s on
  | .arraySelfTest rows on => Sys2Proof.Machine.execArraySelfTest rows s on
  | .flashReadVerify ok => Sys2Proof.Machine.execFlashReadVerify ok s
  | .deferredActivityStart code target => Sys2Proof.Machine.execDeferredActivityStart code target s
  | .portTraining p present lanes => Sys2Proof.Machine.execPortTraining p present lanes s
  | .hello p h => Sys2Proof.Machine.execHello p h s
  | .flitReceive p f crcOk fec => Sys2Proof.Machine.execFlitReceive p f crcOk fec s
  | .tickFlit p k t => Sys2Proof.Machine.execTickFlit p k t s
  | .seamMessage p m => Sys2Proof.Machine.execSeamMessage p m s
  | .bulkMessage p m => Sys2Proof.Machine.execBulkMessage p m s
  | .mgmtReply id r => Sys2Proof.Machine.execMgmtReply id r s
  | .grantRequest p g => Sys2Proof.Machine.execGrantRequest p g s
  | .memberStepList p lead part steps => Sys2Proof.Machine.execMemberStepList p lead part steps s
  | .activateNotice p n => Sys2Proof.Machine.execActivateNotice p n s
  | .activateCancel p origin mask => Sys2Proof.Machine.execActivateCancel p origin mask s
  | .linkDownNotice p a b => Sys2Proof.Machine.execLinkDownNotice p a b s
  | .linkUpNotice p a b => Sys2Proof.Machine.execLinkUpNotice p a b s
  | .laneLockLoss p => Sys2Proof.Machine.execLaneLockLoss p s
  | .replayLimit p => Sys2Proof.Machine.execReplayLimit p s
  | .controlWordTimeout p => Sys2Proof.Machine.execControlWordTimeout p s
  | .replyTimeout id => Sys2Proof.Machine.execReplyTimeout id s
  | .grantTimeout part => Sys2Proof.Machine.execGrantTimeout part s
  | .activateTimeout => Sys2Proof.Machine.execActivateTimeout s
  | .masterLost => Sys2Proof.Machine.execMasterLost s
  | .trialWindowExpiry kind => Sys2Proof.Machine.execTrialWindowExpiry kind s
  | .processorTrap cpu => Sys2Proof.Machine.execProcessorTrap cpu s
  | .watchdogExpiry cpu => Sys2Proof.Machine.execWatchdogExpiry cpu s
  | .vinRise mv => Sys2Proof.Machine.execVinRise mv s
  | .pwrgdRelease => Sys2Proof.Machine.execPwrgdRelease s
  | .undervoltage => Sys2Proof.Machine.execUndervoltage s
  | .resetNAssert ns => Sys2Proof.Machine.execResetNAssert ns s
  | .moduleResetEnd st dramOk => Sys2Proof.Machine.execModuleResetEnd st dramOk s
  | .bootEnd v => Sys2Proof.Machine.execBootEnd s v
  | .temperatureReading tj tdram => Sys2Proof.Machine.execTemperatureReading tj tdram s
  | .thermalTrip => Sys2Proof.Machine.execThermalTrip s
  | .thermtripRelease => Sys2Proof.Machine.execThermtripRelease s
  | .perstDeassert gen width => Sys2Proof.Machine.execPerstDeassert gen width s
  | .controlWordReceive p credits ack => Sys2Proof.Machine.execControlWordReceive p credits ack s

end Sys2Proof.Machine
end

