-- ==== Sys2Proof/Machine/Step.lean ====
section
/-! DEFINITION. One step: the command at the front of the queue takes effect; with nothing waiting the block idles
(log 1). -/

namespace Sys2Proof.Machine

/-- Takes the command at the front of the queue and runs it on the rest; idles on an empty queue. -/
def step (s : State) : Host.Outcome State Fault Refusal :=
  match s.pending with
  | [] => .next s
  | i :: rest => exec i { s with pending := rest }

/-- The command that a table word spells, put at the front of the queue; the table gives no row any bits, so no word
spells one and the state stays as it is. -/
def State.withFetchWord (s : State) (nbits w : Nat) : State :=
  match Sys2Proof.decodeTableWord nbits w with
  | some i => { s with pending := i :: s.pending }
  | none => s

end Sys2Proof.Machine
end

