-- ==== Sys2Proof/Machine/Flags.lean ====
section
/-! DEFINITION. Register reads: what a read of each register of BAR0 and BAR4 answers, as the register tables pack the
status, flags and counters of the state (R9, R31, R72, R208, R377 to R380, R383, R392, R396, R414, R438, R455, R476).
Reading changes nothing, TCK_COUNT_LO apart (R31), whose read is a command of its own. -/

namespace Sys2Proof.Machine

/-- A field [hi:lo] of a register. -/
def regF (hi lo v : Nat) : Nat := v % 2 ^ (hi + 1 - lo) * 2 ^ lo

def flagOf (k : Nat) (b : Bool) : Nat := if b then 2 ^ k else 0

/-- Sum of `f i` for the `n` flags from 0, flag i at bit i. -/
def flagsOf (n : Nat) (f : Nat → Bool) : Nat := (List.range n).foldl (fun v i => v + flagOf i (f i)) 0

/-! ### The tick and the ledger -/

/-- LOCKED of Table 2-4: 1 with every source but TICK_IN. -/
def Tick.lockedBit (t : Tick) : Bool := t.source != 1 || t.locked

/-- TCK_STATUS, Table 2-4. -/
def Tick.status (t : Tick) : Nat :=
  regF 31 24 (min 255 t.inMissed) + regF 23 16 (min 255 t.bare) + regF 15 4 (min 4095 t.stepCut) +
    flagOf 3 t.change.isSome + flagOf 2 t.lockedBit + regF 1 0 t.source

/-- The tick mirrors, Tables 2-1 to 2-4 (R31); `r` is the offset in the page. -/
def Tick.read (t : Tick) (r : Nat) : Nat :=
  if r == 0x000 then t.count % 2 ^ 32
  else if r == 0x004 then t.hiLatch
  else if r == 0x008 then regF 26 0 t.period
  else if r == 0x00C then regF 26 16 t.hem + regF 12 0 t.cutoff
  else if r == 0x010 then t.status
  else 0

/-- LDG_CONTRACT, Table 3-4. -/
def Ledger.contractReg (l : Ledger) : Nat :=
  flagOf 26 (l.strap == 3) + regF 25 24 l.strap + regF 23 16 (strapW l.strap) +
    regF 15 8 ((l.pending.map (·.1)).getD 0) + regF 7 0 l.contract

/-- The ledger mirrors, Tables 3-4 to 3-6 (R72). -/
def Ledger.read (l : Ledger) (r : Nat) : Nat :=
  if r == 0x100 then l.contractReg
  else if r == 0x104 then l.budget
  else if r == 0x108 then l.floorEst
  else if r == 0x10C then l.planned
  else if r == 0x110 then l.measured
  else if r == 0x114 then regF 31 16 l.throttles + regF 14 12 l.level + regF 11 0 (min 0xFFF (l.vb / 4))
  else 0

/-! ### Identity and globals -/

/-- HIF_MODSTATE, Table 16-5. -/
def State.modState (s : State) : Nat := regF 31 16 s.link.table.id + regF 3 0 (mstateCode s.core.mstate)

/-- The identity block, Table 16-5; HIF_REV as R501 gives it. -/
def State.identity (s : State) (off : Nat) : Nat :=
  if off == 0x0 then 0x0A16CB01
  else if off == 0x4 then 0x01010100
  else if off == 0x8 then s.modState
  else if off == 0xC then Config.serial.toNat % 2 ^ 32
  else if off == 0x10 then Config.serial.toNat / 2 ^ 32
  else 0

/-- Function and queue globals, Table 16-6. -/
def HostIf.globals (h : HostIf) (off : Nat) : Nat :=
  if off == 0x1000 then regF 31 16 h.rate + regF 12 8 h.width + regF 2 0 h.gen
  else if off == 0x1004 then regF 5 0 h.intake
  else if off == 0x1008 then regF 4 0 h.errCause
  else if off == 0x100C then regF 10 0 h.errVec
  else if off == 0x1010 then regF 31 16 h.frzLost + regF 15 0 h.frzCount
  else if off == 0x1014 then regF 31 16 (h.reads.filter (·.quarantine)).length + regF 15 0 h.late
  else if off == 0x1018 then regF 31 24 h.poisoned + regF 23 16 h.ca + regF 15 8 h.ur + regF 7 0 h.timeouts
  else if off == 0x101C then regF 16 0 (heldSize h.held / 64)
  else if off == 0x1020 then flagsOf 17 fun f => (Tab.get {} h.fns f).bme
  else 0

/-- A host window entry, Table 16-8; `r` from 0 to 0x1C. -/
def Window.reg (w : Window) (r : Nat) : Nat :=
  if r == 0x00 then w.base % 2 ^ 32
  else if r == 0x04 then w.base / 2 ^ 32
  else if r == 0x08 then w.last % 2 ^ 32
  else if r == 0x0C then w.last / 2 ^ 32
  else if r == 0x10 then flagOf 31 w.valid + flagOf 30 w.read + flagOf 29 w.write + regF 4 0 w.func
  else 0

/-! ### Queues -/

def qstateCode : QState → Nat
  | .disabled => 0 | .enabled => 1 | .paused => 2 | .frozen => 3

/-- HIF_QCTL, Table 4-3. -/
def Queue.ctl (e : Queue) : Nat :=
  regF 31 30 (qstateCode e.state) + flagOf 29 e.draining + flagOf 28 e.cfgErr + regF 20 16 e.part +
    flagOf 15 e.ivEn + flagOf 14 e.pause + flagOf 13 e.enable + regF 10 0 e.vector

/-- A register of a queue's entry, Table 4-2 with Tables 4-3 to 4-7; HIF_QOWN reads 0 in a VF's view (R380). -/
def Queue.read (e : Queue) (pf : Bool) (r : Nat) : Nat :=
  if r == 0x00 then e.ctl
  else if r == 0x04 then regF 27 24 e.rrLog + regF 20 16 e.cqLog + regF 4 0 e.sqLog
  else if r == 0x08 then e.sqBase % 2 ^ 32
  else if r == 0x0C then e.sqBase / 2 ^ 32
  else if r == 0x10 then e.cqBase % 2 ^ 32
  else if r == 0x14 then e.cqBase / 2 ^ 32
  else if r == 0x18 then e.rrBase % 2 ^ 32
  else if r == 0x1C then e.rrBase / 2 ^ 32
  else if r == 0x20 then regF 31 16 e.cqHead + regF 15 0 e.sqHead
  else if r == 0x24 then flagOf 16 e.phase + regF 15 0 e.cqTail
  else if r == 0x28 then regF 31 16 e.cplDrop + regF 15 0 e.dbIgnored
  else if r == 0x2C then (if pf then regF 4 0 e.func else 0)
  else 0

/-! ### Mending -/

/-- MND_ARRAY of array `p` of tiller `t`, Table 7-4. -/
def Arr.reg (a : Arr) (test : Bool) : Nat :=
  regF 31 30 (if test then 3 else a.state) + flagOf 29 a.skew + regF 28 24 a.row + flagOf 23 a.srBad + regF 13 8 a.slot +
    regF 7 0 (min 255 a.faults)

/-- MND_TILLER of tiller `t`, Table 7-5: its owner is that of the last boundary (R208). -/
def State.tillerReg (s : State) (t : Nat) : Nat :=
  let own := Tab.get 0 s.link.tOwner t
  let part := if own == 0 || own == 0x20 then 0x1F else own - 1
  flagOf 30 (s.core.retired.contains t) + regF 20 16 part + regF 7 4 (min 15 (s.mend.failedArrays t)) +
    regF 1 0 (s.mend.spares t).length

/-- The mending registers, Table 19-7 (R455). -/
def Mend.read (m : Mend) (off : Nat) : Nat :=
  if off == 0x59A00 then regF 4 0 m.cause
  else if off == 0x59A04 then regF 10 0 m.vec
  else if off == 0x59A08 then regF 31 16 m.logLost + regF 15 0 m.logCount
  else if off == 0x59A10 then regF 31 0 m.ceSp
  else if off == 0x59A14 then regF 31 0 m.ceGrn
  else if off == 0x59A18 then regF 31 0 m.ceInt
  else if off == 0x59A1C then regF 31 0 m.ceReg
  else if off == 0x59A20 then regF 31 24 m.ueSp + regF 23 16 m.ueGrn + regF 15 8 m.ueInt + regF 7 0 m.ueReg
  else if off == 0x59A24 then regF 19 16 m.rotT + regF 15 8 m.rotA + regF 7 0 m.passes
  else if off == 0x59A28 then regF 31 16 m.dramPasses + regF 15 0 m.sramPasses
  else 0

/-! ### DRAM, link, firmware -/

/-- Channel registers, Table 17-4. -/
def Drc.read (d : Drc) (r : Nat) : Nat :=
  if r == 0x0 then regF 31 0 d.ce
  else if r == 0x4 then regF 31 16 d.addrErr + regF 15 0 d.ue
  else if r == 0x8 then regF 31 0 d.fwd
  else if r == 0xC then regF 31 16 d.merged + regF 15 0 d.late
  else 0

/-- The DRAM registers, Table 17-4 (R414). -/
def State.dramRead (s : State) (off : Nat) : Nat :=
  let d := s.dram
  if off == 0x5A000 then regF 27 16 380 + regF 11 0 d.phase
  else if off == 0x5A004 then flagOf 15 d.over85 + regF 7 0 d.temp
  else if off == 0x5A008 then flagOf 8 d.sr + regF 7 0 d.kept
  else if 0x5A040 ≤ off && off < 0x5A080 then regF 7 0 (s.core.segsOf ((off - 0x5A040) / 4))
  else if 0x5A100 ≤ off && off < 0x5A200 then (d.drc ((off - 0x5A100) / 16)).read (off % 16)
  else 0

/-- Port registers, Table 18-6. -/
def Port.read (p : Port) (r : Nat) : Nat :=
  if r == 0x00 then regF 31 29 p.state + flagOf 28 p.frozen + regF 23 16 p.lanes + regF 15 0 p.neigh
  else if r == 0x04 then regF 23 0 p.delay
  else if r == 0x08 then regF 31 0 p.replays
  else if r == 0x0C then regF 31 0 p.fec
  else if r == 0x10 then regF 31 0 p.frozenDrop
  else if r == 0x14 then regF 31 0 p.downDrop
  else 0

/-- The link registers, Table 18-6 (R438). -/
def Link.read (l : Link) (off : Nat) : Nat :=
  if off == 0x5B000 then
    regF 31 16 l.table.id + flagOf 15 l.formed + flagOf 14 l.isMaster + flagOf 13 l.strap + regF 12 11 l.table.topo
  else if off == 0x5B004 then regF 31 16 l.master + flagOf 15 l.hold + regF 7 0 (min 255 l.lost)
  else if off == 0x5B008 then regF 31 16 l.skewMax + unsigned 16 l.skewOff
  else if off == 0x5B00C then regF 31 0 l.dead
  else if off == 0x5B010 then regF 31 0 l.noroute
  else if 0x5B100 ≤ off && off < 0x5B1C0 then (l.port ((off - 0x5B100) / 32)).read (off % 32)
  else 0

/-- Slot state codes, Table 20-4. -/
def sstateCode : SState → Nat
  | .invalid => 0 | .staging => 1 | .valid => 2 | .active => 3 | .trial => 4 | .fallback => 5 | .rejected => 6

/-- FWU_IMAGE, FWU_VER, FWU_TICK and FWU_TRIAL of a kind, Table 20-15 (R476). -/
def Image.read (i : Image) (kind r : Nat) : Nat :=
  if r == 0x0 then
    regF 31 29 (sstateCode i.a.state) + regF 28 26 (sstateCode i.b.state) + flagOf 25 i.sched.isSome +
      flagOf 24 i.startedB + regF 5 0 i.svnMin
  else if r == 0x4 then regF 31 0 (mfVersion (i.inForce.manifest kind))
  else if r == 0x8 then regF 31 0 i.tick
  else if r == 0xC then regF 12 0 i.left
  else 0

/-- The firmware and security registers, Table 20-15. -/
def Fw.read (f : Fw) (off : Nat) : Nat :=
  if off == 0x5C080 then regF 1 0 f.cause
  else if off == 0x5C084 then regF 10 0 f.vec
  else if off == 0x5C100 then
    flagOf 31 f.sealed + flagsOf 4 (fun i => (Tab.get {} f.owners i).used) * 2 ^ 27 +
      flagsOf 4 (fun i => (Tab.get {} f.owners i).revoked) * 2 ^ 23 + regF 7 0 f.reason
  else if 0x5C010 ≤ off && off < 0x5C070 then
    (f.image ((off - 0x5C000) / 16)).read ((off - 0x5C000) / 16) (off % 16)
  else 0

/-- The recovery mailbox, Table 20-11: an operation is over within its command, so BUSY reads 0; the command, the CRCs
and the data window are written only. -/
def Fw.mailbox (f : Fw) (off : Nat) : Nat :=
  if off == 0x60004 then regF 15 0 f.result
  else if off == 0x60008 then regF 31 0 f.detail
  else 0

/-! ### The BARs -/

/-- PF BAR0, Table 16-4, while the module runs. -/
def State.readPf (s : State) (off : Nat) : Nat :=
  if off < 0x1000 then s.identity off
  else if off < 0x2000 then s.core.host.globals off
  else if 0x10000 ≤ off && off < 0x12000 then
    (Tab.get {} s.core.host.windows ((off - 0x10000) / 32)).reg (off % 32)
  else if 0x40000 ≤ off && off < 0x40100 then s.tick.read (off - 0x40000)
  else if 0x40100 ≤ off && off < 0x41000 then s.led.read (off - 0x40000)
  else if 0x50000 ≤ off && off < 0x52000 then
    leAt (Tab.get [] s.core.host.frzLog ((off - 0x50000) / 32)) (off % 32) 4
  else if 0x58000 ≤ off && off < 0x59080 then (Tab.get {} s.mend.arrs ((off - 0x58000) / 4)).reg
      (s.mend.testing == some ((off - 0x58000) / 4 / 66, (off - 0x58000) / 4 % 66))
  else if 0x59100 ≤ off && off < 0x59140 then s.tillerReg ((off - 0x59100) / 4)
  else if 0x59200 ≤ off && off < 0x59A00 then leAt (Tab.get [] s.mend.log ((off - 0x59200) / 32)) (off % 32) 4
  else if 0x59A00 ≤ off && off < 0x5A000 then s.mend.read off
  else if 0x5A000 ≤ off && off < 0x5B000 then s.dramRead off
  else if 0x5B000 ≤ off && off < 0x5C000 then s.link.read off
  else if 0x5C000 ≤ off && off < 0x5D000 then s.fw.read off
  else if 0x60000 ≤ off && off < 0x61000 then s.fw.mailbox off
  else if 0x100000 ≤ off && off < 0x200000 then (s.core.q ((off - 0x100000) / 256)).read true (off % 256)
  else 0

/-- A VF's BAR0, Table 16-7 (R380). -/
def State.readVf (s : State) (fn off : Nat) : Nat :=
  if off == 0 then 0x0A16CB01
  else if off == 4 then regF 4 0 fn
  else if 0x1000 ≤ off && off < 0x1200 then
    match s.core.vq fn ((off - 0x1000) / 4) with
    | some q => 2 ^ 31 + regF 11 0 q
    | none => 0
  else if 0x4000 ≤ off && off < 0xC000 then
    match s.core.vq fn ((off - 0x4000) / 256) with
    | some q => (s.core.q q).read false (off % 256)
    | none => 0
  else 0

/-- A message vector as the MSI-X table holds it: address, data, mask bit (R383). -/
def Vec.read (v : Vec) (r : Nat) : Nat :=
  if r == 0 then v.addr % 2 ^ 32 else if r == 4 then v.addr / 2 ^ 32 else if r == 8 then v.data else flagOf 0 v.masked

/-- BAR4: the MSI-X table at 0, the pending bits at 0x8000 in the PF and 0x800 in a VF (R383). -/
def Core.readMsix (c : Core) (fn off : Nat) : Nat :=
  let pba := if fn == 0 then 0x8000 else 0x800
  if off < 16 * vecCount fn && off < pba then (c.vec fn (off / 16)).read (off % 16)
  else if pba ≤ off && off < pba + vecCount fn / 8 then
    flagsOf 32 fun i => (c.vec fn ((off - pba) * 8 + i)).pending
  else 0

/-- An aligned read of 4 bytes. With the module absent or its link down it answers all ones (R396); a function whose
memory does not answer gives none. Until BOOT ends BAR0 answers its first three registers, in RECOVERY the mailbox too
(R392). SEC_STATE (0x005_C100) in RECOVERY reads 0 by R392, though R461 and R471 name what it holds there (DESIGN CHOICE, log 52). -/
def State.read32 (s : State) (fn bar off : Nat) : Option Nat :=
  if !s.core.host.linkUp || s.core.mstate == .off then some 0xFFFFFFFF
  else if !(s.core.fn fn).mse || (s.core.fn fn).d3 || !(fn == 0 || (decide (fn ≤ 16) && s.core.host.vfEnable)) then none
  else if bar == 4 then some (s.core.readMsix fn off)
  else if bar != 0 then some 0
  else if mlive s.core.mstate then some (if fn == 0 then s.readPf off else s.readVf fn off)
  else if off == 0 || (fn == 0 && off ≤ 8) then some (if fn == 0 then s.identity off else 0x0A16CB01)
  else if s.core.mstate == .recovery && fn == 0 && decide (0x60000 ≤ off) && decide (off < 0x61000) then
    some (s.fw.mailbox off)
  else some 0

/-- A read of `size` bytes at an offset (R377): 4 bytes aligned, 8 bytes as two reads in increasing order; any other
form completes with every byte 0. -/
def State.readBar (s : State) (fn bar off size : Nat) : Option Nat :=
  if size == 4 && off % 4 == 0 then s.read32 fn bar off
  else if size == 8 && off % 8 == 0 then
    match s.read32 fn bar off, s.read32 fn bar (off + 4) with
    | some a, some b => some (a + 2 ^ 32 * b)
    | _, _ => none
  else (s.read32 fn bar 0).map fun _ => 0

end Sys2Proof.Machine
end

