-- ==== Sys2Proof/Safety.lean ====
section
/-! DEFINITION. Safe runs and the words in which statements speak: the block never stops (R120, R121 freeze a master
instead), so a step is safe when it answers a next state; the rows whose commands only run steps, with their opcodes and
bodies; what a launched command leaves. -/

namespace Sys2Proof

/-- A step from a state answers a next state. -/
def Goes (s : Machine.State) : Prop := ∃ t, Machine.step s = .next t

namespace Machine

/-- A row whose command only runs steps (R36, R40): its constructor, opcode and body. -/
structure RunRow where
  row  : Cmd → Instr
  op   : Nat
  body : Env → Core → Except Stop Run

/-- MATMUL to FILL, Table 4-1. -/
def tensorRows : List RunRow :=
  [⟨.matmul, 0x1001, matmulRun⟩, ⟨.conv2d, 0x1002, convRun⟩, ⟨.dwconv, 0x1003, dwconvRun⟩, ⟨.attend, 0x1004, attendRun⟩,
    ⟨.transpose, 0x1010, transposeRun⟩, ⟨.copy, 0x1011, copyRun⟩, ⟨.fill, 0x1012, fillRun⟩]

/-- VEW to VSCAN. -/
def vectorRows : List RunRow :=
  [⟨.vew, 0x2001, vewRun⟩, ⟨.vred, 0x2002, vredRun⟩, ⟨.vwin, 0x2003, vwinRun⟩, ⟨.vspread, 0x2004, vspreadRun⟩,
    ⟨.vsfn, 0x2005, vsfnRun⟩, ⟨.vtopk, 0x2006, vtopkRun⟩, ⟨.vnms, 0x2007, vnmsRun⟩, ⟨.vassoc, 0x2008, vassocRun⟩,
    ⟨.vpool, 0x2009, vpoolRun⟩, ⟨.vnorm, 0x200A, vnormRun⟩, ⟨.vsoftmax, 0x200B, vsoftmaxRun⟩, ⟨.vscan, 0x200C, vscanRun⟩]

/-- QUANT to CONVERT. -/
def formatRows : List RunRow :=
  [⟨.quant, 0x3001, quantRun⟩,
    ⟨.dequant, 0x3002, dequantRun⟩,
    ⟨.rescale, 0x3003, quantRun⟩,
    ⟨.convert, 0x3004, convertRun⟩]

/-- The other commands that only run steps: EMIT, the shaping and motion rows, CACHE_PUT, OPTIM_STEP and the host
transfers. -/
def otherRows : List RunRow :=
  [⟨.emit, 0x000B, emitRun⟩, ⟨.shape, 0x4005, shapeRun⟩, ⟨.roiSet, 0x4006, roiRun⟩, ⟨.motionExport, 0x4009, motionRun⟩,
    ⟨.cachePut, 0x5001, cachePut⟩, ⟨.optimStep, 0x5004, optimStep⟩, ⟨.hostRead, 0x6003, hostReadRun⟩,
    ⟨.hostWrite, 0x6004, hostWriteRun⟩]

/-- A command whose body also changes the core at once. -/
structure CoreRow where
  row  : Cmd → Instr
  op   : Nat
  body : Env → Core → Except Stop (Core × Option Run)

/-- Commands that act on the core: streams, clips, adaptation, memory, models, programs. -/
def coreRows : List CoreRow :=
  [⟨.streamOpen, 0x4001, streamOpen⟩, ⟨.streamResync, 0x4003, streamResync⟩, ⟨.streamClose, 0x4004, streamClose⟩,
    ⟨.clipBegin, 0x4007, clipBegin⟩, ⟨.clipEnd, 0x4008, clipEnd⟩,
    ⟨.epochBegin, 0x5002, epochCmd⟩, ⟨.batchDraw, 0x5003, batchDraw⟩, ⟨.graft, 0x5005, graftCmd⟩,
    ⟨.bufDeclare, 0x6001, declare⟩, ⟨.bufRelease, 0x6002, releaseBuf⟩, ⟨.pinHint, 0x6005, pinHint⟩,
    ⟨.modelLoad, 0x7003, modelLoad⟩, ⟨.modelUnload, 0x7004, modelUnload⟩, ⟨.progLoad, 0x7005, progCmd⟩, ⟨.bind, 0x7006, bindCmd⟩]

/-- A command whose body sees and changes the whole machine. -/
structure StateRow where
  row  : Cmd → Instr
  op   : Nat
  body : State → Env → Except Stop (State × Option Run)

/-- Partition and administrative commands that see the whole machine. -/
def stateRows : List StateRow :=
  [⟨.partCreate, 0x7001, partCreate⟩, ⟨.partDestroy, 0x7002, partDestroyAll⟩, ⟨.partLimits, 0x7007, partLimits⟩, ⟨.mendStart, 0x8001, mendStart⟩,
    ⟨.mendStatus, 0x8002, mendStatus⟩, ⟨.fwStage, 0x8003, fwStage⟩, ⟨.fwActivate, 0x8004, fwActivate⟩,
    ⟨.fwConfirm, 0x8005, fwConfirm⟩, ⟨.attest, 0x8006, attest⟩, ⟨.thaw, 0x8007, thaw⟩, ⟨.ledgerSet, 0x8008, ledgerSet⟩,
    ⟨.tickSet, 0x8009, tickSet⟩, ⟨.chainForm, 0x800A, chainForm⟩, ⟨.quiet, 0x800B, quiet⟩]

/-- A command of the row that is at hand and whose module and partition states allow it (R91, R107, R117, R119). -/
def Ready (s : State) (op : Nat) (c : Cmd) (e : Env) : Prop :=
  s.core.atHand s.tick.count op c = some e ∧ s.core.gate e = .ok ()

/-- The state after a command's run has been launched from the core `k`. -/
def State.launched (s : State) (k : Core) (e : Env) (r : Run) : State :=
  { s with core := (k.take e).launch s.amb e r }

/-- The state after a command whose effect has left the core `k`: its run is launched, or its completion comes later. -/
def State.finished (s : State) (k : Core) (e : Env) : Option Run → State
  | some r => s.launched k e r
  | none => { s with core := (k.take e).defer e }

/-- What every copy holds is as it was: contents, version, lost lines. Places and pages may differ. -/
def SameContents (c k : Core) : Prop :=
  ∀ p b key, (k.copy p b key).data = (c.copy p b key).data ∧ (k.copy p b key).version = (c.copy p b key).version ∧
    (k.copy p b key).lost = (c.copy p b key).lost

/-- What a refused command may change: its queue and the host interface. -/
def NoEffect (s t : State) : Prop :=
  t = { s with core := t.core } ∧ t.core.buffers = s.core.buffers ∧ t.core.copies = s.core.copies ∧
    t.core.programs = s.core.programs ∧ t.core.bindings = s.core.bindings ∧ t.core.parts = s.core.parts ∧
    t.core.ctxs = s.core.ctxs ∧ t.core.clips = s.core.clips ∧ t.core.insts = s.core.insts ∧ t.core.runs = s.core.runs

/-- The instance that an INVOKE makes of a program (R102, R103): at its entry, with words 1 to 4 as S0 to S3. -/
def Made (c : Core) (e : Env) (p : Program) (i : Inst) : Prop :=
  i.id = c.nextInst ∧ i.prog = p.num ∧ i.part = p.part ∧ i.pc = p.entry ∧ i.lc = p.lc ∧ i.queue = e.q ∧ i.tag = e.cmd.tag ∧
    i.binding = none ∧ i.todo = [] ∧ ∀ k < 4, Tab.get 0 i.scalars k = BitVec.ofNat 64 (e.word (k + 1))

/-- Position of a patrol scrub in its pass (Table 19-2). -/
def Mend.scrubPos (m : Mend) : Store → Nat
  | .scratchpad n => Tab.get 0 m.scrubSp n
  | .granary => m.scrubGrn
  | .internal => m.scrubInt

/-- The state after a control command of instance `i` has left it as `j` (R104 to R106). -/
def State.moved (s : State) (i j : Inst) : State :=
  { s with core := (s.core.updInst i.id fun _ => { j with seq := i.seq + 1 }).proceed s.tick.count i.id }

/-- A control command at hand in an instance. -/
def ReadyIn (s : State) (op : Nat) (c : Cmd) (e : Env) (i : Inst) (p : Program) : Prop :=
  s.core.atHand s.tick.count op c = some e ∧ e.inst = some i ∧ e.prog = some p

/-- Condition of a BRANCH, Table 4-15. -/
def Holds (sub : Nat) (a b : DWord) : Prop :=
  match sub with
  | 0 => True
  | 1 => a = b
  | 2 => a ≠ b
  | 3 => a.toInt < b.toInt
  | 4 => b.toInt ≤ a.toInt
  | 5 => a.toNat < b.toNat
  | _ => b.toNat ≤ a.toNat

/-- Result of a SETS on numbers, Table 4-15: the low 64 bits of an exact result; shifts count the whole of b. -/
def setsExact (sub : Nat) (a b : DWord) : DWord :=
  match sub with
  | 0 => a
  | 1 => BitVec.ofNat 64 (a.toNat + b.toNat)
  | 2 => BitVec.ofInt 64 (a.toInt - b.toInt)
  | 3 => BitVec.ofNat 64 (a.toNat * b.toNat)
  | 4 => BitVec.ofNat 64 (a.toNat &&& b.toNat)
  | 5 => BitVec.ofNat 64 (a.toNat ||| b.toNat)
  | 6 => BitVec.ofNat 64 (a.toNat ^^^ b.toNat)
  | 7 => BitVec.ofNat 64 (a.toNat * 2 ^ b.toNat)
  | 8 => BitVec.ofNat 64 (a.toNat / 2 ^ b.toNat)
  | 9 => BitVec.ofInt 64 (a.toInt / 2 ^ b.toNat)
  | 10 => BitVec.ofInt 64 (min a.toInt b.toInt)
  | _ => BitVec.ofInt 64 (max a.toInt b.toInt)

/-- `n` is ±m · 2^e rounded to an integer in a mode of R145: nearest, ties to even in mode 0 and away from zero in mode 1. -/
def RoundsTo (mode neg : Bool) (m : Nat) (e n : Int) : Prop :=
  ∃ k : Nat, n = (if neg then -(k : Int) else (k : Int)) ∧
    let p := m * 2 ^ e.toNat
    let d := 2 ^ (-e).toNat
    2 * p ≤ 2 * (k * d) + d ∧ 2 * (k * d) ≤ 2 * p + d ∧
      (2 * p = 2 * (k * d) + d → mode = false ∧ k % 2 = 0) ∧ (2 * (k * d) = 2 * p + d → mode = true ∨ k % 2 = 0)

/-- A queue that takes doorbells: ENABLED or PAUSED (R84). -/
def Queue.live (e : Queue) : Prop := e.state = .enabled ∨ e.state = .paused

/-- The contract, and one that is scheduled, lie between 40 W and the contract of the strap (R53, R69). -/
def Ledger.contractOk (l : Ledger) : Prop :=
  40 ≤ l.contract ∧ l.contract ≤ strapW l.strap ∧ ∀ p, l.pending = some p → 40 ≤ p.1 ∧ p.1 ≤ strapW l.strap

/-- A coefficient lies in the range of R64 around its image value. -/
def inRange64 (v x : Nat) : Prop := (v + 1) / 2 ≤ x ∧ x ≤ 4 * v

/-- Every coefficient that calibration has set lies in its range (R64). -/
def Ledger.coefOk (l : Ledger) : Prop :=
  ∀ k x, Tab.get none l.coef k = some x →
    inRange64 (imageCost l.img k).1 x.1 ∧ inRange64 (imageCost l.img k).2 x.2

/-- At most one slot of every image kind is in force, ACTIVE or TRIAL (R463). -/
def Fw.oneInForce (f : Fw) : Prop :=
  ∀ k, ¬ ((f.image k).a.state.inForce = true ∧ (f.image k).b.state.inForce = true)

/-- What every module reset keeps (R483): flash with its directory, fuses, the darning map, and what is the host's. -/
def Outlives (s t : State) : Prop :=
  t.core.host.mem = s.core.host.mem ∧ t.fw.owners = s.fw.owners ∧
    (∀ k, (t.fw.image k).a = (s.fw.image k).a ∧ (t.fw.image k).b = (s.fw.image k).b ∧
      (t.fw.image k).svnMin = (s.fw.image k).svnMin) ∧
    ∀ n p, (t.mend.arr n p).skew = (s.mend.arr n p).skew ∧ (t.mend.arr n p).row = (s.mend.arr n p).row ∧
      (t.mend.arr n p).slot = (s.mend.arr n p).slot ∧
      (t.mend.arr n p).state = if (s.mend.arr n p).state = 3 then 0 else (s.mend.arr n p).state

/-- The state with another queue entry. -/
def State.setQ (s : State) (q : Nat) (y : Queue) : State := { s with core := s.core.setQ q y }

/-- A queue after the entry at SQ_HEAD has been fetched and waits to start (R86). -/
def Queue.accepted (y : Queue) (op : Nat) (c : Cmd) : Queue :=
  { y with
    nextN := y.nextN + 1, reserved := y.reserved + 1, sqHead := (y.sqHead + 1) % 2 ^ y.sqLog
    fetched := y.fetched ++ [{ n := y.nextN, op := op, cmd := c }] }

end Machine

end Sys2Proof
end

