-- ==== Sys2Proof/Certificates/Slice0/Obligations.lean ====
section
/-! DEFINITION. The statements for the provers. Each formalises rules of the specification or says so in its docstring. -/

open Sys2Proof Sys2Proof.Machine

/-! ### The block -/

/-- A step takes the command at the front of the queue, and is its meaning on the rest; with nothing waiting the block
idles: the model's choice (log 1). -/
def Obligations.StepRunsFrontCommand : Prop :=
  (∀ (c : Instr) (rest : List Instr) (s : State),
    step { s with pending := c :: rest } = exec c { s with pending := rest }) ∧
  (∀ s : State, s.pending = [] → step s = .next s)

/-- The block never stops: every command answers a next state in every state, and no command touches the queue of
commands that wait. -/
def Obligations.EveryCommandAnswersNext : Prop :=
  ∀ (i : Instr) (s : State), ∃ t, exec i s = .next t ∧ t.pending = s.pending

/-- What a module reset leaves in the registers to which the tables of the manual give a reset value: Tables 2-1 to
2-4, 3-6, 4-3 to 4-7, 16-6, and BOOT (R25, R115); the invariants of the contract, the coefficients and the flash slots
hold there (R53, R64, R463; the contents of flash in reset are the model's choice, log 7). -/
def Obligations.ResetRegisterValues : Prop :=
  State.reset.core.mstate = .boot ∧ State.reset.led.contractOk ∧ State.reset.led.coefOk ∧ State.reset.fw.oneInForce ∧
  State.reset.tick.read 0x000 = 0 ∧ State.reset.tick.read 0x004 = 0 ∧ State.reset.tick.read 0x008 = 0x00FE502B ∧
  State.reset.tick.read 0x00C = 0x00FA05DC ∧ State.reset.tick.read 0x010 = 0x00000004 ∧
  State.reset.led.level = 0 ∧ State.reset.led.pending = none ∧
  State.reset.core.host.globals 0x1004 = 8 ∧ State.reset.core.host.globals 0x1008 = 0 ∧
  State.reset.core.host.windows = [] ∧
  ∀ q, (State.reset.core.q q).read true 0x00 = 0x001F0000 ∧ (State.reset.core.q q).read true 0x04 = 0x0F000000 ∧
    (State.reset.core.q q).read true 0x20 = 0 ∧ (State.reset.core.q q).read true 0x24 = 0x00010000 ∧
    (State.reset.core.q q).read true 0x28 = 0 ∧ (State.reset.core.q q).read true 0x2C = 0

/-- The read of TCK_COUNT_LO completes and latches the high word; TCK_COUNT_HI answers what was latched, never the current high
word; only another such read or a module reset, which leaves 0, changes it; no register write reaches the mirrors (R31, Tables 2-1 to
2-3). Stated of a module whose registers answer over BAR0. -/
def Obligations.TickCountReadLatches : Prop :=
  (∀ s : State, s.core.barOk 0 = true →
    exec .tckCountLoRead s = .next { s with tick := { s.tick with hiLatch := s.tick.count / 2 ^ 32 } }) ∧
  (∀ s : State, s.core.barOk 0 = true →
    s.read32 0 0 0x40000 = some (s.tick.count % 2 ^ 32) ∧ s.read32 0 0 0x40004 = some s.tick.hiLatch ∧
    s.read32 0 0 0x40008 = some (s.tick.period % 2 ^ 27) ∧
    s.read32 0 0 0x4000C = some (s.tick.hem % 2 ^ 11 * 2 ^ 16 + s.tick.cutoff % 2 ^ 13)) ∧
  (∀ (i : Instr) (s t : State), i ≠ .tckCountLoRead → exec i s = .next t →
    t.tick.hiLatch = s.tick.hiLatch ∨ (t.tick.hiLatch = 0 ∧ t.mod.inReset = true)) ∧
  (∀ (fn bar off size be : Nat) (v : DWord) (s t : State), exec (.registerWrite fn bar off size be v) s = .next t →
    t.tick = s.tick)

/-! ### Program commands -/

/-- The commands that only run steps complete their start: at hand, allowed and with operands that resolve, the command
leaves its ring or instance and its run is launched: MATMUL, CONV2D, DWCONV, ATTEND, TRANSPOSE, COPY, FILL; VEW, VRED, VWIN,
VSPREAD, VSFN, VTOPK, VNMS, VASSOC, VPOOL, VNORM, VSOFTMAX, VSCAN; QUANT, DEQUANT, RESCALE, CONVERT; EMIT, SHAPE, ROI_SET,
MOTION_EXPORT, CACHE_PUT, OPTIM_STEP, HOST_READ, HOST_WRITE. Where it has steps to run, there is one run more, in flight, with the
outputs that the body gave; no contents of a copy, no host memory, no partition, stream, clip, program or binding, and no
register of any queue but the fetched list of the command's own has changed; nor has anything outside the core. Only the pages that it
writes join their copies at once (R258). -/
def Obligations.StepCommandsLaunch : Prop :=
  (∀ row ∈ tensorRows ++ vectorRows ++ formatRows ++ otherRows, ∀ (c : Cmd) (s : State) (e : Env) (r : Run),
    Ready s row.op c e → row.body e s.core = .ok r → exec (row.row c) s = .next (s.launched s.core e r)) ∧
  (∀ row ∈ tensorRows ++ vectorRows ++ formatRows ++ otherRows, ∀ (c : Cmd) (s t : State) (e : Env) (r : Run),
    Ready s row.op c e → row.body e s.core = .ok r → (e.inFlight s.amb (s.core.take e) r).done = false →
    exec (row.row c) s = .next t →
    (∃ x : Run, t.core.runs = s.core.runs ++ [x] ∧ x = e.inFlight s.amb (s.core.take e) r ∧ x.outs = r.outs ∧ x.op = row.op ∧
      x.cmd = c ∧ x.active = []) ∧
    SameContents s.core t.core ∧ ((∀ o ∈ r.outs, o.pages = []) → t.core.copies = s.core.copies) ∧
    t.core.buffers = s.core.buffers ∧ t.core.host = s.core.host ∧
    t.core.parts = s.core.parts ∧ t.core.ctxs = s.core.ctxs ∧ t.core.clips = s.core.clips ∧
    t.core.programs = s.core.programs ∧ t.core.bindings = s.core.bindings ∧ t.core.mstate = s.core.mstate ∧
    (∀ q, (t.core.q q) = { s.core.q q with fetched := (t.core.q q).fetched }) ∧
    t = { s with core := t.core })

/-- NOP and FENCE complete at once with OK: their run has no step. SIGNAL adds its amount to an event counter, modulo
2^64; WAIT completes when the counter has reached its value, in an instance as where the builder stands at it, and is held below
it, with no effect (R107, Table 4-15). INVOKE makes one instance of the program, at its entry, with words 1 to 4 as its scalars
S0 to S3 (R102, R103), whether its row runs it or its fetch (CommandFetchTakesTheEntry); the builder goes over its commands, stands at
a control command, and the INVOKE completes when the instance ends. -/
def Obligations.RingControlCommandsComplete : Prop :=
  (∀ (c : Cmd) (s : State) (e : Env),
    (Ready s 0x0001 c e → exec (.nop c) s = .next (s.launched s.core e (quick 0))) ∧
    (Ready s 0x0002 c e → exec (.fence c) s = .next (s.launched s.core e (quick 0)))) ∧
  (∀ (c : Cmd) (s : State) (e : Env), e.deps s.core = .ok () →
    (Ready s 0x0003 c e →
      exec (.signal c) s = .next (s.launched (s.core.updPart e.part fun p =>
        { p with events := Tab.upd 0 p.events (e.word 0) fun v => v + e.value (e.word 1) }) e (quick 0))) ∧
    (Ready s 0x0004 c e → e.front = false →
      (e.value (e.word 1)).toNat ≤ (Tab.get 0 (s.core.part e.part).events (e.word 0)).toNat →
      exec (.wait c) s = .next (s.launched s.core e (quick 0)))) ∧
  (∀ (c : Cmd) (s : State) (e : Env) (i : Inst) (p : Program), ReadyIn s 0x0004 c e i p → e.front = true →
      (e.value (e.word 1)).toNat ≤ (Tab.get 0 (s.core.part e.part).events (e.word 0)).toNat →
      exec (.wait c) s = .next (s.moved i (i.advance e.idx i.loops))) ∧
  (∀ (c : Cmd) (s : State) (e : Env), Ready s 0x0004 c e →
      (Tab.get 0 (s.core.part e.part).events (e.word 0)).toNat < (e.value (e.word 1)).toNat → exec (.wait c) s = .next s) ∧
  (∀ (c : Cmd) (s : State) (e : Env) (p : Program), Ready s 0x000D c e → c.src = .ring e.q →
     s.core.progOf e.part (e.word 0) = .ok p →
     ∃ (t : State) (i : Inst), exec (.invoke c) s = .next t ∧
       t = s.finished ((s.core.activate e.part).addInst s.tick.count i) e none ∧
       Made s.core e p i ∧ i.tag = c.tag ∧ t.core.runs = s.core.runs ∧
       ((∀ j ∈ s.core.insts, j.id ≠ s.core.nextInst) → isControl (p.op p.entry) = true →
         t.core.insts = s.core.insts ++ [i]))

/-- BRANCH jumps exactly where its condition holds: always, equal, not equal, signed less, signed at least, unsigned
less, unsigned at least (Table 4-15). -/
def Obligations.BranchFollowsItsCondition : Prop :=
  ∀ (c : Cmd) (s : State) (e : Env) (i : Inst) (p : Program), ReadyIn s 0x0006 c e i p → e.sub ≤ 6 →
    (Holds e.sub (e.value (e.word 0)) (e.value (e.word 1)) →
      exec (.branch c) s = .next (s.moved i (i.jump (e.word 2))) ∧ (i.jump (e.word 2)).pc = e.word 2) ∧
    (¬ Holds e.sub (e.value (e.word 0)) (e.value (e.word 1)) →
      exec (.branch c) s = .next (s.moved i (i.advance e.idx i.loops)))

/-- SETS completes, once its operands are written, with the low 64 bits of the exact result for its scalar; whoever is owed that
scalar by this command has the value, and no other scalar changes (R105, R218, Table 4-15). -/
def Obligations.SetsWritesTheExactResult : Prop :=
  (∀ (c : Cmd) (s : State) (e : Env) (i : Inst) (p : Program), ReadyIn s 0x000A c e i p → s.core.gate e = .ok () →
    e.deps s.core = .ok () → e.sub ≤ 11 →
    exec (.sets c) s = .next (s.launched s.core e
      { quick 0 with scalar := some (e.word 0, setsExact e.sub (e.value (e.word 1)) (e.value (e.word 2))) })) ∧
  (∀ (i : Inst) (seq n : Nat) (v : DWord), (n, seq) ∈ i.owed →
    ∀ k, Tab.get 0 (i.wrote seq n (some v)).scalars k = if k = n then v else Tab.get 0 i.scalars k)

/-- LOOP enters its body with the count, or skips it for a count of 0; CALL pushes a return point below depth 8; RETURN
pops one, or ends the instance at depth 0; HALT ends it; TICKWAIT holds what follows to a tick. A CALL at depth 8, a LOOP
at nesting 4 and a LOOP above its planned maximum fail: the instance, where it goes on, records the first of these
failures (R104, R106, R107, Table 4-15). -/
def Obligations.ControlCommandsMoveOrFail : Prop :=
  (∀ (c : Cmd) (s : State) (e : Env) (i : Inst) (p : Program),
    (ReadyIn s 0x0007 c e i p → i.loops.length < 4 → 0 < (e.value (e.word 0)).toNat →
      (e.value (e.word 0)).toNat ≤ e.word 2 →
      exec (.loop c) s = .next (s.moved i
        { i with pc := e.idx + 1, loops := (e.idx + 1, e.word 1, (e.value (e.word 0)).toNat) :: i.loops })) ∧
    (ReadyIn s 0x0007 c e i p → i.loops.length < 4 → e.value (e.word 0) = 0 →
      exec (.loop c) s = .next (s.moved i (i.advance (e.word 1) i.loops))) ∧
    (ReadyIn s 0x0008 c e i p → i.calls.length < 8 →
      exec (.call c) s = .next (s.moved i { i with calls := e.idx :: i.calls, pc := e.word 0 })) ∧
    (ReadyIn s 0x0009 c e i p → i.calls = [] → exec (.return c) s = .next (s.moved i { i with halted := true })) ∧
    (∀ k r, ReadyIn s 0x0009 c e i p → i.calls = k :: r →
      exec (.return c) s = .next (s.moved i (({ i with calls := r } : Inst).advance k i.loops))) ∧
    (ReadyIn s 0x000C c e i p → exec (.halt c) s = .next (s.moved i { i with halted := true })) ∧
    (ReadyIn s 0x0005 c e i p → e.sub = 0 →
      exec (.tickwait c) s = .next (s.moved i { i.advance e.idx i.loops with tickWait := some (e.long 0) })) ∧
    (ReadyIn s 0x0005 c e i p → e.sub = 1 →
      exec (.tickwait c) s = .next (s.moved i
        { i.advance e.idx i.loops with tickWait := some ((s.tick.count : Int) + e.int 0).toNat }))) ∧
  (∀ (c : Cmd) (s t : State) (e : Env) (i j : Inst) (p : Program), i.failed = none →
    (ReadyIn s 0x0008 c e i p → 8 ≤ i.calls.length → exec (.call c) s = .next t → t.core.inst? i.id = some j →
      ∃ d, j.failed = some (e.idx, 0x0008, .malformed, d)) ∧
    (ReadyIn s 0x0007 c e i p → 4 ≤ i.loops.length → exec (.loop c) s = .next t → t.core.inst? i.id = some j →
      ∃ d, j.failed = some (e.idx, 0x0007, .malformed, d)) ∧
    (ReadyIn s 0x0007 c e i p → i.loops.length < 4 → e.word 2 < (e.value (e.word 0)).toNat → exec (.loop c) s = .next t →
      t.core.inst? i.id = some j → ∃ d, j.failed = some (e.idx, 0x0007, .shapeExceedsPlan, d)))

/-! ### Numbers and tensors -/

/-- A value that a floating format of Table 5-2 holds is written back as its own code, in either rounding mode, and does not
count as saturated: subnormals, both zeros, the largest finite and the infinities too (R124, R146). -/
def Obligations.FormatsHoldTheirOwnValues : Prop :=
  ∀ f ∈ [fE4M3, fE5M2, fE3M2, fE2M3, fE2M1, fBF16, fFP16, fFP32], ∀ (mode : Bool) (code : Nat),
    code < 2 ^ (1 + f.eb + f.mb) → f.decode code ≠ .nan → f.conv mode (f.decode code) = (code, false)

/-- R148: a conversion to INT16 and INT32, and the formation of UINT8 and UINT4 codes from quotient and zero point, round to
an integer in the mode of R145 and saturate to the range; a NaN becomes 0, or the zero-point code. -/
def Obligations.IntegerConversionsRoundAndSaturate : Prop :=
  ∀ (v : View) (mode : Bool) (r j : Nat),
    (isI v.dtype = true → (encElem v mode r j .nan).1 = 0 ∧
      (∀ neg, signed (bitsOf v.dtype) (encElem v mode r j (.inf neg)).1 =
        if neg then -(2 ^ (bitsOf v.dtype - 1) : Int) else 2 ^ (bitsOf v.dtype - 1) - 1) ∧
      ∀ neg m e n, RoundsTo mode neg m e n → signed (bitsOf v.dtype) (encElem v mode r j (.fin neg m e)).1 =
        max (-(2 ^ (bitsOf v.dtype - 1) : Int)) (min (2 ^ (bitsOf v.dtype - 1) - 1) n)) ∧
    (isU v.dtype = true → (encElem v mode r j .nan).1 = (v.scaleAt r j).2 ∧
      (∀ neg, (encElem v mode r j (.inf neg)).1 = if neg then 0 else 2 ^ bitsOf v.dtype - 1) ∧
      ∀ neg m e neg' m' e' n, div32 mode (.fin neg m e) (v.scaleAt r j).1 = .fin neg' m' e' → RoundsTo mode neg' m' e' n →
        ((encElem v mode r j (.fin neg m e)).1 : Int) = max 0 (min (2 ^ bitsOf v.dtype - 1) (n + (v.scaleAt r j).2)))

/-- Rows of codes read back as they were packed, element by element, whatever the width of an element and the pad at the end
of a row; a TRANSPOSED tensor reads the element stored with dimensions 0 and 1 exchanged (R127, R166). -/
def Obligations.RowsReadBackAsPacked : Prop :=
  ∀ (t d0 : Nat) (rows : List (List Nat)) (v : View), 1 ≤ t → t ≤ 0x10 →
    (∀ r ∈ rows, r.length = d0 ∧ ∀ x ∈ r, x < 2 ^ bitsOf t) → v.dtype = t →
    v.data = Memory.write [] 0 (packRows t rows) →
    (packRows t rows).length = rows.length * rowBytes t d0 ∧
    (v.trans = false → v.d0 = d0 → ∀ r j, r < rows.length → j < d0 → v.code r j = (rows.getD r []).getD j 0) ∧
    (v.trans = true → dim v.dims 1 = d0 → 0 < d0 → ∀ r j, j < v.d0 → j + v.d0 * (r / d0) < rows.length →
      v.code r j = (rows.getD (j + v.d0 * (r / d0)) []).getD (r % d0) 0)

/-- What three commands write, element by element. FILL writes its value to the rows that it is given, the low bits for
UINT and BYTES, the saturated value for integers; COPY writes the source's rows from its offset onward; VEW ADD, SUB and MUL
of integer tensors write the exact result, saturated to the range of the output, with or without a broadcast row. Every
element that is not written keeps its value. Stated of outputs, which are never TRANSPOSED (R166, R180, R181, R215, Table
8-3). -/
def Obligations.FillCopyAndVewWriteTheirElements : Prop :=
  (∀ (e : Env) (c : Core) (r : Run) (b : Arg), fillRun e c = .ok r → e.arg c 0 = .ok b → b.view.trans = false →
    (isU b.view.dtype = true ∨ isI b.view.dtype = true ∨ isBytes b.view.dtype = true) →
    ∃ o, r.outs.head? = some o ∧ o.part = b.buf.part ∧ o.buf = b.buf.num ∧ o.key = b.key ∧
      ∀ i j, i < b.view.rows → j < b.view.d0 →
        ({ b.view with data := o.data } : View).code i j =
          if e.sub = 0 ∨ (e.nat 2 ≤ i ∧ i < e.nat 2 + e.nat 3) then
            (if isI b.view.dtype = true then
              unsigned (bitsOf b.view.dtype) (max (-(2 ^ (bitsOf b.view.dtype - 1) : Int))
                (min (2 ^ (bitsOf b.view.dtype - 1) - 1) (e.value (e.word 1)).toInt))
            else (e.value (e.word 1)).toNat % 2 ^ bitsOf b.view.dtype)
          else b.view.code i j) ∧
  (∀ (e : Env) (c : Core) (r : Run) (a b : Arg), copyRun e c = .ok r → e.arg c 0 = .ok a → e.arg c 1 = .ok b →
    a.view.dtype = b.view.dtype → 1 ≤ b.view.dtype → b.view.dtype ≤ 0x10 → b.view.trans = false →
    ∃ o, r.outs.head? = some o ∧ o.part = b.buf.part ∧ o.buf = b.buf.num ∧ o.key = b.key ∧
      ∀ i j, i < b.view.rows → j < b.view.d0 →
        let first := if e.sub = 0 then 0 else (e.int 2).toNat
        ({ b.view with data := o.data } : View).code i j =
          if first ≤ i ∧ i < first + a.view.rows then a.view.code (i - first) j else b.view.code i j) ∧
  (∀ (e : Env) (c : Core) (r : Run) (x z y : Arg), vewRun e c = .ok r → e.sub ≤ 2 → e.flag 4 = false → e.flag 5 = false →
    e.arg c 0 = .ok x → e.arg c 1 = .ok z → e.arg c 2 = .ok y → isI x.view.dtype = true → isI z.view.dtype = true →
    isI y.view.dtype = true → x.view.group = 0 → x.view.hasRow = false → z.view.group = 0 → z.view.hasRow = false →
    y.view.trans = false →
    ∃ o, r.outs.head? = some o ∧ o.part = y.buf.part ∧ o.buf = y.buf.num ∧ o.key = y.key ∧
      ∀ i j, i < y.view.rows → j < y.view.d0 →
        let p := signed (bitsOf x.view.dtype) (x.view.code i j)
        let q := signed (bitsOf z.view.dtype) (z.view.code (if e.flag 6 = true then 0 else i) j)
        signed (bitsOf y.view.dtype) (({ y.view with data := o.data } : View).code i j) =
          max (-(2 ^ (bitsOf y.view.dtype - 1) : Int)) (min (2 ^ (bitsOf y.view.dtype - 1) - 1)
            (if e.sub = 0 then p + q else if e.sub = 1 then p - q else p * q)))

/-! ### Queues -/

/-- A doorbell value in range is recorded in a queue that is ENABLED or PAUSED, through the page of the function that
owns it: TAIL, HEAD of the completion ring with the slots it returns, HEAD of the result ring with the units it frees; no
other queue and nothing else changes; without a result ring the last one does nothing. A write to a DISABLED or FROZEN
queue, or through the page of a function that does not own it, is ignored and counted in DB_IGNORED, which saturates (R83,
R84, R87, R362). -/
def Obligations.DoorbellsAreRecordedOrCounted : Prop :=
  (∀ (fn slot q : Nat) (v : Word) (s : State) (y : Queue) (h : Nat), s.core.slotQ fn slot = some q → s.core.q q = y →
    y.func = fn → y.live →
    (h = v.toNat % 65536 → h < 2 ^ y.sqLog →
      exec (.doorbellSq fn slot v) s = .next (s.setQ q { y with sqTail := h })) ∧
    (h = v.toNat % 65536 → h < 2 ^ y.cqLog →
      exec (.doorbellCq fn slot v) s = .next (s.setQ q
        { y with cqHead := h, occ := returned (2 ^ y.cqLog) y.occ y.cqHead h y.cqTail })) ∧
    (h = v.toNat % 2 ^ 20 → y.rrLog ≠ 0xF → h < 2 ^ (16 + y.rrLog) / 64 →
      exec (.doorbellRr fn slot v) s = .next (s.setQ q
        { y with rrHead := h, rrUsed := returned (2 ^ (16 + y.rrLog) / 64) y.rrUsed y.rrHead h y.rrTail })) ∧
    (y.rrLog = 0xF → exec (.doorbellRr fn slot v) s = .next (s.setQ q y))) ∧
  (∀ (fn slot q : Nat) (v : Word) (s : State), s.core.slotQ fn slot = some q →
    ((s.core.q q).func ≠ fn ∨ (s.core.q q).state = .disabled ∨ (s.core.q q).state = .frozen) →
    ∀ i ∈ [Instr.doorbellSq fn slot v, .doorbellCq fn slot v, .doorbellRr fn slot v],
      exec i s = .next (s.setQ q { s.core.q q with dbIgnored := min 65535 ((s.core.q q).dbIgnored + 1) }))

/-- A TAIL of 2^SQ_LOG2 or more, a completion HEAD of 2^CQ_LOG2 or more and a result HEAD at or beyond the size of
the result ring freeze the queue: the value is discarded, a freeze record of kind 3 names queue, function, partition, tick
and value, and the freeze bit of HIF_ERR_CAUSE is set (R84, R121, R379). THAW releases a frozen queue or a frozen link
inbound master, and nothing else (R122): on sub-operation 0 a queue that still has ENABLE set runs again, a link master takes
flits again. -/
def Obligations.MastersFreezeAndThaw : Prop :=
  (∀ (fn slot q : Nat) (v : Word) (s : State) (i : Instr) (x : Nat), s.core.slotQ fn slot = some q →
     (s.core.q q).func = fn → (s.core.q q).live →
     (i = .doorbellSq fn slot v ∧ x = v.toNat % 65536 ∧ 2 ^ (s.core.q q).sqLog ≤ x ∨
       i = .doorbellCq fn slot v ∧ x = v.toNat % 65536 ∧ 2 ^ (s.core.q q).cqLog ≤ x ∨
       i = .doorbellRr fn slot v ∧ x = v.toNat % 2 ^ 20 ∧ (s.core.q q).rrLog ≠ 0xF ∧
         2 ^ (16 + (s.core.q q).rrLog) / 64 ≤ x) →
     ∃ t, exec i s = .next t ∧
       t.core.q q = { s.core.q q with state := .frozen, draining := false } ∧
       (∀ j, j ≠ q → t.core.q j = s.core.q j) ∧
       t.core.host.frzCount = s.core.host.frzCount + 1 ∧
       Tab.get [] t.core.host.frzLog (s.core.host.frzCount % 256) =
         freezeBytes 3 q fn (if (s.core.q q).part < 16 then (s.core.q q).part else 0xFF) s.tick.count x 0 ∧
       bitAt 0 t.core.host.errCause = true ∧ t = { s with core := t.core }) ∧
  (∀ (c : Cmd) (s : State) (e : Env), Ready s 0x8007 c e → e.inst = none →
     (∀ k, e.word 0 = 0 → e.word 1 = k → k < 4096 → k ≠ e.q → e.sub = 0 → (s.core.q k).state = .frozen →
       (s.core.q k).partGone = false → (s.core.q k).enable = true →
       ∃ t, exec (.thaw c) s = .next t ∧
         (t.core.q k).state = (if (s.core.q k).pause || !s.core.mastering (s.core.q k).func then .paused else .enabled) ∧
         (t.core.q k).fetched = (s.core.q k).fetched ∧ t = { s with core := t.core }) ∧
     (∀ p, e.word 0 = 1 → e.word 1 = p → p < 6 → (s.link.port p).frozen = true →
       ∃ t, exec (.thaw c) s = .next t ∧ t.core.mstate = s.core.mstate ∧
         t.link = s.link.updPort p fun y => { y with frozen := false }))

/-- An accepted write of ENABLE = 1 starts the queue: pointers, sequence, CPL_DROP and DB_IGNORED are 0, PHASE is 1,
and STATE is ENABLED, or PAUSED where PAUSE is set or the function does not master the bus; a refused one leaves it
DISABLED with CFG_ERR (R79, R80, R81). The other queues stay as they are. Writing ENABLE = 0 to a running queue stops
fetching at once: nothing that was fetched is left unstarted, and the queue is DRAINING; it is FROZEN where a completion of
what it held finds its ring outside the windows. A draining queue with nothing left reads DISABLED and its bindings end
(R82, R382). -/
def Obligations.QueuesStartAndDrain : Prop :=
  (∀ (fn slot q : Nat) (v : Word) (s : State), s.core.ownQ fn slot = some q → bitAt 13 v.toNat = true →
     (s.core.q q).state = .disabled →
     ∃ t, exec (.queueEnable fn slot v) s = .next t ∧ (∀ j, j ≠ q → t.core.q j = s.core.q j) ∧
       t = { s with core := { s.core with qs := t.core.qs } } ∧
       let k := ((s.core.setPartVec q v.toNat).setIvEn q (bitAt 15 v.toNat)).setPause q (bitAt 14 v.toNat)
       (k.enableOk q = true →
         (t.core.q q).sqHead = 0 ∧ (t.core.q q).cqHead = 0 ∧ (t.core.q q).cqTail = 0 ∧ (t.core.q q).seq = 0 ∧
         (t.core.q q).cplDrop = 0 ∧ (t.core.q q).dbIgnored = 0 ∧ (t.core.q q).phase = true ∧
         (t.core.q q).enable = true ∧ (t.core.q q).cfgErr = false ∧
         (t.core.q q).state = if bitAt 14 v.toNat || !s.core.mastering (s.core.q q).func then .paused else .enabled) ∧
       (k.enableOk q = false → (t.core.q q).state = .disabled ∧ (t.core.q q).cfgErr = true)) ∧
  (∀ (fn slot q : Nat) (v : Word) (s : State), s.core.ownQ fn slot = some q → bitAt 13 v.toNat = false →
    (s.core.q q).live → (s.core.q q).draining = false →
    ∃ t, exec (.queueDisable fn slot v) s = .next t ∧ (t.core.q q).fetched = [] ∧ (t.core.q q).enable = false ∧
      ((t.core.q q).draining = true ∨ (t.core.q q).state = .frozen) ∧ t.tick = s.tick ∧
      t.led = s.led ∧ t.dram = s.dram ∧ t.link = s.link ∧ t.mend = s.mend) ∧
  (∀ (q : Nat) (s : State), (s.core.q q).draining = true → s.core.qIdle q = true → s.core.clips = [] →
    ∃ t, exec (.queueDrained q) s = .next t ∧ (t.core.q q).state = .disabled ∧ (t.core.q q).draining = false ∧
      (∀ b ∈ t.core.bindings, b.queue = q → b.ending = true) ∧ t = { s with core := t.core })

/-- The writes of PAUSE, IV_EN and HIF_QOWN complete. PAUSE stops the fetching of a running queue and, written 0, resumes it
where the function masters the bus; in a DISABLED or FROZEN queue it is taken and the state stays; IV_EN is taken, but refused with
CFG_ERR where VECTOR lies outside the function's vectors in a queue that is not DISABLED; HIF_QOWN gives a DISABLED queue
to a VF in the lowest free slot of its map, or back to the PF, out of every map, and leaves a queue as it is that is not DISABLED
(R78, R80, R81, R375). -/
def Obligations.QueueFieldsTakeWrites : Prop :=
  (∀ (fn slot q : Nat) (s : State), s.core.ownQ fn slot = some q →
    (∀ p, (s.core.q q).live → exec (.queuePause fn slot p) s = .next (s.setQ q
      { s.core.q q with
        pause := p, state := if p || !s.core.mastering (s.core.q q).func then .paused else .enabled })) ∧
    (∀ p, ((s.core.q q).state = .disabled ∨ (s.core.q q).state = .frozen) → ∃ t, exec (.queuePause fn slot p) s = .next t ∧
      t.core.q q = { s.core.q q with pause := p } ∧ (∀ n, n ≠ q → t.core.q n = s.core.q n) ∧
      t = { s with core := { s.core with qs := t.core.qs } }) ∧
    (∀ b, (b = true → (s.core.q q).state = .disabled ∨ (s.core.q q).vector < vecCount (s.core.q q).func) →
      exec (.ivEnWrite fn slot b) s = .next (s.setQ q { s.core.q q with ivEn := b, cfgErr := (s.core.q q).cfgErr && !b })) ∧
    ((s.core.q q).state ≠ .disabled → vecCount (s.core.q q).func ≤ (s.core.q q).vector →
      exec (.ivEnWrite fn slot true) s = .next (s.setQ q { s.core.q q with cfgErr := true }))) ∧
  (∀ (q : Nat) (v : Word) (s : State), s.core.barOk 0 = true → 1 ≤ q → q < 4096 →
    (∀ (f j : Nat), (s.core.q q).state = .disabled → v.toNat % 32 = f → 1 ≤ f → f ≤ 16 → (s.core.q q).func ≠ f →
      s.core.freeSlot f = some j →
      ∃ t, exec (.hifQownWrite 0 q v) s = .next t ∧ t.core.q q = { s.core.q q with func := f } ∧
        t.core.vq f j = some q ∧ (∀ k < j, (s.core.vq f k).isSome = true) ∧ (∀ n, n ≠ q → t.core.q n = s.core.q n) ∧
        (∀ g k n, n ≠ q → g < 32 → k < 128 → s.core.vq g k = some n → t.core.vq g k = some n)) ∧
    ((s.core.q q).state = .disabled → v.toNat % 32 = 0 → (s.core.q q).func ≠ 0 →
      ∃ t, exec (.hifQownWrite 0 q v) s = .next t ∧ t.core.q q = { s.core.q q with func := 0 } ∧
        (∀ g k, t.core.vq g k ≠ some q) ∧ (∀ n, n ≠ q → t.core.q n = s.core.q n)) ∧
    ((s.core.q q).state ≠ .disabled → exec (.hifQownWrite 0 q v) s = .next s))

/-- A fetch reads the 32 bytes at SQ_HEAD; an entry that the ring's sources and field rules allow joins the fetched
commands, SQ_HEAD moves on by one in the ring and a completion slot is reserved; an INVOKE makes its instance at once (R102), which
joins those of the partition. A read that fails brings no command, and
the entry is fetched again after the next boundary. No entry is fetched while every slot of the completion ring is occupied
or reserved (R75, R85, R86, R89, R90, R95, R387). -/
def Obligations.CommandFetchTakesTheEntry : Prop :=
  (∀ (q t' : Nat) (s : State), s.core.mayFetch q = true →
    s.core.host.uncovered (s.core.q q).func false ((s.core.q q).sqBase + 32 * (s.core.q q).sqHead) 32 = none →
    s.core.newTag (s.core.q q).func = some t' →
    let x := parseCmd (.ring q) (Memory.read s.core.host.mem ((s.core.q q).sqBase + 32 * (s.core.q q).sqHead) 32)
    (ringCmdOk q x.1 x.2 = true → badHandle (s.core.q q).part x.1 x.2 = none →
      ∃ k : Core, k.q q = (s.core.q q).accepted x.1 x.2 ∧ (∀ j, j ≠ q → k.q j = s.core.q j) ∧ k.host.mem = s.core.host.mem ∧
        k = { s.core with qs := k.qs, host := k.host } ∧
        (x.1 ≠ 0x000D → exec (.commandFetch q .ok) s = .next { s with core := k }) ∧
        (x.1 = 0x000D → ∀ (e : Env) (p : Program), k.atHand s.tick.count 0x000D x.2 = some e → k.gate e = .ok () →
          k.progOf e.part (e.word 0) = .ok p → ∃ i, Made k e p i ∧ exec (.commandFetch q .ok) s =
            .next { s with core := (((k.activate e.part).addInst s.tick.count i).take e).defer e })) ∧
    (∀ r, r ≠ ReadEnd.ok → ∃ t, exec (.commandFetch q r) s = .next t ∧
        t.core.q q = { s.core.q q with refetch := true } ∧ (∀ j, j ≠ q → t.core.q j = s.core.q j))) ∧
  (∀ (q : Nat) (r : ReadEnd) (s : State), 2 ^ (s.core.q q).cqLog ≤ (s.core.q q).occ + (s.core.q q).reserved →
    exec (.commandFetch q r) s = .next s)

/-- A completion goes to CQ_TAIL with bit 0 of byte 30 equal to PHASE; CQ_TAIL moves on in the ring, and PHASE
inverts exactly when it wraps to 0 (R87). Stated of a queue whose function masters the bus and whose slot lies in its windows;
host memory outside the 32 bytes stays as it was. -/
def Obligations.CompletionsCarryThePhase : Prop :=
  ∀ (k : Core) (q : Nat) (x : Cpl), k.mastering (k.q q).func = true →
    k.host.uncovered (k.q q).func true ((k.q q).cqBase + 32 * (k.q q).cqTail) 32 = none →
    (k.putCpl q x).host.mem = Memory.write k.host.mem ((k.q q).cqBase + 32 * (k.q q).cqTail)
      (cplBytes x.tag (statusCode x.status) q x.tick x.planned x.measured x.detail (k.q q).seq (k.q q).phase x.inst) ∧
    (cplBytes x.tag (statusCode x.status) q x.tick x.planned x.measured x.detail (k.q q).seq (k.q q).phase
      x.inst).length = 32 ∧
    (Memory.byte (k.putCpl q x).host.mem ((k.q q).cqBase + 32 * (k.q q).cqTail + 30)).toNat % 2 =
      (k.q q).phase.toNat ∧
    ((k.putCpl q x).q q).cqTail = ((k.q q).cqTail + 1) % 2 ^ (k.q q).cqLog ∧
    (((k.putCpl q x).q q).phase = if ((k.q q).cqTail + 1) % 2 ^ (k.q q).cqLog = 0 then !(k.q q).phase else (k.q q).phase)

/-! ### The host interface -/

/-- A completion that brings the last bytes of a read frees its tag; a run whose steps are over and that waits for this
read alone has ended, one that waits for more goes on waiting for one read less (R385). -/
def Obligations.ReadCompletionLands : Prop :=
  ∀ (fn tag : Nat) (s : State) (d : Rd) (r : Run), s.core.rd? fn tag = some d → d.quarantine = false →
    s.core.run? d.run = some r →
    ∃ t, exec (.hostReadCompletion fn tag) s = .next t ∧ t.core.rd? fn tag = none ∧ t = { s with core := t.core } ∧
      (({ r with reads := r.reads - 1 } : Run).done = true → t.core.run? d.run = none) ∧
      (({ r with reads := r.reads - 1 } : Run).done = false → t.core.run? d.run = some { r with reads := r.reads - 1 } ∧
        t.core.host.mem = s.core.host.mem ∧ t.core.copies = s.core.copies)

/-- A read that fails ends its command: its run is gone, the failure is counted, and its tag is quarantined after a
timeout and after poison that is not the last completion, and free again otherwise; HRD_ERR is set. A late completion of a
quarantined tag is discarded and ends the quarantine; it counts in LATE unless it is the rest of a poisoned read. Twice the
timeout after its request the tag is free without one (R386 to R388). -/
def Obligations.FailedReadsAndQuarantine : Prop :=
  (∀ (fn tag : Nat) (s : State) (d : Rd), s.core.rd? fn tag = some d → d.quarantine = false →
    (∃ t x, exec (.completionTimeout fn tag) s = .next t ∧ t.core.run? d.run = none ∧
      t.core.rd? fn tag = some x ∧ x.quarantine = true ∧ t.core.host.timeouts = min 255 (s.core.host.timeouts + 1) ∧
      bitAt 3 t.core.host.errCause = true) ∧
    (∃ t, exec (.hostReadErrorCompletion fn tag .ur) s = .next t ∧ t.core.run? d.run = none ∧ t.core.rd? fn tag = none ∧
      t.core.host.ur = min 255 (s.core.host.ur + 1) ∧ bitAt 3 t.core.host.errCause = true) ∧
    (∃ t, exec (.hostReadErrorCompletion fn tag .ca) s = .next t ∧ t.core.run? d.run = none ∧ t.core.rd? fn tag = none ∧
      t.core.host.ca = min 255 (s.core.host.ca + 1) ∧ bitAt 3 t.core.host.errCause = true) ∧
    (∃ t, exec (.hostReadErrorCompletion fn tag (.poison true)) s = .next t ∧ t.core.run? d.run = none ∧
      t.core.rd? fn tag = none ∧ t.core.host.poisoned = min 255 (s.core.host.poisoned + 1)) ∧
    (∃ t x, exec (.hostReadErrorCompletion fn tag (.poison false)) s = .next t ∧ t.core.run? d.run = none ∧
      t.core.rd? fn tag = some x ∧ x.quarantine = true ∧ x.poisoned = true ∧
      t.core.host.poisoned = min 255 (s.core.host.poisoned + 1))) ∧
  (∀ (fn tag : Nat) (s : State) (d : Rd), s.core.rd? fn tag = some d → d.quarantine = true →
    (∃ t, exec (.lateCompletion fn tag) s = .next t ∧ t.core.rd? fn tag = none ∧ t.core.host.mem = s.core.host.mem ∧
      t.core.copies = s.core.copies ∧ t.core.runs = s.core.runs ∧
      t.core.host.late = if d.poisoned then s.core.host.late else min 65535 (s.core.host.late + 1)) ∧
    exec (.quarantineExpiry fn tag) s = .next { s with core := s.core.dropRd fn tag } ∧
    (s.core.dropRd fn tag).rd? fn tag = none)

/-- When a function stops mastering the bus, by its bus-master enable or in D3hot, none of its queues is ENABLED any
more and every read it has outstanding is quarantined. When it masters again, its held writes, if the windows still hold them, reach
host memory in their order and none is left held, no vector of it is owed a message, and its queues run again unless PAUSE is set; a return to D0
without bus-master enable only returns (R373, R389, R391). -/
def Obligations.BusMasterOffPausesOnResumes : Prop :=
  (∀ (fn : Nat) (s : State), fn ≤ 16 → s.core.mastering fn = true →
    (∃ t, exec (.busMasterDisable fn) s = .next t ∧ (t.core.fn fn).bme = false ∧
      (∀ q, (s.core.q q).func = fn → (t.core.q q).state ≠ .enabled) ∧
      (∀ r ∈ t.core.host.reads, r.fn = fn → r.quarantine = true) ∧ t = { s with core := t.core }) ∧
    (∃ t, exec (.d3hotEntry fn) s = .next t ∧ (t.core.fn fn).d3 = true ∧
      (∀ q, (s.core.q q).func = fn → (t.core.q q).state ≠ .enabled) ∧
      (∀ r ∈ t.core.host.reads, r.fn = fn → r.quarantine = true) ∧ t = { s with core := t.core })) ∧
  (∀ (fn : Nat) (s : State), fn ≤ 16 →
    ((s.core.fn fn).d3 = false → ((s.core.fn fn).mse = true ∨ (s.core.fn fn).woken = false) → (s.core.fn fn).flr = false →
      s.core.host.linkUp = true → (∀ w ∈ s.core.host.held, w.fn = fn → s.core.host.uncovered fn true w.addr w.data.length = none) →
      ∃ t, exec (.busMasterEnable fn) s = .next t ∧ (t.core.fn fn).bme = true ∧
        t.core.host.held = s.core.host.held.filter (·.fn != fn) ∧
        t.core.host.mem = (s.core.host.held.filter (·.fn == fn)).foldl (fun m w => Memory.write m w.addr w.data) s.core.host.mem ∧
        (∀ v < 4096, (t.core.vec fn v).owed = false) ∧
        (∀ q, (s.core.q q).func = fn → (s.core.q q).state = .paused → (s.core.q q).pause = false →
          (t.core.q q).state = .enabled) ∧ t = { s with core := t.core }) ∧
    ((s.core.fn fn).bme = true → (s.core.fn fn).mse = true → (s.core.fn fn).flr = false → s.core.host.linkUp = true →
      ∃ t, exec (.d0Return fn) s = .next t ∧ (t.core.fn fn).d3 = false ∧
        t.core.host.held = s.core.host.held.filter (·.fn != fn) ∧ t = { s with core := t.core }) ∧
    ((s.core.fn fn).bme = false → exec (.d0Return fn) s = .next { s with core := s.core.updFn fn fun x => { x with d3 := false } }))

/-- A VF FLR gives every queue of the VF back to the PF with its configuration at reset, empties the VF's queue map and
its held writes, and resets its configuration space; when its reads have been waited for, or 50 ms after it began, the
function answers again (R393). -/
def Obligations.VfFlrResetsTheFunction : Prop :=
  (∀ (fn : Nat) (s : State), 1 ≤ fn → fn ≤ 16 → ∃ t, exec (.vfFlr fn) s = .next t ∧
    (∀ q, (s.core.q q).func = fn → t.core.q q = { nextN := (s.core.q q).nextN, base := (s.core.q q).nextN }) ∧
    (∀ k < 128, t.core.vq fn k = none) ∧ (∀ w ∈ t.core.host.held, w.fn ≠ fn) ∧ (t.core.fn fn).bme = false ∧
    (t.core.fn fn).mse = false ∧ t = { s with core := t.core }) ∧
  (∀ (fn : Nat) (s : State), (s.core.fn fn).flr = true → ∃ t, exec (.flrReadWaitExpiry fn) s = .next t ∧
    (t.core.fn fn).flr = false ∧ (∀ r ∈ t.core.host.reads, r.fn = fn → r.quarantine = true) ∧
    t.core.copies = s.core.copies ∧ t.core.runs = s.core.runs)

/-- A PF FLR, a hot reset, PERST# and the loss of the link reset every queue of every function, VF Enable, the window
table, HIF_ERR_VEC and HIF_INTAKE; with PERST# or a lost link no request is made until the link is up. A retrain or a
released PERST# brings the link up at a generation and width, outside a module reset, and the planning rate is that of Table 16-1 (R369, R392,
R394, R395). -/
def Obligations.FundamentalResetsAndTraining : Prop :=
  (∀ (s : State) (i : Instr), s.core.mstate ≠ .off → i ∈ [Instr.pfFlr, .hotReset, .perstAssert, .pcieLinkDown] →
    ∃ t, exec i s = .next t ∧
      (∀ q, (s.core.q q).func ≤ 16 → t.core.q q = { nextN := (s.core.q q).nextN, base := (s.core.q q).nextN }) ∧
      t.core.host.vfEnable = false ∧ t.core.host.windows = [] ∧ t.core.host.errVec = 0 ∧ t.core.host.intake = 8 ∧
      t.tick = s.tick ∧ t.led = s.led ∧ t.dram = s.dram ∧ t.link = s.link ∧ t.mend = s.mend ∧
      ((i = .perstAssert ∨ i = .pcieLinkDown) → t.core.host.linkUp = false ∧ (∀ f, t.core.mastering f = false) ∧
        t.core.host.mem = s.core.host.mem) ∧
      (i = .perstAssert → t.core.host.perst = true)) ∧
  (∀ (gen width : Nat) (s : State), trainOk gen width = true →
    (s.core.host.perst = false → s.mod.inReset = false → exec (.pcieRetrain gen width) s =
      .next { s with core := s.core.updHost fun h => { h with linkUp := true, gen := gen, width := width } }) ∧
    (s.core.host.perst = true → exec (.perstDeassert gen width) s =
      .next { s with core := s.core.updHost fun h => { h with perst := false, linkUp := !s.mod.inReset, gen := gen, width := width } }) ∧
    (hostRate 6 16 = 1210 ∧ hostRate 5 16 = 590 ∧ hostRate 5 8 = 295 ∧ hostRate 4 4 = 73 ∧ hostRate 1 4 = 9))

/-- After 1 µs a delayed message is sent, once, and the vector is held for another 1 µs; unmasking a vector with its
pending bit set sends one message and clears the bit (R383). -/
def Obligations.MessagesAreSentOnce : Prop :=
  ∀ (fn v : Nat) (s : State), s.core.mastering fn = true → (s.core.fn fn).msixEn = true → (s.core.fn fn).fnMask = false →
    ((s.core.vec fn v).delayed = true → (s.core.vec fn v).masked = false →
      ∃ t, exec (.msixRateLimitRelease fn v) s = .next t ∧
        t.core.vec fn v = { s.core.vec fn v with delayed := false, hold := true, sent := (s.core.vec fn v).sent + 1 } ∧
        t = { s with core := { s.core with host := { s.core.host with vecs := t.core.host.vecs } } }) ∧
    ((s.core.vec fn v).delayed = false →
      ∃ t, exec (.msixRateLimitRelease fn v) s = .next t ∧ t.core.vec fn v = { s.core.vec fn v with hold := false }) ∧
    (s.core.barOk fn = true → v < vecCount fn → (s.core.vec fn v).pending = true → (s.core.vec fn v).hold = false →
      ∃ t, exec (.msixUnmask fn v) s = .next t ∧ t.core.vec fn v =
        { s.core.vec fn v with masked := false, pending := false, hold := true, sent := (s.core.vec fn v).sent + 1 })

/-- A write of a form other than an aligned one of 4 bytes, or of 8, with every byte enable of a DWORD set changes
nothing (R377). HIF_QSIZE of a DISABLED queue takes a write, reads back what was written with 0 in the reserved bits, and no
other queue changes; in any other state the write is ignored. HIF_ERR_CAUSE clears the bits written as 1, HIF_INTAKE takes 4
to 32 and ignores anything else, and a host window entry reads back its page address (R10, R78, Tables 0-3, 4-4, 16-6,
16-8). -/
def Obligations.RegisterWritesReadBack : Prop :=
  (∀ (fn bar off size be : Nat) (v : DWord) (s : State),
     ((size ≠ 4 ∧ size ≠ 8) ∨ (size = 4 ∧ (off % 4 ≠ 0 ∨ be % 16 ≠ 15)) ∨
       (size = 8 ∧ (off % 8 ≠ 0 ∨ (be % 16 ≠ 15 ∧ be / 16 % 16 ≠ 15)))) →
     exec (.registerWrite fn bar off size be v) s = .next s) ∧
  (∀ (q : Nat) (v : DWord) (s : State), s.core.ownQ 0 q = some q → v.toNat < 2 ^ 32 →
    ((s.core.q q).state = .disabled → ∃ t, exec (.registerWrite 0 0 (0x100000 + 256 * q + 4) 4 0xF v) s = .next t ∧
      t.read32 0 0 (0x100000 + 256 * q + 4) =
        some (v.toNat / 2 ^ 24 % 16 * 2 ^ 24 + v.toNat / 2 ^ 16 % 32 * 2 ^ 16 + v.toNat % 32) ∧
      (∀ j, j ≠ q → t.core.q j = s.core.q j) ∧ t = { s with core := { s.core with qs := t.core.qs } }) ∧
    ((s.core.q q).state ≠ .disabled → ∃ t, exec (.registerWrite 0 0 (0x100000 + 256 * q + 4) 4 0xF v) s = .next t ∧
      t.core.q q = s.core.q q)) ∧
  (∀ (v : DWord) (s : State), s.core.barOk 0 = true → v.toNat < 2 ^ 32 →
    (∃ t, exec (.registerWrite 0 0 0x1008 4 0xF v) s = .next t ∧
      (∀ b < 5, bitAt b t.core.host.errCause = (bitAt b s.core.host.errCause && !bitAt b v.toNat)) ∧
      t = { s with core := { s.core with host := { s.core.host with errCause := t.core.host.errCause } } }) ∧
    (4 ≤ v.toNat % 64 → v.toNat % 64 ≤ 32 → exec (.registerWrite 0 0 0x1004 4 0xF v) s =
      .next { s with core := s.core.updHost fun h => { h with intake := v.toNat % 64 } }) ∧
    ((v.toNat % 64 < 4 ∨ 32 < v.toNat % 64) → exec (.registerWrite 0 0 0x1004 4 0xF v) s = .next s) ∧
    (∀ k < 256, ∃ t, exec (.registerWrite 0 0 (0x10000 + 32 * k) 4 0xF v) s = .next t ∧
      t.read32 0 0 (0x10000 + 32 * k) = some (v.toNat / 4096 * 4096) ∧
      (∀ j, j ≠ k → Tab.get {} t.core.host.windows j = Tab.get {} s.core.host.windows j)))

/-! ### Tick and ledger -/

/-- A boundary begins the next tick: the count rises by one, TICK_OUT has one edge more, the sheaf of the new tick is in
force and its own build and seal are still to come, and a contract or a schedule whose effective tick has come takes
effect; a follower keeps its link as its source (R24, R30, R40, R70, R434). Stated of a module that holds no TICK flit and no routing table to adopt; a boundary
that an edge is to make waits for it (R27). -/
def Obligations.TickBoundaryBeginsTheNextTick : Prop :=
  ∀ (m : Boundary) (s : State), mlive s.core.mstate = true → (s.tick.waits = true → s.tick.due = true) →
    s.tick.heard = none → s.link.pending = none → s.link.masterDue = false →
    ∃ t, exec (.tickBoundary m) s = .next t ∧ t.tick.count = s.tick.count + 1 ∧ t.tick.outEdges = s.tick.outEdges + 1 ∧
      t.tick.sealed = false ∧ t.tick.cutPassed = false ∧ t.tick.due = false ∧
      t.led.contract = s.led.contractAt (s.tick.count + 1) ∧ t.tick.period = s.tick.periodAt (s.tick.count + 1) ∧
      (∀ x, s.tick.change = some x → x.effTick ≤ s.tick.count + 1 →
        t.tick.source = (if s.tick.follower then s.tick.source else x.source) ∧ t.tick.cutoff = x.cutoff ∧ t.tick.hem = x.hem ∧ t.tick.change = none) ∧
      t.led.planned = min 0xFFFFFFFF (toGrains s.led.sheafPlan + s.led.floorEst) ∧ t.led.measured = m.energy

/-- An edge within 5 µs of the expected instant fixes the boundary there; one that comes earlier is ignored and counted;
without one the window's end makes the boundary and the lock is lost; after eight good edges an edge one period after the
last, within 5 µs, that follows the expected instant re-locks (R27, R28). -/
def Obligations.TickInEdgesMakeBoundaries : Prop :=
  ∀ (n : Nat) (s : State), mlive s.core.mstate = true → s.tick.source = 1 → s.tick.due = false →
    (s.tick.locked = true → s.tick.period ≤ n + 5000 → n ≤ s.tick.period + 5000 →
      exec (.tickInEdge n) s = .next { s with tick := { s.tick with due := true, dueAt := n } }) ∧
    (s.tick.locked = true → n + 5000 < s.tick.period →
      exec (.tickInEdge n) s =
        .next { s with tick := { s.tick with inMissed := min 255 (s.tick.inMissed + 1) } }) ∧
    (s.tick.locked = true → ∃ t, exec .tickInWindowExpiry s = .next t ∧ t.tick.due = true ∧
      t.tick.dueAt = s.tick.period + 5000 ∧ t.tick.locked = false ∧
      t.tick.inMissed = min 255 (s.tick.inMissed + 1) ∧ t = { s with tick := t.tick }) ∧
    (s.tick.locked = false → 8 ≤ s.tick.goodEdges → s.tick.period < n → n < 2 * s.tick.period →
      (∃ l, s.tick.lastEdge = some l ∧ s.tick.spaced l n = true) →
      ∃ t, exec (.tickInRelock n) s = .next t ∧ t.tick.due = true ∧ t.tick.dueAt = n ∧ t.tick.locked = true ∧
        t = { s with tick := t.tick })

/-- TICK_SET schedules its change for the effective tick, at least two ticks ahead, four for a tick master; values out
of range, a follower and a link source without a chain are refused with no effect on the schedule. In range are a period of
1 ms to 100 ms, a cut-off of 500 µs to 5,000 µs and at most half the period, a hem of 120 µs to 2,000 µs and at most a
quarter of it (R25, R29, R30, R491). -/
def Obligations.TickSetSchedules : Prop :=
  (∀ (c : Cmd) (s : State) (e : Env), Ready s 0x8009 c e →
    (tickOk (e.word 0) (e.word 1 % 65536) (e.word 1 / 65536) = true → s.tick.follower = false →
      (e.sub = 2 → s.link.formed = true) →
      let eff := max (e.long 2) (e.now + if s.link.isMaster then 4 else 2)
      let x : TickChange :=
        { source := e.sub, period := e.word 0, cutoff := e.word 1 % 65536, hem := e.word 1 / 65536, effTick := eff }
      exec (.tickSet c) s =
        .next (({ s with tick := { s.tick with change := some x } } : State).launched s.core e (quick (eff % 2 ^ 32)))) ∧
    ((tickOk (e.word 0) (e.word 1 % 65536) (e.word 1 / 65536) = false ∨ s.tick.follower = true) →
      ∀ t, exec (.tickSet c) s = .next t → t.tick = s.tick)) ∧
  (∀ period cutoff hem, tickOk period cutoff hem = true ↔
    (1000000 ≤ period ∧ period ≤ 100000000) ∧ (500 ≤ cutoff ∧ cutoff ≤ 5000 ∧ 2 * (1000 * cutoff) ≤ period) ∧
      (120 ≤ hem ∧ hem ≤ 2000 ∧ 4 * (1000 * hem) ≤ period))

/-- LEDGER_SET schedules the contract of word 0, or the strap contract on sub-operation 1, for its effective tick, at
least two ticks ahead, in place of a change not yet in effect; below 40 W or above the strap contract it is refused and
the ledger stays as it was (R69, R70). -/
def Obligations.LedgerSetSchedules : Prop :=
  ∀ (c : Cmd) (s : State) (e : Env), Ready s 0x8008 c e →
    let eff := max (e.long 1) (e.now + 2)
    (e.sub = 0 → 40 ≤ e.word 0 → e.word 0 ≤ strapW s.led.strap →
      exec (.ledgerSet c) s = .next (({ s with led := { s.led with pending := some (e.word 0, eff) } } : State).launched
        s.core e (quick (eff % 2 ^ 32)))) ∧
    (e.sub = 1 → exec (.ledgerSet c) s =
      .next (({ s with led := { s.led with pending := some (strapW s.led.strap, eff) } } : State).launched
        s.core e (quick (eff % 2 ^ 32)))) ∧
    (e.sub = 0 → (e.word 0 < 40 ∨ strapW s.led.strap < e.word 0) →
      ∀ t, exec (.ledgerSet c) s = .next t → t.led = s.led)

/-- What every step keeps of the contract: it lies between 40 W and the contract of the strap, and so does one that is
scheduled (R53, R69). -/
def Obligations.ContractStaysUnderTheStrap : Prop :=
  ∀ s t : State, s.led.contractOk → step s = .next t → t.led.contractOk

/-- R479: the straps are sampled at the end of a module reset, PWR_SEL for the contract of R53, TICK_MASTER, and
RECOVERY#, which sends the module to RECOVERY, with reason 1; without it a module that finds neither directory copy usable goes there
with reason 2 (Table 20-10); no other command changes what was sampled, but the beginning of a module
reset. -/
def Obligations.StrapsAreSampledAtReset : Prop :=
  (strapW 0 = 75 ∧ strapW 1 = 150 ∧ strapW 2 = 250 ∧ strapW 3 = 75) ∧
  (∀ (st : Straps) (ok : Bool) (s : State), s.core.mstate = .boot → s.mod.inReset = true → s.mod.pwrgd = true →
    ∃ t, exec (.moduleResetEnd st ok) s = .next t ∧ t.led.strap = st.pwrSel % 4 ∧
      t.led.contract = strapW (st.pwrSel % 4) ∧ t.link.strap = st.tickMaster ∧ t.mod.straps = st ∧
      t.mod.inReset = false ∧ (st.recovery = true → t.core.mstate = .recovery ∧ t.fw.reason = 1) ∧
      (st.recovery = false → s.fw.dirUsable = false → t.core.mstate = .recovery ∧ t.fw.reason = 2)) ∧
  (∀ (i : Instr) (s t : State), (∀ st ok, i ≠ .moduleResetEnd st ok) → exec i s = .next t →
    (t.led.strap = s.led.strap ∧ t.link.strap = s.link.strap ∧ t.mod.straps = s.mod.straps) ∨ t.mod.inReset = true)

/-- Every coefficient that calibration has set lies between ceil(v / 2) and 4 × v, v being the value of the LEDGERTAB
image in force, and every step keeps it there (R64). -/
def Obligations.CoefficientsStayInRange : Prop :=
  ∀ s t : State, s.led.coefOk → step s = .next t → t.led.coefOk

/-- Where a limit of the strap is exceeded, the governor raises its stall level by one up to 4; where both averages are calm
it lowers it by one down to 0; the largest level of the tick is kept, and the steps that run are marked as lengthened; no
step leaves a level above 4. The limits are the ceiling of the strap, 6,250, 12,500 or 20,833 mA, over 1 ms and 1.25 times
it over 10 µs (R65, R66, Tables 3-1 and 3-3). -/
def Obligations.GovernorLevels : Prop :=
  (∀ (ms1 us10 : Nat) (s : State), s.core.mstate ≠ .off →
    (s.led.exceeded ms1 us10 = true → ∃ t, exec (.governorRaise ms1 us10) s = .next t ∧ t.led.level = min 4 (s.led.level + 1) ∧
      t.led.levelMax = max s.led.levelMax (min 4 (s.led.level + 1)) ∧
      (∀ r ∈ t.core.runs, ∀ a ∈ r.active, a.stalled = true) ∧
      t = { s with core := { s.core with runs := t.core.runs }, led := t.led }) ∧
    (s.led.calm ms1 us10 = true →
      exec (.governorLower ms1 us10) s = .next { s with led := { s.led with level := s.led.level - 1 } })) ∧
  (∀ (ms1 us10 : Nat) (l : Ledger), l.exceeded ms1 us10 = true ↔
    (if l.strap = 1 then 12500 else if l.strap = 2 then 20833 else 6250) < ms1 ∨
    5 * (if l.strap = 1 then 12500 else if l.strap = 2 then 20833 else 6250) < 4 * us10) ∧
  (∀ s t : State, s.led.level ≤ 4 → s.led.levelMax ≤ 4 → step s = .next t → t.led.level ≤ 4 ∧ t.led.levelMax ≤ 4)

/-- The cut-off builds once per tick, a sheaf after each of the four passes: the budget of the next tick follows from its contract,
its period and Vb, 1000 grains to a watt over a millisecond at 12 V and in proportion below; pass 1 is never refused, and where it
costs more than the budget leaves nothing else is planned, and what is new is refused (R32, R34, R54, R57, R59). The seal closes the sheaf: the last complete
one, whose instances are admitted, or a bare one, which admits none (R35). -/
def Obligations.CutOffAndSeal : Prop :=
  (∀ (b : Build) (s : State), mlive s.core.mstate = true → s.tick.cutPassed = false → s.tick.sealed = false →
    ∃ t, exec (.cutOff b) s = .next t ∧ t.tick = { s.tick with cutPassed := true, plan := t.tick.plan, made := t.tick.made } ∧
      t.tick.plan.length = 4 ∧
      (∀ vb, s.led.vbLast = some vb → t.led.nextVb = vb ∧
        t.led.nextBudget = budgetOf (s.led.contractAt (s.tick.count + 1)) vb (s.tick.periodAt (s.tick.count + 1))) ∧
      (t.led.nextShort = true ↔
        plannable t.led.nextBudget t.led.nextFloor * 2 ^ 24 < (t.tick.plan.headD {}).cost t.led.ambNext) ∧
      (t.led.nextShort = true → ∀ h ∈ t.tick.plan, h = { t.tick.plan.headD {} with refused := h.refused }) ∧
      t.dram = s.dram ∧ t.mend = s.mend ∧ t.fw = s.fw ∧ t.mod = s.mod) ∧
  (∀ (done : Nat) (s : State), mlive s.core.mstate = true → s.tick.sealed = false →
    ∃ t, exec (.sealDeadline done) s = .next t ∧ t.tick.sealed = true ∧
      (t.tick.sealedBare = true ↔ ¬ (done ≠ 0 ∧ s.tick.cutPassed = true ∧ 2 ∉ s.fw.reload)) ∧
      (t.tick.sealedBare = true → t.tick.nextSheaf.insts = []) ∧
      (t.tick.sealedBare = false → t.tick.nextSheaf = s.tick.plan.getD (min done 4 - 1) {}) ∧
      t.led.nextPlan = t.tick.nextSheaf.cost t.led.ambNext ∧
      (∀ i ∈ t.core.insts, (∃ y ∈ t.tick.nextSheaf.insts, y.1 = i.id) → i.admitted = true)) ∧
  (∀ watts vb period, budgetOf watts vb period =
    ((if vb < 12000 then 1000 * watts * vb / 12000 else 1000 * watts) * period + 500000) / 1000000)

/-! ### The module -/

/-- Supply and reset complete: VIN at 11.4 V powers an OFF module whose THERMTRIP# is released, PWRGD is released, RESET_N held for
10 µs resets the module and keeps its SMBus address, an undervoltage and a thermal trip turn the rails off and lose it, and only the
removal of VIN releases the THERMTRIP# of a module that is off (R481 to R484). Flash, fuses, host memory and the darning map outlive
each of these. -/
def Obligations.SupplyAndReset : Prop :=
  (∀ (mv : Nat) (s : State), s.core.mstate = .off → s.mod.thermtrip = false → 11400 ≤ mv →
    exec (.vinRise mv) s = .next { s with
      core := { s.core with mstate := .boot }, mod := { s.mod with vin := true, inReset := true, pwrgd := false } }) ∧
  (∀ (mv : Nat) (s : State), s.mod.thermtrip = true → exec (.vinRise mv) s = .next s) ∧
  (∀ (i : Instr) (s t : State), i ≠ .thermtripRelease → s.core.mstate = .off → s.mod.thermtrip = true → exec i s = .next t →
    t.mod.thermtrip = true) ∧
  (∀ s : State, s.core.mstate ≠ .off →
    exec .pwrgdRelease s = .next { s with mod := { s.mod with pwrgd := true } } ∧
    (∀ ns, 10000 ≤ ns → ∃ t, exec (.resetNAssert ns) s = .next t ∧ t.core.mstate = .boot ∧ t.mod.inReset = true ∧
      t.mod.smbus = s.mod.smbus ∧ t.tick = {} ∧ t.led = {} ∧ t.core.runs = [] ∧ t.core.qs = [] ∧ t.core.parts = [] ∧
      Outlives s t) ∧
    (∃ t, exec .undervoltage s = .next t ∧ t.core.mstate = .off ∧ t.mod.inReset = true ∧ t.mod.pwrgd = false ∧ t.mod.vin = false ∧
      t.mod.smbus = none ∧ t.core.runs = [] ∧ Outlives s t) ∧
    (∃ t, exec .thermalTrip s = .next t ∧ t.core.mstate = .off ∧ t.mod.inReset = true ∧ t.mod.pwrgd = false ∧
      t.mod.thermtrip = true ∧ t.mod.smbus = none ∧ Outlives s t)) ∧
  (∀ s : State, s.mod.thermtrip = true →
    exec .thermtripRelease s = .next { s with mod := { s.mod with thermtrip := false, vin := false } })

/-- R434: every boundary carries one edge of TICK_OUT, whatever the source and the length of the tick that it closes; the
start of tick 0, when BOOT ends in READY, carries one; and no other command makes an edge: it leaves their number as it was,
or the module is in reset. -/
def Obligations.EachBoundaryCarriesOneEdge : Prop :=
  (∀ (m : Boundary) (s : State), mlive s.core.mstate = true → (s.tick.waits = true → s.tick.due = true) →
    ∃ t, exec (.tickBoundary m) s = .next t ∧ t.tick.outEdges = s.tick.outEdges + 1) ∧
  (∀ (m : Boundary) (s t : State), exec (.tickBoundary m) s = .next t →
    t = s ∨ t.tick.outEdges = s.tick.outEdges + 1) ∧
  (∀ s : State, s.core.mstate = .boot → s.mod.started = true →
    ∀ v, ∃ t, exec (.bootEnd v) s = .next t ∧ t.core.mstate = .ready ∧ t.core.alert = true ∧ t.tick.count = 0 ∧
      t.tick.outEdges = s.tick.outEdges + 1 ∧ t.core.qs = s.core.qs ∧ t.core.host = s.core.host ∧ t.link = s.link ∧
      t.fw = s.fw ∧ t.mend = s.mend ∧ t.mod = s.mod) ∧
  (∀ (i : Instr) (s t : State), (∀ m, i ≠ .tickBoundary m) → (∀ v, i ≠ .bootEnd v) → exec i s = .next t →
    t.tick.outEdges = s.tick.outEdges ∨ (t.tick.outEdges = 0 ∧ t.mod.inReset = true))

/-- A reading above 100 °C at a junction or above 85 °C in a DRAM case asserts TEMP_ALERT#; it is released after readings
at or below 95 °C and 82 °C for one whole tick; OVER85 is set by a DRAM reading above 85 °C and stays. SMBus ARP assigns the
address, reading the alert response address releases ALERT#, and a telemetry request over a bus that answers is answered
with the 32 bytes of Table 21-4 (R410, R484, R486 to R488). -/
def Obligations.TemperatureAndManagementBus : Prop :=
  (∀ (tj td : Nat) (s : State), s.core.mstate ≠ .off →
    ∃ t, exec (.temperatureReading tj td) s = .next t ∧
      ((100 < tj ∨ 85 < td) → t.mod.tempAlert = true) ∧
      (s.mod.tempAlert = false → tj ≤ 100 → td ≤ 85 → t.mod.tempAlert = false) ∧
      (tj ≤ 95 → td ≤ 82 → s.mod.coolTicks = 1 → t.mod.tempAlert = false) ∧
      (95 < tj → s.mod.tempAlert = true → t.mod.tempAlert = true) ∧
      t.dram.over85 = (s.dram.over85 || decide (85 < td)) ∧ t.dram.temp = td ∧ t.tick = s.tick ∧ t.led = s.led ∧
      t.core = { s.core with alert := t.core.alert }) ∧
  (∀ s : State, s.core.mstate ≠ .off →
    (∀ a < 128, exec (.smbusArp a) s = .next { s with mod := { s.mod with smbus := some a } }) ∧
    exec .alertResponse s = .next { s with core := { s.core with alert := false } } ∧
    (∀ b vin iin tj td, s.mctpUp b = true → ∃ t p, exec (.telemetryRequest b vin iin tj td) s = .next t ∧
      t.mod.mctpOut = s.mod.mctpOut ++ [(b, p)] ∧ p.length = 32 ∧ leAt p 0 1 = mstateCode s.core.mstate ∧
      leAt p 4 2 = vin % 2 ^ 16 ∧ leAt p 6 2 = iin % 2 ^ 16 ∧ t.core = s.core ∧ t.tick = s.tick))

/-! ### Steps and the effects of commands -/

/-- STEP_START completes: an engine starts the step that the sheaf in force has for it there, once its offset and slice, the steps
before it, the hem, the picture and the other runs allow it: the run has the step on the engine from then on, and nothing is
committed; the operands are read anew before a first step where another queue has written them. A step whose host range has left its
windows freezes the queue and ends its run; one whose function does not master the bus waits (R18, R19, R39, R46, R76, R111, R382,
R389). A weight-sharing run first takes what its members leave of it (R203), which leaves every other run as it is. -/
def Obligations.StepStartRunsOneStep : Prop :=
  (∀ (s : State) (r : Run), (∀ ms, r.post ≠ .share ms) → s.shareStart r = s) ∧
  ∀ (run t : Nat) (e : Engine) (s0 : State) (r0 r : Run) (p : PStep) (slot : Option PSlot), s0.core.run? run = some r0 →
    let s := s0.shareStart r0
    s.core.run? run = some r → s.pick r e t = some (p, slot) → s.mayBegin r e t p slot = true →
    (∀ x, (s.core.freshen s.amb r).run? run = some x →
      exec (.stepStart run e t) s0 = .next (({ s with core := s.core.freshen s.amb r } : State).launchStep x e t p slot)) ∧
    ((∀ x ∈ s.core.firsts r, s.core.stale s.tick.count x = false) →
      ((e ≠ .hostDma ∨ s.core.access r = .free ∨ ∃ k, s.core.access r = .read k) →
        ∃ (u : State) (x : Run) (a : Active), exec (.stepStart run e t) s0 = .next u ∧ u.core.run? run = some x ∧
          x.active = r.active ++ [a] ∧ a.eng = e ∧ a.start = (t : Int) ∧ a.step = p ∧ x.begun = true ∧ x.outs = r.outs ∧
          ((e ≠ .hostDma ∨ s.core.access r = .free) → x.steps = r.steps.filter (·.id != p.id)) ∧
          u.core.copies = s.core.copies ∧ u.core.host.mem = s.core.host.mem ∧ u.core.qs = s.core.qs ∧
          u.tick = { s.tick with sheaf := u.tick.sheaf, shifts := u.tick.shifts } ∧
          u.dram = s.dram ∧ u.mend = s.mend ∧ u.fw = s.fw ∧ u.mod = s.mod) ∧
      (e = .hostDma → s.core.access r = .wait → exec (.stepStart run e t) s0 = .next s) ∧
      (∀ a, e = .hostDma → s.core.access r = .violation a → (s.core.q r.queue).state ≠ .disabled →
        ∃ u, exec (.stepStart run e t) s0 = .next u ∧ (u.core.q r.queue).state = .frozen ∧ u.core.run? run = none))

/-- A step that ends before the last one of its command commits nothing; the last one commits every output as a whole: the
contents are the new ones, of a HOST_READ the bytes of its range alone, and the version is one higher, and no other shared copy
changes. A step that is cut abandons its command, which commits nothing, and is counted. A step that reads an uncorrectable word, a
wrong tag, or meets a block that failed parity, loses its command, which commits nothing; the word is logged, the array is queued for
self-test (R37, R40, R108, R137, R193, R213, R260, R441). Stated of commands whose commit does nothing but write buffers, and of the
copies that outlive an instance. -/
def Obligations.LastStepCommitsTheOutputs : Prop :=
  ∀ (run t grains : Nat) (fix : Fixed) (s : State) (r : Run) (e : Engine) (a : Active),
    s.core.runs.find? (·.id == run) = some r → r.active.find? (·.eng == e) = some a → r.dead = false →
    mlive s.core.mstate = true → r.post = .none →
    (a.start ≤ (t : Int) → (t : Int) ≤ a.start + 100000 → s.core.badTags s.tick.count r a.step = [] →
      ((r.steps ≠ [] ∨ r.active.erase a ≠ []) →
        ∃ (u : State) (x : Run), exec (.stepEnd (run, e) t grains .done fix) s = .next u ∧ u.core.run? run = some x ∧
          x.active = r.active.erase a ∧ x.steps = r.steps ∧ x.outs = r.outs ∧ x.measured = r.measured + grains ∧
          u.core.copies = s.core.copies ∧ u.core.host = s.core.host ∧ u.core.qs = s.core.qs ∧ u.core.insts = s.core.insts) ∧
      (r.steps = [] → r.active = [a] → r.reads = 0 → r.share = none → r.waits = false → r.status = .ok →
        r.outs.Pairwise (fun a b => ¬ (a.part = b.part ∧ a.buf = b.buf ∧ a.key = b.key)) →
        ∃ u, exec (.stepEnd (run, e) t grains .done fix) s = .next u ∧ u.core.run? run = none ∧
          (∀ o ∈ r.outs, o.key = .shared → (u.core.copy o.part o.buf .shared).data =
              (o.patch.elim o.data fun y => Memory.write (s.core.copy o.part o.buf .shared).data y.1 y.2) ∧
            (u.core.copy o.part o.buf .shared).version = (s.core.copy o.part o.buf .shared).version + 1) ∧
          (∀ p b, (∀ o ∈ r.outs, ¬ (o.part = p ∧ o.buf = b ∧ o.key = .shared)) →
            u.core.copy p b .shared = s.core.copy p b .shared))) ∧
    (a.start ≤ (t : Int) → (t : Int) ≤ a.start + 100000 →
      (∀ (tier : Tier) (unit : Nat), ∃ u, exec (.stepEnd (run, e) t grains (.dataLost tier unit none) fix) s = .next u ∧
        u.core.run? run = none ∧ (∀ p b, u.core.copy p b .shared = s.core.copy p b .shared) ∧
        u.mend.logCount = s.mend.logCount + 1 ∧ bitAt 0 u.mend.cause = true ∧
        (tier = .register → u.mend.ueReg = min 255 (s.mend.ueReg + 1))) ∧
      (s.core.badTags s.tick.count r a.step ≠ [] → ∃ u, exec (.stepEnd (run, e) t grains .badTag fix) s = .next u ∧
        u.core.run? run = none ∧ (∀ p b, u.core.copy p b .shared = s.core.copy p b .shared) ∧
        u.mend.logCount = s.mend.logCount) ∧
      (∀ x y tl fst len q, e = .arrays tl fst len q → ∃ u, exec (.stepEnd (run, e) t grains (.parity x y) fix) s = .next u ∧
        u.core.run? run = none ∧ (∀ p b, u.core.copy p b .shared = s.core.copy p b .shared) ∧ (x, y) ∈ u.mend.ahead ∧
        u.mend.ceReg = min 0xFFFFFFFF (s.mend.ceReg + fix.reg))) ∧
    (∃ u, exec (.stepCut (run, e)) s = .next u ∧ u.core.run? run = none ∧
      (∀ p b, u.core.copy p b .shared = s.core.copy p b .shared) ∧
      u.tick.stepCut = min 4095 (s.tick.stepCut + 1))

/-- Every other ACS command completes its start: at hand, allowed, and with operands that its rules take, it leaves its
ring or instance with its effect, and its run is launched, ended at once, or noted as one that completes later. STREAM_OPEN,
STREAM_RESYNC, STREAM_CLOSE, CLIP_BEGIN, CLIP_END, EPOCH_BEGIN, BATCH_DRAW, GRAFT, BUF_DECLARE, BUF_RELEASE, PIN_HINT,
MODEL_LOAD, MODEL_UNLOAD, PROG_LOAD and BIND act on the core alone; PART_CREATE, PART_DESTROY, PART_LIMITS, MEND_START,
MEND_STATUS, FW_STAGE, FW_ACTIVATE, FW_CONFIRM, ATTEST, THAW, LEDGER_SET, TICK_SET, CHAIN_FORM and QUIET on the whole
machine. One that would complete later takes no effect while Control's entries of the in-flight tracker are all in use (R21; what
holds an entry of theirs is the model's choice, log 52). -/
def Obligations.CommandsComplete : Prop :=
  (∀ row ∈ coreRows, ∀ (c : Cmd) (s : State) (e : Env) (k : Core) (r : Option Run), Ready s row.op c e →
    row.body e s.core = .ok (k, r) → (r = none → s.core.controlFull = false) → exec (row.row c) s = .next (s.finished k e r)) ∧
  (∀ row ∈ stateRows, ∀ (c : Cmd) (s t : State) (e : Env) (r : Option Run), Ready s row.op c e →
    row.body s e = .ok (t, r) → (r = none → s.core.controlFull = false) → exec (row.row c) s = .next (t.finished t.core e r)) ∧
  (∀ row ∈ coreRows, ∀ (c : Cmd) (s : State) (e : Env) (k : Core), Ready s row.op c e → row.body e s.core = .ok (k, none) →
    s.core.controlFull = true → exec (row.row c) s = .next s)

/-- A ring command that its own rules refuse changes nothing but its queue and the host interface: no buffer, copy,
program, binding, partition, stream, clip, instance or run. One that is a violation freezes its queue besides, with a freeze
record of its kind, queue, function, partition, tick, value and opcode (R96, R120, R121, R379). -/
def Obligations.RefusedCommandsHaveNoEffect : Prop :=
  (∀ row ∈ coreRows, ∀ (c : Cmd) (s : State) (e : Env), Ready s row.op c e → e.inst = none →
    (∀ st d, row.body e s.core = .error (.fail st d) → st ≠ .zeroShape →
      ∃ t, exec (row.row c) s = .next t ∧ NoEffect s t) ∧
    (∀ kind v, row.body e s.core = .error (.violation kind v) →
      ∃ t, exec (row.row c) s = .next t ∧ NoEffect s t ∧ (t.core.q e.q).state = .frozen ∧
        Tab.get [] t.core.host.frzLog (s.core.host.frzCount % 256) =
          freezeBytes kind e.q (s.core.q e.q).func (if (s.core.q e.q).part < 16 then (s.core.q e.q).part else 0xFF)
            s.tick.count v (row.op * 65536 + 0xFFFF) ∧
        (∀ j, j ≠ e.q → t.core.q j = s.core.q j))) ∧
  (∀ row ∈ stateRows, ∀ (c : Cmd) (s : State) (e : Env), Ready s row.op c e → e.inst = none →
    ∀ st d, row.body s e = .error (.fail st d) → st ≠ .zeroShape → ∃ t, exec (row.row c) s = .next t ∧ NoEffect s t)

/-- BUF_DECLARE adds one buffer with the descriptor that host memory holds, under a number that no buffer of the partition
has had, and completes with its handle; no contents change. BUF_RELEASE marks a buffer that no program names, and takes no copy at
once. PIN_HINT sets tier and group of what the handle names. HOST_READ, in a ring or a program, gives its copy the host bytes at the
offset and leaves every other byte of the buffer as it stands at the commit; HOST_WRITE posts the bytes that its copy holds to an
address range that the windows cover (R243 to R247, R260, R263). -/
def Obligations.BufferCommandsActOnBuffers : Prop :=
  (∀ (e : Env) (c k : Core) (r : Option Run), declare e c = .ok (k, r) →
    ∃ (d : Desc) (n : Nat), parseDesc (Memory.read c.host.mem (e.long 0) 64) = some d ∧
      declOk d (e.word 2 % 4) (e.word 2 / 16 % 8) = true ∧ (c.part e.part).nextBuf ≤ n ∧
      k.buffers = c.buffers ++
        [{ part := e.part, num := n, kind := e.word 2 % 4, page := e.word 2 / 16 % 8, desc := d }] ∧
      (k.part e.part).nextBuf = n + 1 ∧ r = some (quick (handleOf e.part n)) ∧ SameContents c k) ∧
  (∀ (e : Env) (c k : Core) (r : Option Run), releaseBuf e c = .ok (k, r) → e.sub = 0 →
    c.named e.part (handleNum (e.word 0)) = false ∧ k.copies = c.copies ∧ r = some (quick 0) ∧
      (∃ b, k.buf? e.part (handleNum (e.word 0)) = some b ∧ b.releasing = true) ∧
      (∀ p n, ¬ (p = e.part ∧ n = handleNum (e.word 0)) → k.buf? p n = c.buf? p n)) ∧
  (∀ (e : Env) (c k : Core) (r : Option Run), pinHint e c = .ok (k, r) →
    (∀ b, k.buf? e.part (handleNum (e.word 0)) = some b → b.tier = e.word 1 % 4 ∧ b.group = e.word 1 / 256) ∧
      (∀ p, k.prog? e.part (handleNum (e.word 0)) = some p → p.group = e.word 1 / 256) ∧
      (∀ p n, ¬ (p = e.part ∧ n = handleNum (e.word 0)) → k.buf? p n = c.buf? p n ∧ k.prog? p n = c.prog? p n) ∧
      k.copies = c.copies ∧ r = some (quick 0)) ∧
  (∀ (e : Env) (c : Core) (r : Run), hostReadRun e c = .ok r →
    ∃ o : Out, r.outs = [o] ∧ o.part = e.part ∧ (e.inst = none → o.key = .shared) ∧ r.post = .none ∧
      c.host.uncovered e.fn false (e.long 1) (e.nat 4) = none ∧
      o.patch = some (e.nat 3, Memory.read c.host.mem (e.long 1) (e.nat 4)) ∧
      ∀ x, Memory.byte o.data x =
        if e.nat 3 ≤ x ∧ x < e.nat 3 + e.nat 4 then Memory.byte c.host.mem (e.long 1 + (x - e.nat 3))
        else Memory.byte (c.copy e.part o.buf o.key).data x) ∧
  (∀ (e : Env) (c : Core) (r : Run), hostWriteRun e c = .ok r →
    ∃ (b : Nat) (key : CopyKey), r.outs = [] ∧ (e.inst = none → key = .shared) ∧
      c.host.uncovered e.fn true (e.long 1) (e.nat 4) = none ∧
      r.post = .hostWrite (e.long 1) (Memory.read (c.copy e.part b key).data (e.nat 3) (e.nat 4)))

/-- PROG_LOAD adds one program under a number of its partition that is not in use, and completes with its handle. BIND
adds one binding under a number that no binding has, with its context, tag and parameter; its partition is ACTIVE and the
module SERVING. Ending a binding marks it. MODEL_LOAD declares the model's buffers under consecutive new numbers; its commit
makes the partition RESIDENT; MODEL_UNLOAD waits for its boundary (R95, R98 to R100, R115, R116, R248, R249). -/
def Obligations.ProgramsBindingsAndModels : Prop :=
  (∀ (e : Env) (c k : Core) (r : Option Run), progLoad e c = .ok (k, r) →
    ∃ p : Program, k.programs = c.programs ++ [p] ∧ p.part = e.part ∧ p.num < 256 ∧ c.prog? e.part p.num = none ∧
      r = some (quick (handleOf e.part p.num)) ∧ k.buffers = c.buffers ∧ k.parts = c.parts) ∧
  (∀ (e : Env) (c k : Core) (r : Option Run), bindMake e c = .ok (k, r) →
    ∃ b : Binding, k.bindings = c.bindings ++ [b] ∧ b.num < 4096 ∧ c.binding? b.num = none ∧ b.part = e.part ∧
      b.ctx = e.word 1 % 4096 ∧ b.tag = e.cmd.w3 ∧ b.param = e.cmd.w4 ∧ b.queue = e.q ∧ b.ending = false ∧
      r = some (quick b.num) ∧
      ((c.part e.part).state = .resident → (k.part e.part).state = .active) ∧
      (c.mstate = .ready → (c.part e.part).state = .resident → k.mstate = .serving)) ∧
  (∀ (e : Env) (c k : Core) (r : Option Run), bindEnd e c = .ok (k, r) →
    (∃ b, k.binding? (e.word 0) = some b ∧ b.ending = true ∧ b.part = e.part) ∧
      (∀ n, n ≠ e.word 0 → k.binding? n = c.binding? n) ∧ r = some (quick 0)) ∧
  (∀ (e : Env) (c k : Core) (r : Option Run), modelLoad e c = .ok (k, r) →
    ∃ (bs : List Buffer) (first : Nat) (x : Run), k.buffers = c.buffers ++ bs ∧ 1 ≤ bs.length ∧
      (c.part e.part).nextBuf ≤ first ∧ bs.map (·.num) = (List.range bs.length).map (first + ·) ∧
      (∀ b ∈ bs, b.part = e.part ∧ b.kind = 1 ∧ b.model = true) ∧ (k.part e.part).nextBuf = first + bs.length ∧
      r = some x ∧ x.post = .modelLoad e.part ∧ x.detail = handleOf e.part first ∧ x.outs.length = bs.length) ∧
  (∀ (c : Core) (now p : Nat) (r : Run), r.post = .modelLoad p → (c.part p).state = .loading →
    ((c.postCommit now r).1.part p).state = .resident) ∧
  (∀ (e : Env) (c k : Core) (r : Option Run), modelUnload e c = .ok (k, r) →
    r = none ∧ (k.part e.part).unloading = some e.cmd ∧ k.buffers = c.buffers)

/-- PART_CREATE gives an EMPTY partition its owner and grants, with free tillers in service as many as it asks for: it is
LOADING, or waits for its members; no other partition changes. PART_LIMITS notes its grants for the boundary two ticks on.
PART_DESTROY makes its partition DRAINING, drops a PART_LIMITS that is on its way, and completes later (R118, R275 to R281, R500). -/
def Obligations.PartitionCommands : Prop :=
  (∀ (s t : State) (e : Env) (r : Option Run), partCreate s e = .ok (t, r) →
    let k := e.word 2 % 16
    (s.core.part k).state = .empty ∧ (t.core.part k).owner = e.word 2 / 256 % 32 ∧
      (t.core.part k).tillers.length = (t.core.part k).grants.tillers ∧
      (∀ x ∈ (t.core.part k).tillers, x ∈ s.core.freeTillers) ∧ (t.core.part k).events = [] ∧
      (∀ j, j ≠ k → t.core.part j = s.core.part j) ∧
      ((t.core.part k).grants.members = [] → (t.core.part k).state = .loading ∧ r = some (quick k)) ∧
      ((t.core.part k).grants.members ≠ [] → (t.core.part k).creating.isSome = true ∧ r = none)) ∧
  (∀ (s t : State) (e : Env) (r : Option Run), partLimits s e = .ok (t, r) →
    let k := e.word 2 % 16
    r = none ∧ (∃ x, (t.core.part k).pend = some x ∧ x.effTick = e.now + 2 ∧ x.applied = false) ∧
      (t.core.part k).grants = (s.core.part k).grants ∧ (t.core.part k).tillers = (s.core.part k).tillers ∧
      (∀ j, j ≠ k → t.core.part j = s.core.part j)) ∧
  (∀ (s t : State) (e : Env) (r : Option Run), partDestroyAll s e = .ok (t, r) →
    r = none ∧ (t.core.part (e.word 0)).state = .draining ∧ (t.core.part (e.word 0)).destroying = some e.cmd ∧
      (t.core.part (e.word 0)).pend = none ∧ t.core.untold = [] ∧ t.tick = s.tick ∧ t.led = s.led)

/-- STREAM_OPEN makes a CLOSED context OPEN for its queue and partition on one of 8 decoders; STREAM_CLOSE makes one
DRAINING with its bindings ending; STREAM_RESYNC with no decode step running makes it OPEN with no stop reason. STREAM_FEED
starts when its chunk fits; one that does not is noted in its context and waits, and STREAM_FEED_RESUME starts it once it
fits. CLIP_BEGIN adds the clip of its binding, at most 64 in all (R296 to R302, R311, R312, R334, R335). -/
def Obligations.StreamCommands : Prop :=
  (∀ (e : Env) (c k : Core) (r : Option Run), streamOpen e c = .ok (k, r) →
    (c.ctx (e.word 2)).state = .closed ∧ (k.ctx (e.word 2)).state = .opened ∧ (k.ctx (e.word 2)).part = e.part ∧
      (k.ctx (e.word 2)).queue = e.q ∧ (k.ctx (e.word 2)).home < 8 ∧
      r = some (quick (e.word 2 + 65536 * (k.ctx (e.word 2)).home)) ∧ ∀ j, j ≠ e.word 2 → k.ctx j = c.ctx j) ∧
  (∀ (e : Env) (c k : Core) (r : Option Run), streamClose e c = .ok (k, r) →
    r = none ∧ (k.ctx (e.word 0)).state = .draining ∧ (k.ctx (e.word 0)).closing = some e.cmd ∧
      ∀ b ∈ k.bindings, b.ctx = e.word 0 → b.ending = true) ∧
  (∀ (e : Env) (c k : Core) (r : Option Run), streamResync e c = .ok (k, r) → c.decActive (e.word 0) = false →
    (k.ctx (e.word 0)).state = .opened ∧ (k.ctx (e.word 0)).reason = 0 ∧ (k.ctx (e.word 0)).synced = false ∧
      ∃ n, r = some (quick n)) ∧
  (∀ (c : Cmd) (au : AuInfo) (s : State) (e : Env), Ready s 0x4002 c e →
    (∀ k r, feedBody au e s.core = .ok (k, r) → exec (.streamFeed c au) s = .next (s.finished k e r)) ∧
    (feedChecks e s.core = .ok () → s.core.feedFit (e.word 0) (e.word 3) = .waits →
      exec (.streamFeed c au) s =
        .next { s with core := s.core.updCtx (e.word 0) fun x => { x with waitFeed := some (c, au) } })) ∧
  (∀ (n : Nat) (c : Cmd) (au : AuInfo) (s : State) (e : Env) (k : Core) (r : Option Run),
    (s.core.ctx n).waitFeed = some (c, au) → s.core.feedFit n c.w3.toNat ≠ .waits →
    let s' : State := { s with core := s.core.updCtx n fun x => { x with waitFeed := none } }
    Ready s' 0x4002 c e → feedBody au e s'.core = .ok (k, r) →
    exec (.streamFeedResume n) s = .next (s'.finished k e r)) ∧
  (∀ (e : Env) (c k : Core) (r : Option Run), clipBegin e c = .ok (k, r) →
    ∃ x : Clip, k.clips = c.clips ++ [x] ∧ k.clips.length ≤ 64 ∧ (∀ y ∈ c.clips, y.binding ≠ x.binding) ∧
      x.coded = 0 ∧ x.written = 0 ∧ x.taken = [x.firstPic] ∧ r = some fixedOnly)

/-- Over an epoch of n samples the positions 0 to n - 1 name every slot 0 to n - 1 exactly once, whatever the keys (R349);
BEGIN opens an epoch over the samples that the cache holds, from its first position (R348). -/
def Obligations.EpochVisitsEverySampleOnce : Prop :=
  (∀ (keys : List Nat) (n : Nat), 1 ≤ n →
    (∀ p, p < n → perm keys n p < n) ∧
    (∀ p q, p < n → q < n → perm keys n p = perm keys n q → p = q)) ∧
  (∀ (e : Env) (c k : Core) (r : Option Run), epochBegin e c = .ok (k, r) →
    (k.cache e.part (e.word 0)).n ≠ 0 →
    (k.cache e.part (e.word 0)).isOpen = true ∧ (k.cache e.part (e.word 0)).cursor = 0 ∧
      (k.cache e.part (e.word 0)).n = (k.cache e.part (e.word 0)).slots.length ∧
      (0 ≤ e.int 1 → (k.cache e.part (e.word 0)).epoch = (e.int 1).toNat))

/-! ### Mending and DRAM -/

/-- SRAM_PATROL_SCRUB, DRAM_PATROL_SCRUB, ARRAY_SELF_TEST, FLASH_READ_VERIFY and DEFERRED_ACTIVITY_START complete, whatever is found:
a read of a store that no exclusion of Table 19-5 holds back moves its pass on; a read of a DRAM controller, outside QUIET and
self-refresh, moves the pass on and counts its outcome; a self-test leaves what it found for the boundary, and the rotation moves on
where the array was its next; a read-verify moves to the next block; a deferred activity that can start runs. What their steps metered
is metered.
Beside that: corrected and uncorrectable words are counted; an error is logged with bit 0 of MND_CAUSE; a scratchpad whose tiller is
retiring waits, and DRAM in QUIET or self-refresh. A row that differs is logged with bit 1, and is due for darning from the boundary on.
A flash block that fails makes a VALID slot INVALID and leaves one in force. MEND_START notes its activity, with DEFERRED where
Table 19-5 excludes it (R208, R209, R402, R439 to R452, R455). -/
def Obligations.MendingRows : Prop :=
  (∀ (st : Store) (cor bad : Nat) (w : Option ErrAt) (on : List Metered) (s : State),
    (∀ n, st = .scratchpad n → n ∉ s.mend.retiring ∧ n ∉ s.core.retired) →
    ∃ t, exec (.sramPatrolScrub st cor bad w on) s = .next t ∧ t.led = s.led.mended on ∧
      t.mend.scrubPos st = (if scrubTicks st ≤ s.mend.scrubPos st + 1 then 0 else s.mend.scrubPos st + 1) ∧
      (bad = 0 → t.mend.logCount = s.mend.logCount)) ∧
  (∀ (ch : Nat) (e : Ecc) (w : Option ErrAt) (on : List Metered) (s : State), ch < 16 → s.core.mstate ≠ .quiet → s.dram.sr = false →
    ∃ t, exec (.dramPatrolScrub ch e w on) s = .next t ∧ t.led = s.led.mended on ∧ t.dram.drc ch = (s.dram.drc ch).count e ∧
      (∀ j, j ≠ ch → t.dram.drc j = s.dram.drc j) ∧
      t.mend.scrubDram = (stepPass s.mend.scrubDram (if s.mend.acts.any (fun x => x.code == 1 && x.running) then 64 else 1) dramPassLen).1) ∧
  (∀ (t p : Nat) (rows : List Nat) (on : List Metered) (s : State), s.mend.testing = some (t, p) → s.mend.found = none →
    ∃ u, exec (.arraySelfTest rows on) s = .next u ∧ u.led = s.led.mended on ∧ u.mend.testing = some (t, p) ∧
      u.mend.found = some (rows.dedup.filter fun r => decide (r ≤ 32) && !((s.mend.arr t p).skew && r == (s.mend.arr t p).row)) ∧
      u.mend.arrs = s.mend.arrs ∧ u.tick = s.tick ∧
      ((t, p) ∉ s.mend.ahead → (u.mend.rotT, u.mend.rotA) = nextArray t p) ∧
      ((t, p) ∈ s.mend.ahead → (u.mend.rotT, u.mend.rotA) = (s.mend.rotT, s.mend.rotA))) ∧
  (∀ (ok : Bool) (s : State), ∃ t, exec (.flashReadVerify ok) s = .next t ∧
    t.mend.flashPos = (s.mend.flashPos + 1) % 16384 ∧ t.tick = s.tick ∧ t.led = s.led ∧ t.dram = s.dram ∧ t.link = s.link) ∧
  (∀ (code target : Nat) (s : State) (x : Act),
    (s.mend.acts.find? fun y => y.code == code && y.target == target && y.deferred) = some x →
    s.mend.targetOk s.core.retired code target = true →
    (s.excluded code target = false → ∃ t, exec (.deferredActivityStart code target) s = .next t ∧
      t = { s with mend := t.mend } ∧ { x with running := true, deferred := false } ∈ t.mend.acts) ∧
    (s.excluded code target = true → exec (.deferredActivityStart code target) s = .next s)) ∧
  (∀ (cor : Nat) (on : List Metered) (s : State), ∃ t, exec (.sramPatrolScrub .granary cor 0 none on) s = .next t ∧
    t = { s with mend := t.mend, led := s.led.mended on } ∧
    t.mend.ceGrn = min 0xFFFFFFFF (s.mend.ceGrn + cor) ∧ t.mend.logCount = s.mend.logCount) ∧
  (∀ (n cor bad : Nat) (on : List Metered) (s : State), 0 < bad → n ∉ s.mend.retiring → n ∉ s.core.retired →
    ∃ t, exec (.sramPatrolScrub (.scratchpad n) cor bad none on) s = .next t ∧
      t.mend.ceSp = min 0xFFFFFFFF (s.mend.ceSp + cor) ∧ t.mend.ueSp = min 255 (s.mend.ueSp + bad) ∧
      t.mend.logCount = s.mend.logCount + 1 ∧ bitAt 0 t.mend.cause = true ∧ t.core.copies = s.core.copies) ∧
  (∀ (n cor bad : Nat) (w : Option ErrAt) (on : List Metered) (s : State), (n ∈ s.mend.retiring ∨ n ∈ s.core.retired) →
    exec (.sramPatrolScrub (.scratchpad n) cor bad w on) s = .next s) ∧
  (∀ (ch : Nat) (on : List Metered) (s : State), ch < 16 → s.core.mstate ≠ .quiet → s.dram.sr = false →
    (∀ w, ∃ t, exec (.dramPatrolScrub ch .corrected w on) s = .next t ∧ t.core = s.core ∧
      (t.dram.drc ch).ce = min 0xFFFFFFFF ((s.dram.drc ch).ce + 1) ∧ t.mend.logCount = s.mend.logCount) ∧
    (∃ t, exec (.dramPatrolScrub ch .uncorrectable none on) s = .next t ∧
      (t.dram.drc ch).ue = min 0xFFFF ((s.dram.drc ch).ue + 1) ∧ t.mend.logCount = s.mend.logCount + 1 ∧
      bitAt 0 t.mend.cause = true)) ∧
  (∀ (ch : Nat) (e : Ecc) (w : Option ErrAt) (on : List Metered) (s : State), (s.core.mstate = .quiet ∨ s.dram.sr = true) →
    exec (.dramPatrolScrub ch e w on) s = .next s) ∧
  (∀ (t p : Nat) (on : List Metered) (s : State), s.mend.testing = some (t, p) → s.mend.found = none →
    (∃ u, exec (.arraySelfTest [] on) s = .next u ∧ u.mend.logCount = s.mend.logCount ∧ u.mend.learn.testing = none ∧
      (u.mend.learn.arr t p).bad = (s.mend.arr t p).bad.dedup) ∧
    (∀ r, r < 32 → (s.mend.arr t p).skew = false → (s.mend.arr t p).bad = [] →
      ∃ u, exec (.arraySelfTest [r] on) s = .next u ∧ (u.mend.learn.arr t p).bad = [r] ∧
        u.mend.logCount = s.mend.logCount + 1 ∧ bitAt 1 u.mend.cause = true)) ∧
  (∀ (s : State) (k : Nat) (b : Bool), slotAt s.mend.flashPos = some (k, b) → ∃ t, exec (.flashReadVerify false) s = .next t ∧
    (((s.fw.image k).slot b).state = .valid → ((t.fw.image k).slot b).state = .invalid ∧
      t.mend.logCount = s.mend.logCount + 1 ∧ bitAt 3 t.mend.cause = true) ∧
    (((s.fw.image k).slot b).state.inForce = true → t.fw = s.fw)) ∧
  (∀ (s t : State) (e : Env) (r : Option Run), mendStart s e = .ok (t, r) →
    t = { s with mend := { s.mend with acts := t.mend.acts } } ∧
      (s.excluded e.sub (e.word 0) = true → r = some { status := .deferred } ∧
        t.mend.acts = s.mend.acts ++ [{ code := e.sub, target := e.word 0, deferred := true }]) ∧
      (s.excluded e.sub (e.word 0) = false → r = none ∧
        t.mend.acts = s.mend.acts ++ [{ code := e.sub, target := e.word 0, cmd := some e.cmd }]))

/-- A DRAM read enters its queue, is forwarded from a write to its line, or is left at its port by a full queue; a write
merges into one to its line, or enters. Urgency only rises. Outside a refresh window a bank issues the entry that no other
goes before, by urgency, deadline and entry; inside one it issues nothing. A read that returns clean leaves; an
uncorrectable one is logged and its command commits nothing (R402 to R408). -/
def Obligations.DramRowsFollowTheOrder : Prop :=
  (∀ (ch : Nat) (r : DramReq) (s : State), s.dram.ready ch = true →
    ∃ t, exec (.dramRequestEntry ch r) s = .next t ∧ t = { s with dram := t.dram } ∧
      (∀ j, j ≠ ch → t.dram.drc j = s.dram.drc j) ∧
      (r.write = false →
        (128 ≤ (s.dram.drc ch).readQ.length → t.dram.drc ch = s.dram.drc ch) ∧
        ((s.dram.drc ch).readQ.length < 128 → (∃ w ∈ (s.dram.drc ch).writeQ, w.line = r.line) →
          t.dram.drc ch = { s.dram.drc ch with fwd := min 0xFFFFFFFF ((s.dram.drc ch).fwd + 1) }) ∧
        ((s.dram.drc ch).readQ.length < 128 → (∀ w ∈ (s.dram.drc ch).writeQ, w.line ≠ r.line) →
          t.dram.drc ch = { s.dram.drc ch with readQ := (s.dram.drc ch).readQ ++ [DramReq.planned r] })) ∧
      (r.write = true →
        (∀ w, (s.dram.drc ch).writeQ.find? (·.line == r.line) = some w →
          ∃ w', (t.dram.drc ch).writeQ.find? (·.line == r.line) = some w' ∧ w'.id = w.id ∧ w'.be = w.be ||| r.be ∧
            (t.dram.drc ch).writeQ.length = (s.dram.drc ch).writeQ.length) ∧
        ((s.dram.drc ch).writeQ.length < 64 → (∀ w ∈ (s.dram.drc ch).writeQ, w.line ≠ r.line) →
          (t.dram.drc ch).writeQ = (s.dram.drc ch).writeQ ++ [DramReq.planned r]))) ∧
  (∀ (ch id t : Nat) (s : State) (r : DramReq),
    ((s.dram.drc ch).readQ ++ (s.dram.drc ch).writeQ).find? (·.id == id) = some r →
    ∃ u, exec (.dramUrgencyRise ch id t) s = .next u ∧ u = { s with dram := u.dram } ∧
      Tab.get 0 (u.dram.drc ch).urg id = max (Tab.get 0 (s.dram.drc ch).urg id) (urgencyAt r t)) ∧
  (∀ (ch bank t : Nat) (s : State) (r : DramReq), s.dram.ready ch = true → s.dram.refresh = false →
    (s.dram.drc ch).pick bank t = some r →
    r ∈ (s.dram.drc ch).served bank ∧ (∀ x ∈ (s.dram.drc ch).served bank, (s.dram.drc ch).before t r x = true) ∧
    ∃ u, exec (.dramBankIssue ch bank t) s = .next u ∧ u = { s with dram := u.dram } ∧
      (r.write = false → (u.dram.drc ch).issued = (s.dram.drc ch).issued ++ [r] ∧
        (u.dram.drc ch).readQ = (s.dram.drc ch).readQ.filter (·.id != r.id)) ∧
      (r.write = true → r.id ∉ (s.dram.drc ch).fills →
        (u.dram.drc ch).writeQ = (s.dram.drc ch).writeQ.filter (·.id != r.id))) ∧
  (∀ (ch bank t : Nat) (s : State), s.dram.refresh = true → exec (.dramBankIssue ch bank t) s = .next s) ∧
  (∀ (ch id t : Nat) (s : State) (r : DramReq), (s.dram.drc ch).issued.find? (·.id == id) = some r → r.write = false →
    (∃ u, exec (.dramReadReturn ch id t .clean .clean none) s = .next u ∧ u = { s with dram := u.dram } ∧
      (u.dram.drc ch).issued = (s.dram.drc ch).issued.filter (·.id != id)) ∧
    (∀ k x, r.run = some k → s.core.run? k = some x → x.post = .none →
      ∃ u, exec (.dramReadReturn ch id t .clean .uncorrectable none) s = .next u ∧ u.core.run? k = none ∧
        (∀ p b, u.core.copy p b .shared = s.core.copy p b .shared) ∧ u.mend.logCount = s.mend.logCount + 1 ∧
        (u.dram.drc ch).ue = min 0xFFFF ((s.dram.drc ch).ue + 1))) ∧
  (∀ s : State, (s.dram.up = true → s.dram.sr = false → exec .refreshWindowStart s =
      .next { s with dram := { s.dram with refresh := true, windows := s.dram.windows + 1 } }) ∧
    exec .refreshWindowEnd s = .next { s with dram := { s.dram with refresh := false } })

/-! ### Links -/

/-- A port trains while a partner is present, its flow control afresh; a HELLO over 8 trained lanes brings it up with the
neighbour's ID and delay. Loss of lane lock, 8 failed replays and the loss of control words take a port down: what it held
is discarded and counted, and a formed chain hears of it (R415, R417, R426, R436). -/
def Obligations.PortsTrainAndFail : Prop :=
  ∀ (p : Nat) (s : State), s.linkLive p = true →
    (∀ lanes, (s.link.port p).state ≠ 2 →
      exec (.portTraining p true lanes) s = .next (s.updPort p fun x => x.train lanes) ∧
      exec (.portTraining p false lanes) s = .next (s.updPort p fun x => { x with state := 0, lanes := 0 })) ∧
    (∀ h : Hello, (s.link.port p).state = 1 → (s.link.port p).lanes = 0xFF →
      ∃ t, exec (.hello p h) s = .next t ∧ (t.link.port p).state = 2 ∧ (t.link.port p).neigh = h.id % 65536 ∧
        (t.link.port p).delay = h.delay % 2 ^ 24 ∧ (h.strap = true → h.id % 65536 ≠ 0 → h.id % 65536 ∈ t.link.strapped) ∧
        t.tick = s.tick ∧ t.led = s.led ∧ t.fw = s.fw) ∧
    ((s.link.port p).state = 2 → ∀ i : Instr, (i = .laneLockLoss p ∨ i = .controlWordTimeout p ∨
        (i = .replayLimit p ∧ 8 ≤ (s.link.port p).fails)) →
      ∃ t, exec i s = .next t ∧ (t.link.port p).state = 3 ∧ (t.link.port p).held = [] ∧
        (t.link.port p).downDrop = min 0xFFFFFFFF ((s.link.port p).downDrop + (s.link.port p).held.length) ∧
        (s.link.formed = true → t.link.notices =
          s.link.notices ++ [((s.link.table.ends p).1, (s.link.table.ends p).2, true)]) ∧ t.tick = s.tick) ∧
    ((s.link.port p).fails < 8 → exec (.replayLimit p) s = .next s)

/-- Codewords corrected are counted. A flit with a bad CRC counts a replay and goes no further; one out of order is
dropped; one in order moves the expected SEQ on. Credits that arrive add up to an empty receiver's, and what is acknowledged
leaves the replay buffer. A SEAM or BULK message within its window and of the window's epoch writes exactly its bytes and is
answered; one of another epoch writes nothing, counts once, and is answered ROLE_CHANGED; one outside its grant writes
nothing and freezes the port (R417, R418, R422, R424). -/
def Obligations.FlitsAndMessages : Prop :=
  (∀ (p fec : Nat) (f : Flit) (s : State), s.portUp p = true →
    exec (.flitReceive p f false fec) s = .next (s.updPort p fun x => { x with
      fec := min 0xFFFFFFFF (x.fec + fec), replays := min 0xFFFFFFFF (x.replays + 1), fails := x.fails + 1 }) ∧
    (f.seq ≠ (s.link.port p).expSeq →
      exec (.flitReceive p f true fec) s = .next (s.updPort p fun x => { x with fec := min 0xFFFFFFFF (x.fec + fec) })) ∧
    (f.seq = (s.link.port p).expSeq → f.cls ≤ 3 → ∃ t, exec (.flitReceive p f true fec) s = .next t ∧
      (t.link.port p).expSeq = ((s.link.port p).expSeq + 1) % 65536 ∧ (t.link.port p).fails = 0 ∧
      t.link.store = s.link.store ∧ t.tick = s.tick)) ∧
  (∀ (p ack : Nat) (credits : List Nat) (s : State), s.portUp p = true → (s.link.port p).held = [] →
    exec (.controlWordReceive p credits ack) s = .next (s.updPort p fun x => { x with
      credits := (List.range 4).map fun k => min (fullCredits.getD k 0) (x.credits.getD k 0 + credits.getD k 0)
      replay := ackReplay ack x.replay })) ∧
  (∀ (p cls : Nat) (m : Msg) (i : Instr) (s : State), s.portOpen p = true →
    (i = .seamMessage p m ∧ cls = 1 ∨ i = .bulkMessage p m ∧ cls = 2) →
    (∀ w, s.link.reach s.tick.count cls m.src m.unit m.window m.offset m.data.length = .within w →
      m.epoch = s.link.unitEpoch m.unit w →
      ∃ t, exec i s = .next t ∧ t.link.replies = s.link.replies ++ [(m.id, .done)] ∧ t.link.dead = s.link.dead ∧
        (∀ u x, Memory.byte (Tab.get [] t.link.store u) x =
          if u = m.unit ∧ w.base + 8 * m.offset ≤ x ∧ x < w.base + 8 * m.offset + m.data.length
          then m.data.getD (x - (w.base + 8 * m.offset)) 0 else Memory.byte (Tab.get [] s.link.store u) x)) ∧
    (∀ w, s.link.reach s.tick.count cls m.src m.unit m.window m.offset m.data.length = .within w →
      m.epoch ≠ s.link.unitEpoch m.unit w →
      ∃ t, exec i s = .next t ∧ t.link.replies = s.link.replies ++ [(m.id, .roleChanged)] ∧
        t.link.dead = min 0xFFFFFFFF (s.link.dead + 1) ∧ t.link.store = s.link.store) ∧
    (s.link.reach s.tick.count cls m.src m.unit m.window m.offset m.data.length = .violation →
      ∃ t, exec i s = .next t ∧ (t.link.port p).frozen = true ∧ t.link.store = s.link.store ∧
        t.core.host.frzCount = s.core.host.frzCount + 1 ∧ bitAt 0 t.core.host.errCause = true))

/-- The first TICK flit of a tick number is heard when it names the master, a lower ID or the first master; a copy changes
nothing of the tick. After 4 boundaries in holdover a follower takes the lowest other strapped module that a route reaches
as its master, behind a reroute at the next boundary. Notices of failed and restored links wait for the seal (R430 to R433,
R436, R437). -/
def Obligations.TicksOverLinks : Prop :=
  (∀ (p x : Nat) (k : TickPay) (s : State), s.portUp p = true →
    ∃ t, exec (.tickFlit p k x) s = .next t ∧ k.tick ∈ t.link.seenTicks ∧
      (k.tick ∈ s.link.seenTicks → t.tick = s.tick) ∧
      (k.tick ∉ s.link.seenTicks → (s.link.master = 0 ∨ k.master ≤ s.link.master) →
        t.tick.heard = some k ∧ t.tick.heardNow = true ∧ k.master ∈ t.link.strapped) ∧
      t.tick.count = s.tick.count ∧ t.led = s.led ∧ t.link.master = s.link.master) ∧
  (∀ s : State, mlive s.core.mstate = true → s.tick.follower = true → 4 ≤ s.tick.holdover →
    (s.link.rerouted = true → exec .masterLost s = .next { s with link := { s.link with masterDue := true } }) ∧
    (s.link.rerouted = false → ∃ t, exec .masterLost s = .next t ∧ t.core = s.core ∧ t.tick.count = s.tick.count ∧
      t.link.master = lowest (s.link.candidates (some s.link.master)) ∧
      (s.link.master ≠ 0 → t.link.master ≠ s.link.master) ∧
      (t.link.master = 0 ∨ t.link.master = s.link.table.id → t.tick.follower = false ∧ t.tick.source = 0) ∧
      (∀ m, m ∈ s.link.candidates (some s.link.master) → t.link.master ≤ m))) ∧
  (∀ (p a b : Nat) (s : State), s.portOpen p = true →
    exec (.linkDownNotice p a b) s = .next { s with link := { s.link with notices := s.link.notices ++ [(a, b, true)] } } ∧
    exec (.linkUpNotice p a b) s = .next { s with link := { s.link with notices := s.link.notices ++ [(a, b, false)] } })

/-- A reply ends the wait for its message: ROLE_CHANGED ends the command without a commit, any other reply to a step lets it
go on; no reply in time loses the step's data. A member grants what its own free capacity allows and refuses the rest with
no effect; a creation that a member does not answer releases every grant; a step list is kept for the next sheaf and
answered (R270, R278, R422, R423). -/
def Obligations.RepliesAndGrants : Prop :=
  (∀ (id k : Nat) (x : Sent) (s : State), mlive s.core.mstate = true →
    (s.link.sent.find? fun y => y.id == id) = some x → x.what = .run k →
    exec (.mgmtReply id .done) s = .next (s.dropSent id) ∧
    (∀ r, s.core.run? k = some r → r.post = .none →
      (∃ t, exec (.mgmtReply id .roleChanged) s = .next t ∧ t.core.run? k = none ∧ t.link = (s.dropSent id).link ∧
        ∀ p b, t.core.copy p b .shared = s.core.copy p b .shared) ∧
      (x.tick + 1 < s.tick.count → (s.link.sent.find? fun y => y.id == id && decide (y.tick + 1 < s.tick.count)) = some x →
        ∃ t, exec (.replyTimeout id) s = .next t ∧ t.core.run? k = none ∧ t.link = (s.dropSent id).link ∧
          ∀ p b, t.core.copy p b .shared = s.core.copy p b .shared))) ∧
  (∀ (p : Nat) (g : GrantReq) (s : State), s.portOpen p = true →
    (∀ u, s.takeGrant g = some u → ∃ t, exec (.grantRequest p g) s = .next t ∧ t.core.parts = u.core.parts ∧
      t.link.replies = s.link.replies ++ [(g.id, .granted)]) ∧
    (s.takeGrant g = none → ∃ t, exec (.grantRequest p g) s = .next t ∧ t.core.parts = s.core.parts ∧
      t.link.windows = s.link.windows ∧ t.link.replies = s.link.replies ++ [(g.id, .refused)])) ∧
  (∀ (k m : Nat) (ms : List Nat) (c : Cmd) (s : State), (s.core.part k).creating = some (c, m :: ms) →
    ∃ t, exec (.grantTimeout k) s = .next t ∧ t.core.part k = {} ∧ (∀ j, j ≠ k → t.core.part j = s.core.part j) ∧
      t.tick = s.tick ∧ t.led = s.led) ∧
  (∀ (p lead part k : Nat) (steps : List MemberStep) (s : State), s.portOpen p = true →
    s.core.memberSlot lead part = some k →
    ∃ t, exec (.memberStepList p lead part steps) s = .next t ∧ (lead, part, steps) ∈ t.link.steps ∧
      (s.tick.made = none ∨ s.tick.sealed = true → t.core.parts = s.core.parts) ∧ (∀ j, (t.core.part j).state = (s.core.part j).state) ∧
      ∃ id, t.link.replies = s.link.replies ++ [(id, .done)])

/-! ### Firmware and management -/

/-- FW_ACTIVATE schedules every named image for its effective tick; a module asked by a notice accepts only what its own
command would, with the same manifests; a cancel and a missing answer withdraw the activation. FW_CONFIRM makes every named
trial ACTIVE and raises minimum SVNs only where a manifest says so (R464 to R468). -/
def Obligations.ActivationAndConfirmation : Prop :=
  (∀ (s t : State) (e : Env) (r : Option Run), fwActivate s e = .ok (t, r) →
    r = none ∧ t.tick = s.tick ∧ (∀ k ∈ maskKinds (e.word 0), ((t.fw.image k).sched.map (·.1)) =
        some (max (e.long 1) (e.now + if e.sub = 1 then 4 else 2))) ∧
      (∀ k, (t.fw.image k).a = (s.fw.image k).a ∧ (t.fw.image k).b = (s.fw.image k).b) ∧
      t.fw.acts.length = s.fw.acts.length + 1) ∧
  (∀ (p : Nat) (n : ActNotice) (s : State), s.portOpen p = true →
    let good := (s.fw.refuses n.mask).isNone = true ∧
      ∀ k ∈ maskKinds n.mask, ∃ d ∈ n.digests, d.1 = k ∧ d.2 = beNat (s.fw.validDigest k)
    (good → ∃ t, exec (.activateNotice p n) s = .next t ∧ t.link.replies = s.link.replies ++ [(n.id, .granted)] ∧
      t.fw.acts.length = s.fw.acts.length + 1) ∧
    (¬ good → ∃ t, exec (.activateNotice p n) s = .next t ∧ t.link.replies = s.link.replies ++ [(n.id, .refused)] ∧
      t.fw = s.fw)) ∧
  (∀ (p origin mask : Nat) (a : Activate) (s : State), s.portOpen p = true → origin ≠ 0 →
    (s.fw.acts.find? fun x => x.origin == origin && origin != 0 && x.mask == mask) = some a →
    exec (.activateCancel p origin mask) s = .next { s with fw := s.fw.withdraw a }) ∧
  (∀ s : State, (s.fw.asking = none → exec .activateTimeout s = .next s) ∧
    (∀ a, s.fw.asking = some a → ∃ t, exec .activateTimeout s = .next t ∧ t.fw = s.fw.withdraw a ∧
      t.fw.acts = s.fw.acts.erase a)) ∧
  (∀ (s t : State) (e : Env) (r : Option Run), fwConfirm s e = .ok (t, r) →
    r = some (quick 0) ∧ (∀ k ∈ maskKinds (e.word 0), (s.fw.image k).onTrial = true ∧ (s.fw.image k).isHealthy = true ∧
      ∀ b, (s.fw.image k).find .trial = some b → ((t.fw.image k).slot b).state = .active ∧
        (t.fw.image k).svnMin = if mfRaise (((s.fw.image k).slot b).manifest k) = true
          then max (s.fw.image k).svnMin (mfSvn (((s.fw.image k).slot b).manifest k)) else (s.fw.image k).svnMin) ∧
      (∀ k, k ∉ maskKinds (e.word 0) → t.fw.image k = s.fw.image k))

/-- A trial whose window ends without a confirmation fails: the image is REJECTED and its fall-back ACTIVE, and a STEWARD or
DRAMTAB sends the module to RECOVERY. A trap or a watchdog in a trial fails it; a trap of a confirmed STEWARD sends the
module to RECOVERY, of any other image asks for its reload (R469 to R471). -/
def Obligations.TrialsEndOrFallBack : Prop :=
  (∀ (k : Nat) (b : Bool) (s : State), mlive s.core.mstate = true → (s.fw.image k).left = 0 →
    ((s.fw.image k).slot b).state = .trial → ((s.fw.image k).slot !b).state = .fallback →
    (k ≠ 1 → k ≠ 6 → ∃ t, exec (.trialWindowExpiry k) s = .next t ∧ ((t.fw.image k).slot b).state = .rejected ∧
      ((t.fw.image k).slot !b).state = .active ∧ bitAt 0 t.fw.cause = true ∧ t.core.mstate = s.core.mstate) ∧
    ((k = 1 ∨ k = 6) → ∃ t, exec (.trialWindowExpiry k) s = .next t ∧ t.core.mstate = .recovery ∧ t.dram.up = false ∧
      t.fw.reason = if k = 1 then 6 else 7)) ∧
  (∀ (cpu k : Nat) (s : State), cpuKind cpu = some k → mlive s.core.mstate = true →
    ((s.fw.image k).inTrial = true →
      (∃ t, exec (.processorTrap cpu) s = .next t ∧ (t.fw.image k).failed = true ∧ t.core = s.core) ∧
      (∃ t, exec (.watchdogExpiry cpu) s = .next t ∧ (t.fw.image k).failed = true ∧ t.core = s.core)) ∧
    ((s.fw.image k).inTrial = false → exec (.watchdogExpiry cpu) s = .next s ∧
      (k = 1 → ∃ t, exec (.processorTrap cpu) s = .next t ∧ t.core.mstate = .recovery ∧ t.fw.reason = 6) ∧
      (k ≠ 1 → ∃ t, exec (.processorTrap cpu) s = .next t ∧ k ∈ t.fw.reload ∧ t.core = s.core ∧
        t.fw.images = s.fw.images)))

/-- The recovery mailbox, in RECOVERY, for an image kind 1 to 6: BEGIN stages a slot; WRITE programs the blocks of the data
window while their CRCs agree; VERIFY makes a staged slot that verifies VALID; COMMIT puts the VALID slot in force alone,
from the next start for a STEWARD and a DRAMTAB; each reports its result. A download message commits in the same way and is
answered with the result (R464, R472). -/
def Obligations.RecoveryMailbox : Prop :=
  ∀ (v : Word) (s : State), s.core.mstate = .recovery → 1 ≤ rcvKind v → rcvKind v ≤ 6 →
    (rcvOp v = 1 → (s.fw.image (rcvKind v)).sched = none → ∃ t b, exec (.recoveryBegin v) s = .next t ∧
      ((t.fw.image (rcvKind v)).slot b).state = .staging ∧
      (t.fw.image (rcvKind v)).slot (!b) = (s.fw.image (rcvKind v)).slot (!b) ∧ t.fw.result = 0 ∧
      t.core.mstate = .recovery) ∧
    (rcvOp v = 2 → ∀ b, (s.fw.image (rcvKind v)).staging = some b →
      rcvFirst v + rcvCount v ≤ slotBlocks (rcvKind v) →
      (∀ x ∈ s.fw.windowBlocks (rcvCount v), crc32c x.1 = x.2) →
      ∃ t, exec (.recoveryWrite v) s = .next t ∧ t.fw.result = 0 ∧ t.core = s.core ∧
        ∀ i, ((t.fw.image (rcvKind v)).slot b).block i =
          if rcvFirst v ≤ i ∧ i < rcvFirst v + rcvCount v
          then (Memory.read s.fw.window (4096 * (i - rcvFirst v)) 4096, Tab.get 0 s.fw.crcs (i - rcvFirst v))
          else ((s.fw.image (rcvKind v)).slot b).block i) ∧
    (rcvOp v = 3 → ∀ b, (s.fw.image (rcvKind v)).staging = some b →
      ((s.fw.image (rcvKind v)).slot b).verify (rcvKind v) (s.fw.image (rcvKind v)).svnMin s.fw.owners = .good →
      ∃ t, exec (.recoveryVerify v) s = .next t ∧ ((t.fw.image (rcvKind v)).slot b).state = .valid ∧ t.fw.result = 0) ∧
    (rcvOp v = 4 → ∀ b, (s.fw.image (rcvKind v)).find .valid = some b →
      (∃ t, exec (.recoveryCommit v) s = .next t ∧ ((t.fw.image (rcvKind v)).slot b).state = .active ∧
        ((t.fw.image (rcvKind v)).slot !b).state.inForce = false ∧ t.fw.result = 0 ∧ t.core = s.core ∧
        ((t.fw.image (rcvKind v)).nextStart = true ↔ rcvKind v = 1 ∨ rcvKind v = 6)) ∧
      (∀ bus off data, bus ≠ .doe → data.length ≤ 496 →
        ∃ t, exec (.recoveryDownloadMessage bus v off data) s = .next t ∧
          ((t.fw.image (rcvKind v)).slot b).state = .active ∧ t.fw.result = 0 ∧
          t.mod.mctpOut = s.mod.mctpOut ++ [(bus, leBytes 4 0)])) ∧
    (rcvOp v = 4 → (s.fw.image (rcvKind v)).find .valid = none → ∃ t, exec (.recoveryCommit v) s = .next t ∧
      t.fw.images = s.fw.images ∧ t.fw.result = 0x11 ∧ t.fw.detail = 0x62)

/-- What every step keeps of the flash slots: of each image kind at most one slot is ACTIVE or TRIAL (R463). -/
def Obligations.AtMostOneSlotInForce : Prop :=
  ∀ s t : State, s.fw.oneInForce → step s = .next t → t.fw.oneInForce

/-- No command lowers the minimum SVN of an image, and only FW_CONFIRM changes one (R459, R468). -/
def Obligations.MinimumSvnNeverFalls : Prop :=
  ∀ (i : Instr) (s t : State) (k : Nat), exec i s = .next t →
    (s.fw.image k).svnMin ≤ (t.fw.image k).svnMin ∧
    ((∀ c, i ≠ .fwConfirm c) → (t.fw.image k).svnMin = (s.fw.image k).svnMin)

/-- The DOE mailbox takes one object at a time, gives it up on an abort, and answers discovery. An SPDM request over a
transport on which SEC answers is answered once, the way it came, and nothing of the device changes but the state of that
connection: GET_VERSION starts it afresh, GET_CAPABILITIES and NEGOTIATE_ALGORITHMS move it on in their order. A certificate
is read from slot 0 alone. MCTP control sets the endpoint ID of its bus (R397, R398, R474; what the standard's own bytes are
is free, log 17). -/
def Obligations.ManagementRequestsAreAnswered : Prop :=
  (∀ (proto : Nat) (obj : List Byte) (s : State),
    (s.doeTakes proto obj = true → exec (.doeRequest proto obj) s =
      .next { s with mod := { s.mod with doeBusy := true, doeObj := some (proto, obj) } }) ∧
    (s.mod.doeBusy = true → exec (.doeRequest proto obj) s = .next s) ∧
    exec .doeAbort s = .next { s with mod := { s.mod with doeBusy := false, doeObj := none } }) ∧
  (∀ (n : Nat) (s : State), s.doeHolds 0 = true → ∃ t, exec (.doeDiscovery n) s = .next t ∧ t.mod.doeBusy = false ∧
    t.mod.doeOut.isSome = true ∧ t = { s with mod := t.mod }) ∧
  (∀ (b : Bus) (s : State) (i : Instr) (slot off len index code asym hash : Nat) (nonce : List Byte), s.spdmUp b = true →
    i ∈ [Instr.getVersion b, .getCapabilities b, .negotiateAlgorithms b asym hash, .getDigests b,
      .getCertificate b slot off len, .challenge b slot nonce, .getMeasurements b index nonce,
      .spdmSessionRequest b code] →
    ∃ t, exec i s = .next t ∧ t = { s with mod := t.mod } ∧
      (b = .doe → t.mod.doeBusy = false ∧ t.mod.doeOut.isSome = true ∧ t.mod.mctpOut = s.mod.mctpOut) ∧
      (b ≠ .doe → ∃ l, t.mod.mctpOut = s.mod.mctpOut ++ [(b, l)]) ∧
      (∀ b', b' ≠ b → t.mod.spdm b' = s.mod.spdm b') ∧
      (i = .getVersion b → t.mod.spdm b = { version := true }) ∧
      (i = .getCapabilities b → (s.mod.spdm b).version = true → (t.mod.spdm b).caps = true) ∧
      (i = .negotiateAlgorithms b asym hash →
        ((t.mod.spdm b).algs = true ↔ (s.mod.spdm b).algs = true ∨ ((s.mod.spdm b).caps = true ∧ asym ≠ 0 ∧ hash ≠ 0))) ∧
      (i = .getCertificate b 0 off len → (s.mod.spdm b).algs = true → b ≠ .doe →
        ∃ h, t.mod.mctpOut = s.mod.mctpOut ++ [(b, h ++ (Config.certChain.drop off).take len)])) ∧
  (∀ (eid : Nat) (s : State), (s.mctpUp .vdm = true → ∃ t, exec (.setEndpointId .vdm eid) s = .next t ∧
      t.mod.eidVdm = some (eid % 256) ∧ t.mod.eidSmbus = s.mod.eidSmbus ∧ t.core = s.core) ∧
    (s.mctpUp .smbus = true → ∃ t, exec (.setEndpointId .smbus eid) s = .next t ∧
      t.mod.eidSmbus = some (eid % 256) ∧ t.mod.eidVdm = s.mod.eidVdm ∧ t.core = s.core)) ∧
  (∀ (b : Bus) (code : Nat) (s : State), s.mctpUp b = true → ∃ t l, exec (.mctpControl b code) s = .next t ∧
    t = { s with mod := { s.mod with mctpOut := s.mod.mctpOut ++ [(b, l)] } })

/-- The other administrative commands: QUIET enters the state, with the devices in self-refresh once everything has
drained, and leaves it for READY; CHAIN_FORM keeps its table for the boundary two ticks on; the attestation report is 736
bytes; BEGIN of FW_STAGE erases the slot that is not in force, ABORT and a failed check leave no VALID slot (R115, R412,
R427, R464, Table 20-13). -/
def Obligations.AdministrativeCommands : Prop :=
  (∀ (s t : State) (e : Env) (r : Option Run), quiet s e = .ok (t, r) →
    (e.sub = 0 → s.core.mstate = .ready ∧ t.core.mstate = .quiet ∧ t.core.copies = s.core.copies ∧
      (r.isSome = true ↔ s.drained = true) ∧ (s.drained = true → t.dram.sr = true) ∧
      (s.drained = false → t.dram.entering = some e.cmd)) ∧
    (e.sub ≠ 0 → s.core.mstate = .quiet ∧ t.core.mstate = .ready ∧ t.dram.sr = false ∧ r = some (quick 0))) ∧
  (∀ (s t : State) (e : Env) (r : Option Run), chainForm s e = .ok (t, r) →
    r = none ∧ (∃ x, t.link.pending = some (x, e.now + 2, e.cmd) ∧ (e.sub ≠ 0 → x = {})) ∧
      t = { s with link := { s.link with pending := t.link.pending } }) ∧
  (∀ (s : State) (nonce : List Byte), (s.report nonce).length = 736) ∧
  (∀ (s t : State) (e : Env) (r : Option Run), fwStage s e = .ok (t, r) → 1 ≤ e.word 0 → e.word 0 ≤ 6 →
    t.core = s.core ∧ t.tick = s.tick ∧
      (e.sub = 0 → (s.fw.image (e.word 0)).sched = none → (s.fw.image (e.word 0)).inTrial = false →
        ((t.fw.image (e.word 0)).slot (s.fw.image (e.word 0)).a.state.inForce).state = .staging ∧
          (t.fw.image (e.word 0)).slot (!(s.fw.image (e.word 0)).a.state.inForce) =
            (s.fw.image (e.word 0)).slot (!(s.fw.image (e.word 0)).a.state.inForce)) ∧
      (e.sub = 3 → ∀ b, (s.fw.image (e.word 0)).staging = some b →
        ((t.fw.image (e.word 0)).slot b).state = .invalid))
end

