-- ==== Sys2Proof/Laws/Tab.lean ====
section
/-! SUPPORT. Laws of tables and memories: reading what was written, leaving the rest alone, and keeping the canonical
form. -/

namespace Sys2Proof.Machine

variable {α : Type}

@[simp] theorem Tab.get_nil (d : α) (k : Nat) : Tab.get d [] k = d := rfl

theorem Tab.get_del (d : α) (t : Tab α) (k j : Nat) :
    Tab.get d (Tab.del k t) j = if j = k then d else Tab.get d t j := by
  induction t with
  | nil => simp [Tab.del]
  | cons e r ih =>
    obtain ⟨i, v⟩ := e
    by_cases hk : i = k
    · subst hk
      rw [Tab.del, if_pos rfl, ih]
      by_cases hj : j = i
      · simp [hj]
      · simp [hj, Tab.get, Ne.symm hj]
    · rw [Tab.del, if_neg hk]
      by_cases hj : i = j
      · subst hj; simp [Tab.get, hk]
      · simp [Tab.get, hj, ih]

theorem Tab.key_del {t : Tab α} {k : Nat} {e : Nat × α} (h : e ∈ Tab.del k t) : e.1 ≠ k ∧ e ∈ t := by
  induction t with
  | nil => simp [Tab.del] at h
  | cons x r ih =>
    obtain ⟨i, v⟩ := x
    by_cases hk : i = k
    · rw [Tab.del, if_pos hk] at h
      exact ⟨(ih h).1, List.mem_cons_of_mem _ (ih h).2⟩
    · rw [Tab.del, if_neg hk] at h
      rcases List.mem_cons.1 h with rfl | h
      · exact ⟨hk, List.mem_cons_self⟩
      · exact ⟨(ih h).1, List.mem_cons_of_mem _ (ih h).2⟩

theorem Tab.get_put (d : α) {t : Tab α} {k : Nat} (v : α) (h : ∀ e ∈ t, e.1 ≠ k) (j : Nat) :
    Tab.get d (Tab.put k v t) j = if j = k then v else Tab.get d t j := by
  induction t with
  | nil =>
    by_cases hj : j = k
    · simp [Tab.put, Tab.get, hj]
    · simp [Tab.put, Tab.get, hj, Ne.symm hj]
  | cons x r ih =>
    obtain ⟨i, w⟩ := x
    have hi : i ≠ k := h (i, w) List.mem_cons_self
    have ih := ih fun e he => h e (List.mem_cons_of_mem _ he)
    by_cases hk : k < i
    · rw [Tab.put, if_pos hk]
      by_cases hj : j = k
      · simp [Tab.get, hj]
      · simp [Tab.get, hj, Ne.symm hj]
    · rw [Tab.put, if_neg hk]
      by_cases hj : i = j
      · subst hj; simp [Tab.get, hi]
      · simp [Tab.get, hj, ih]

/-- What an entry reads as after one entry was set. -/
theorem Tab.get_set [DecidableEq α] (d : α) (t : Tab α) (k j : Nat) (v : α) :
    Tab.get d (Tab.set d t k v) j = if j = k then v else Tab.get d t j := by
  unfold Tab.set
  split
  · next h => subst h; exact Tab.get_del v t k j
  · rw [Tab.get_put d v (fun e he => (Tab.key_del he).1), Tab.get_del]
    split <;> rfl

@[simp] theorem Tab.get_set_self [DecidableEq α] (d : α) (t : Tab α) (k : Nat) (v : α) :
    Tab.get d (Tab.set d t k v) k = v := by simp [Tab.get_set]

@[simp] theorem Tab.get_upd_self [DecidableEq α] (d : α) (t : Tab α) (k : Nat) (f : α → α) :
    Tab.get d (Tab.upd d t k f) k = f (Tab.get d t k) := by simp [Tab.upd]

theorem Tab.get_upd [DecidableEq α] (d : α) (t : Tab α) (k j : Nat) (f : α → α) :
    Tab.get d (Tab.upd d t k f) j = if j = k then f (Tab.get d t k) else Tab.get d t j := Tab.get_set ..

/-! ### The canonical form -/

theorem Tab.wf_cons [DecidableEq α] {d : α} {e : Nat × α} {r : Tab α} :
    Tab.wf d (e :: r) = true ↔ e.2 ≠ d ∧ (∀ x ∈ r, e.1 < x.1) ∧ Tab.wf d r = true := by
  induction r generalizing e with
  | nil => obtain ⟨i, v⟩ := e; simp [Tab.wf]
  | cons y r ih =>
    obtain ⟨i, v⟩ := e
    obtain ⟨j, w⟩ := y
    constructor
    · intro h
      simp only [Tab.wf, Bool.and_eq_true, bne_iff_ne, decide_eq_true_eq] at h
      refine ⟨h.1.1, ?_, h.2⟩
      intro x hx
      rcases List.mem_cons.1 hx with rfl | hx
      · exact h.1.2
      · exact lt_trans h.1.2 ((ih.1 h.2).2.1 x hx)
    · intro h
      simp only [Tab.wf, Bool.and_eq_true, bne_iff_ne, decide_eq_true_eq]
      exact ⟨⟨h.1, h.2.1 _ List.mem_cons_self⟩, h.2.2⟩

theorem Tab.wf_del [DecidableEq α] {d : α} {t : Tab α} (k : Nat) (h : Tab.wf d t = true) : Tab.wf d (Tab.del k t) = true := by
  induction t with
  | nil => simp [Tab.del, Tab.wf]
  | cons e r ih =>
    obtain ⟨i, v⟩ := e
    have h := Tab.wf_cons.1 h
    by_cases hk : i = k
    · rw [Tab.del, if_pos hk]; exact ih h.2.2
    · rw [Tab.del, if_neg hk]
      exact Tab.wf_cons.2 ⟨h.1, fun x hx => h.2.1 x (Tab.key_del hx).2, ih h.2.2⟩

theorem Tab.mem_put {t : Tab α} {k : Nat} {v : α} {x : Nat × α} (h : x ∈ Tab.put k v t) : x = (k, v) ∨ x ∈ t := by
  induction t with
  | nil => exact .inl (by simpa [Tab.put] using h)
  | cons e r ih =>
    obtain ⟨i, w⟩ := e
    rw [Tab.put] at h
    split at h
    · exact (List.mem_cons.1 h)
    · rcases List.mem_cons.1 h with rfl | h
      · exact .inr List.mem_cons_self
      · exact (ih h).imp_right (List.mem_cons_of_mem _)

theorem Tab.wf_put [DecidableEq α] {d : α} {t : Tab α} {k : Nat} {v : α} (hv : v ≠ d) (hk : ∀ e ∈ t, e.1 ≠ k)
    (h : Tab.wf d t = true) : Tab.wf d (Tab.put k v t) = true := by
  induction t with
  | nil => simp [Tab.put, Tab.wf, hv]
  | cons e r ih =>
    obtain ⟨i, w⟩ := e
    have h' := Tab.wf_cons.1 h
    have hi : i ≠ k := hk (i, w) List.mem_cons_self
    rw [Tab.put]
    split
    · next hlt =>
      refine Tab.wf_cons.2 ⟨hv, ?_, h⟩
      intro x hx
      rcases List.mem_cons.1 hx with rfl | hx
      · exact hlt
      · exact lt_trans hlt (h'.2.1 x hx)
    · next hlt =>
      refine Tab.wf_cons.2 ⟨h'.1, ?_, ih (fun e he => hk e (List.mem_cons_of_mem _ he)) h'.2.2⟩
      intro x hx
      rcases Tab.mem_put hx with rfl | hx
      · exact lt_of_le_of_ne (Nat.not_lt.1 hlt) hi
      · exact h'.2.1 x hx

/-- Setting an entry keeps the canonical form. -/
theorem Tab.wf_set [DecidableEq α] {d : α} {t : Tab α} (k : Nat) (v : α) (h : Tab.wf d t = true) :
    Tab.wf d (Tab.set d t k v) = true := by
  unfold Tab.set
  split
  · exact Tab.wf_del k h
  · exact Tab.wf_put ‹_› (fun e he => (Tab.key_del he).1) (Tab.wf_del k h)

theorem Tab.wf_upd [DecidableEq α] {d : α} {t : Tab α} (k : Nat) (f : α → α) (h : Tab.wf d t = true) :
    Tab.wf d (Tab.upd d t k f) = true := Tab.wf_set k _ h

/-- What an entry reads as after all were mapped. -/
theorem Tab.get_mapAll [DecidableEq α] {d : α} {f : Nat → α → α} (hf : ∀ k, f k d = d) (t : Tab α) (k : Nat) :
    Tab.get d (Tab.mapAll d t f) k = f k (Tab.get d t k) := by
  induction t with
  | nil => simp [Tab.mapAll, hf]
  | cons e r ih =>
    obtain ⟨i, v⟩ := e
    simp only [Tab.mapAll, List.foldr_cons] at ih ⊢
    rw [Tab.get_set, ih]
    by_cases hk : i = k
    · subst hk; simp [Tab.get]
    · simp [Tab.get, hk, Ne.symm hk]

/-- Mapping gives the canonical form. -/
theorem Tab.wf_mapAll [DecidableEq α] {d : α} (t : Tab α) (f : Nat → α → α) : Tab.wf d (Tab.mapAll d t f) = true := by
  induction t with
  | nil => rfl
  | cons e r ih => simp only [Tab.mapAll, List.foldr_cons] at ih ⊢; exact Tab.wf_set _ _ ih

/-! ### Memories -/

theorem Memory.wf_write {m : Memory} (a : Nat) (l : List Byte) (h : m.wf = true) : (Memory.write m a l).wf = true := by
  induction l generalizing m a with
  | nil => exact h
  | cons b r ih => exact ih (a + 1) (Tab.wf_set a b h)

theorem Memory.wf_clear (m : Memory) (p : Nat → Bool) : (Memory.clear m p).wf = true := Tab.wf_mapAll m _

/-- A cleared address reads as 0, any other as before. -/
theorem Memory.byte_clear (m : Memory) (p : Nat → Bool) (a : Nat) :
    Memory.byte (Memory.clear m p) a = if p a then 0 else Memory.byte m a :=
  Tab.get_mapAll (fun _ => by simp) m a

theorem Memory.wf_nil : Memory.wf [] = true := rfl

/-- What a byte reads as after a write. -/
theorem Memory.byte_write (m : Memory) (a : Nat) (l : List Byte) (j : Nat) :
    Memory.byte (Memory.write m a l) j = if a ≤ j ∧ j < a + l.length then l.getD (j - a) 0 else Memory.byte m j := by
  induction l generalizing m a with
  | nil => simp [Memory.write, Nat.not_lt.2]
  | cons b r ih =>
    rw [Memory.write, ih]
    unfold Memory.byte
    by_cases h : j = a
    · subst h; simp
    · by_cases h' : a + 1 ≤ j ∧ j < a + 1 + r.length
      · have : j - a = (j - (a + 1)) + 1 := by omega
        rw [if_pos h', if_pos ⟨by omega, by simp; omega⟩, this, List.getD_cons_succ]
      · rw [if_neg h', if_neg (by simp; omega), Tab.get_set, if_neg h]

theorem Memory.byte_write_of_not_mem (m : Memory) (a : Nat) (l : List Byte) (j : Nat) (h : j < a ∨ a + l.length ≤ j) :
    Memory.byte (Memory.write m a l) j = Memory.byte m j := by
  rw [Memory.byte_write, if_neg (by omega)]

/-- Reading back a range just written. -/
theorem Memory.read_write (m : Memory) (a : Nat) (l : List Byte) : Memory.read (Memory.write m a l) a l.length = l := by
  apply List.ext_getElem
  · simp [Memory.read]
  · intro i h1 h2
    simp only [Memory.read, List.getElem_map, List.getElem_range, Memory.byte_write]
    rw [if_pos (by omega)]
    simp [h2]

theorem leBytes_length (n v : Nat) : (leBytes n v).length = n := by
  induction n generalizing v with
  | zero => rfl
  | succ n ih => simp [leBytes, ih]

/-- Little-endian bytes give back their number (R7). -/
theorem leNat_leBytes (n v : Nat) : leNat (leBytes n v) = v % 256 ^ n := by
  induction n generalizing v with
  | zero => simp [leBytes, leNat, Nat.mod_one]
  | succ n ih =>
    rw [leBytes, leNat, ih, BitVec.toNat_ofNat]
    show v % 256 + 256 * (v / 256 % 256 ^ n) = v % 256 ^ (n + 1)
    rw [Nat.pow_succ, Nat.mul_comm (256 ^ n) 256, Nat.mod_mul]

end Sys2Proof.Machine
end

