-- ==== Sys2Proof/Laws/State.lean ====
section
/-! SUPPORT. One lemma per field per update of `Core`, and what an updated table reads as: a proof over an update never
unfolds it. -/

namespace Sys2Proof.Machine

section
variable (c : Core)

@[simp] theorem Core.setQ_mstate (k : Nat) (v : Queue) : (c.setQ k v).mstate = c.mstate := rfl
@[simp] theorem Core.setQ_alert (k : Nat) (v : Queue) : (c.setQ k v).alert = c.alert := rfl
@[simp] theorem Core.setQ_host (k : Nat) (v : Queue) : (c.setQ k v).host = c.host := rfl
@[simp] theorem Core.setQ_parts (k : Nat) (v : Queue) : (c.setQ k v).parts = c.parts := rfl
@[simp] theorem Core.setQ_buffers (k : Nat) (v : Queue) : (c.setQ k v).buffers = c.buffers := rfl
@[simp] theorem Core.setQ_copies (k : Nat) (v : Queue) : (c.setQ k v).copies = c.copies := rfl
@[simp] theorem Core.setQ_programs (k : Nat) (v : Queue) : (c.setQ k v).programs = c.programs := rfl
@[simp] theorem Core.setQ_bindings (k : Nat) (v : Queue) : (c.setQ k v).bindings = c.bindings := rfl
@[simp] theorem Core.setQ_insts (k : Nat) (v : Queue) : (c.setQ k v).insts = c.insts := rfl
@[simp] theorem Core.setQ_nextInst (k : Nat) (v : Queue) : (c.setQ k v).nextInst = c.nextInst := rfl
@[simp] theorem Core.setQ_runs (k : Nat) (v : Queue) : (c.setQ k v).runs = c.runs := rfl
@[simp] theorem Core.setQ_nextRun (k : Nat) (v : Queue) : (c.setQ k v).nextRun = c.nextRun := rfl
@[simp] theorem Core.setQ_ctxs (k : Nat) (v : Queue) : (c.setQ k v).ctxs = c.ctxs := rfl
@[simp] theorem Core.setQ_clips (k : Nat) (v : Queue) : (c.setQ k v).clips = c.clips := rfl
@[simp] theorem Core.setQ_free (k : Nat) (v : Queue) : (c.setQ k v).free = c.free := rfl
@[simp] theorem Core.setQ_dropped (k : Nat) (v : Queue) : (c.setQ k v).dropped = c.dropped := rfl
@[simp] theorem Core.setQ_dropQs (k : Nat) (v : Queue) : (c.setQ k v).dropQs = c.dropQs := rfl
@[simp] theorem Core.setQ_chaffT (k : Nat) (v : Queue) : (c.setQ k v).chaffT = c.chaffT := rfl
@[simp] theorem Core.setQ_retired (k : Nat) (v : Queue) : (c.setQ k v).retired = c.retired := rfl
@[simp] theorem Core.setQ_decPlan (k : Nat) (v : Queue) : (c.setQ k v).decPlan = c.decPlan := rfl
@[simp] theorem Core.setQ_cells (k : Nat) (v : Queue) : (c.setQ k v).cells = c.cells := rfl
@[simp] theorem Core.setQ_moving (k : Nat) (v : Queue) : (c.setQ k v).moving = c.moving := rfl
@[simp] theorem Core.setQ_nextMove (k : Nat) (v : Queue) : (c.setQ k v).nextMove = c.nextMove := rfl
@[simp] theorem Core.setQ_vregs (k : Nat) (v : Queue) : (c.setQ k v).vregs = c.vregs := rfl
@[simp] theorem Core.setQ_rows (k : Nat) (v : Queue) : (c.setQ k v).rows = c.rows := rfl
@[simp] theorem Core.setQ_untold (k : Nat) (v : Queue) : (c.setQ k v).untold = c.untold := rfl

@[simp] theorem Core.updQ_mstate (k : Nat) (f : Queue → Queue) : (c.updQ k f).mstate = c.mstate := rfl
@[simp] theorem Core.updQ_alert (k : Nat) (f : Queue → Queue) : (c.updQ k f).alert = c.alert := rfl
@[simp] theorem Core.updQ_host (k : Nat) (f : Queue → Queue) : (c.updQ k f).host = c.host := rfl
@[simp] theorem Core.updQ_parts (k : Nat) (f : Queue → Queue) : (c.updQ k f).parts = c.parts := rfl
@[simp] theorem Core.updQ_buffers (k : Nat) (f : Queue → Queue) : (c.updQ k f).buffers = c.buffers := rfl
@[simp] theorem Core.updQ_copies (k : Nat) (f : Queue → Queue) : (c.updQ k f).copies = c.copies := rfl
@[simp] theorem Core.updQ_programs (k : Nat) (f : Queue → Queue) : (c.updQ k f).programs = c.programs := rfl
@[simp] theorem Core.updQ_bindings (k : Nat) (f : Queue → Queue) : (c.updQ k f).bindings = c.bindings := rfl
@[simp] theorem Core.updQ_insts (k : Nat) (f : Queue → Queue) : (c.updQ k f).insts = c.insts := rfl
@[simp] theorem Core.updQ_nextInst (k : Nat) (f : Queue → Queue) : (c.updQ k f).nextInst = c.nextInst := rfl
@[simp] theorem Core.updQ_runs (k : Nat) (f : Queue → Queue) : (c.updQ k f).runs = c.runs := rfl
@[simp] theorem Core.updQ_nextRun (k : Nat) (f : Queue → Queue) : (c.updQ k f).nextRun = c.nextRun := rfl
@[simp] theorem Core.updQ_ctxs (k : Nat) (f : Queue → Queue) : (c.updQ k f).ctxs = c.ctxs := rfl
@[simp] theorem Core.updQ_clips (k : Nat) (f : Queue → Queue) : (c.updQ k f).clips = c.clips := rfl
@[simp] theorem Core.updQ_free (k : Nat) (f : Queue → Queue) : (c.updQ k f).free = c.free := rfl
@[simp] theorem Core.updQ_dropped (k : Nat) (f : Queue → Queue) : (c.updQ k f).dropped = c.dropped := rfl
@[simp] theorem Core.updQ_dropQs (k : Nat) (f : Queue → Queue) : (c.updQ k f).dropQs = c.dropQs := rfl
@[simp] theorem Core.updQ_chaffT (k : Nat) (f : Queue → Queue) : (c.updQ k f).chaffT = c.chaffT := rfl
@[simp] theorem Core.updQ_retired (k : Nat) (f : Queue → Queue) : (c.updQ k f).retired = c.retired := rfl
@[simp] theorem Core.updQ_decPlan (k : Nat) (f : Queue → Queue) : (c.updQ k f).decPlan = c.decPlan := rfl
@[simp] theorem Core.updQ_cells (k : Nat) (f : Queue → Queue) : (c.updQ k f).cells = c.cells := rfl
@[simp] theorem Core.updQ_moving (k : Nat) (f : Queue → Queue) : (c.updQ k f).moving = c.moving := rfl
@[simp] theorem Core.updQ_nextMove (k : Nat) (f : Queue → Queue) : (c.updQ k f).nextMove = c.nextMove := rfl
@[simp] theorem Core.updQ_vregs (k : Nat) (f : Queue → Queue) : (c.updQ k f).vregs = c.vregs := rfl
@[simp] theorem Core.updQ_rows (k : Nat) (f : Queue → Queue) : (c.updQ k f).rows = c.rows := rfl
@[simp] theorem Core.updQ_untold (k : Nat) (f : Queue → Queue) : (c.updQ k f).untold = c.untold := rfl

@[simp] theorem Core.updFn_mstate (k : Nat) (f : Fn → Fn) : (c.updFn k f).mstate = c.mstate := rfl
@[simp] theorem Core.updFn_alert (k : Nat) (f : Fn → Fn) : (c.updFn k f).alert = c.alert := rfl
@[simp] theorem Core.updFn_qs (k : Nat) (f : Fn → Fn) : (c.updFn k f).qs = c.qs := rfl
@[simp] theorem Core.updFn_parts (k : Nat) (f : Fn → Fn) : (c.updFn k f).parts = c.parts := rfl
@[simp] theorem Core.updFn_buffers (k : Nat) (f : Fn → Fn) : (c.updFn k f).buffers = c.buffers := rfl
@[simp] theorem Core.updFn_copies (k : Nat) (f : Fn → Fn) : (c.updFn k f).copies = c.copies := rfl
@[simp] theorem Core.updFn_programs (k : Nat) (f : Fn → Fn) : (c.updFn k f).programs = c.programs := rfl
@[simp] theorem Core.updFn_bindings (k : Nat) (f : Fn → Fn) : (c.updFn k f).bindings = c.bindings := rfl
@[simp] theorem Core.updFn_insts (k : Nat) (f : Fn → Fn) : (c.updFn k f).insts = c.insts := rfl
@[simp] theorem Core.updFn_nextInst (k : Nat) (f : Fn → Fn) : (c.updFn k f).nextInst = c.nextInst := rfl
@[simp] theorem Core.updFn_runs (k : Nat) (f : Fn → Fn) : (c.updFn k f).runs = c.runs := rfl
@[simp] theorem Core.updFn_nextRun (k : Nat) (f : Fn → Fn) : (c.updFn k f).nextRun = c.nextRun := rfl
@[simp] theorem Core.updFn_ctxs (k : Nat) (f : Fn → Fn) : (c.updFn k f).ctxs = c.ctxs := rfl
@[simp] theorem Core.updFn_clips (k : Nat) (f : Fn → Fn) : (c.updFn k f).clips = c.clips := rfl
@[simp] theorem Core.updFn_free (k : Nat) (f : Fn → Fn) : (c.updFn k f).free = c.free := rfl
@[simp] theorem Core.updFn_dropped (k : Nat) (f : Fn → Fn) : (c.updFn k f).dropped = c.dropped := rfl
@[simp] theorem Core.updFn_dropQs (k : Nat) (f : Fn → Fn) : (c.updFn k f).dropQs = c.dropQs := rfl
@[simp] theorem Core.updFn_chaffT (k : Nat) (f : Fn → Fn) : (c.updFn k f).chaffT = c.chaffT := rfl
@[simp] theorem Core.updFn_retired (k : Nat) (f : Fn → Fn) : (c.updFn k f).retired = c.retired := rfl
@[simp] theorem Core.updFn_decPlan (k : Nat) (f : Fn → Fn) : (c.updFn k f).decPlan = c.decPlan := rfl
@[simp] theorem Core.updFn_cells (k : Nat) (f : Fn → Fn) : (c.updFn k f).cells = c.cells := rfl
@[simp] theorem Core.updFn_moving (k : Nat) (f : Fn → Fn) : (c.updFn k f).moving = c.moving := rfl
@[simp] theorem Core.updFn_nextMove (k : Nat) (f : Fn → Fn) : (c.updFn k f).nextMove = c.nextMove := rfl
@[simp] theorem Core.updFn_vregs (k : Nat) (f : Fn → Fn) : (c.updFn k f).vregs = c.vregs := rfl
@[simp] theorem Core.updFn_rows (k : Nat) (f : Fn → Fn) : (c.updFn k f).rows = c.rows := rfl
@[simp] theorem Core.updFn_untold (k : Nat) (f : Fn → Fn) : (c.updFn k f).untold = c.untold := rfl

@[simp] theorem Core.updPart_mstate (k : Nat) (f : Part → Part) : (c.updPart k f).mstate = c.mstate := rfl
@[simp] theorem Core.updPart_alert (k : Nat) (f : Part → Part) : (c.updPart k f).alert = c.alert := rfl
@[simp] theorem Core.updPart_qs (k : Nat) (f : Part → Part) : (c.updPart k f).qs = c.qs := rfl
@[simp] theorem Core.updPart_host (k : Nat) (f : Part → Part) : (c.updPart k f).host = c.host := rfl
@[simp] theorem Core.updPart_buffers (k : Nat) (f : Part → Part) : (c.updPart k f).buffers = c.buffers := rfl
@[simp] theorem Core.updPart_copies (k : Nat) (f : Part → Part) : (c.updPart k f).copies = c.copies := rfl
@[simp] theorem Core.updPart_programs (k : Nat) (f : Part → Part) : (c.updPart k f).programs = c.programs := rfl
@[simp] theorem Core.updPart_bindings (k : Nat) (f : Part → Part) : (c.updPart k f).bindings = c.bindings := rfl
@[simp] theorem Core.updPart_insts (k : Nat) (f : Part → Part) : (c.updPart k f).insts = c.insts := rfl
@[simp] theorem Core.updPart_nextInst (k : Nat) (f : Part → Part) : (c.updPart k f).nextInst = c.nextInst := rfl
@[simp] theorem Core.updPart_runs (k : Nat) (f : Part → Part) : (c.updPart k f).runs = c.runs := rfl
@[simp] theorem Core.updPart_nextRun (k : Nat) (f : Part → Part) : (c.updPart k f).nextRun = c.nextRun := rfl
@[simp] theorem Core.updPart_ctxs (k : Nat) (f : Part → Part) : (c.updPart k f).ctxs = c.ctxs := rfl
@[simp] theorem Core.updPart_clips (k : Nat) (f : Part → Part) : (c.updPart k f).clips = c.clips := rfl
@[simp] theorem Core.updPart_free (k : Nat) (f : Part → Part) : (c.updPart k f).free = c.free := rfl
@[simp] theorem Core.updPart_dropped (k : Nat) (f : Part → Part) : (c.updPart k f).dropped = c.dropped := rfl
@[simp] theorem Core.updPart_dropQs (k : Nat) (f : Part → Part) : (c.updPart k f).dropQs = c.dropQs := rfl
@[simp] theorem Core.updPart_chaffT (k : Nat) (f : Part → Part) : (c.updPart k f).chaffT = c.chaffT := rfl
@[simp] theorem Core.updPart_retired (k : Nat) (f : Part → Part) : (c.updPart k f).retired = c.retired := rfl
@[simp] theorem Core.updPart_decPlan (k : Nat) (f : Part → Part) : (c.updPart k f).decPlan = c.decPlan := rfl
@[simp] theorem Core.updPart_cells (k : Nat) (f : Part → Part) : (c.updPart k f).cells = c.cells := rfl
@[simp] theorem Core.updPart_moving (k : Nat) (f : Part → Part) : (c.updPart k f).moving = c.moving := rfl
@[simp] theorem Core.updPart_nextMove (k : Nat) (f : Part → Part) : (c.updPart k f).nextMove = c.nextMove := rfl
@[simp] theorem Core.updPart_vregs (k : Nat) (f : Part → Part) : (c.updPart k f).vregs = c.vregs := rfl
@[simp] theorem Core.updPart_rows (k : Nat) (f : Part → Part) : (c.updPart k f).rows = c.rows := rfl
@[simp] theorem Core.updPart_untold (k : Nat) (f : Part → Part) : (c.updPart k f).untold = c.untold := rfl

@[simp] theorem Core.updCtx_mstate (k : Nat) (f : Ctx → Ctx) : (c.updCtx k f).mstate = c.mstate := rfl
@[simp] theorem Core.updCtx_alert (k : Nat) (f : Ctx → Ctx) : (c.updCtx k f).alert = c.alert := rfl
@[simp] theorem Core.updCtx_qs (k : Nat) (f : Ctx → Ctx) : (c.updCtx k f).qs = c.qs := rfl
@[simp] theorem Core.updCtx_host (k : Nat) (f : Ctx → Ctx) : (c.updCtx k f).host = c.host := rfl
@[simp] theorem Core.updCtx_parts (k : Nat) (f : Ctx → Ctx) : (c.updCtx k f).parts = c.parts := rfl
@[simp] theorem Core.updCtx_buffers (k : Nat) (f : Ctx → Ctx) : (c.updCtx k f).buffers = c.buffers := rfl
@[simp] theorem Core.updCtx_copies (k : Nat) (f : Ctx → Ctx) : (c.updCtx k f).copies = c.copies := rfl
@[simp] theorem Core.updCtx_programs (k : Nat) (f : Ctx → Ctx) : (c.updCtx k f).programs = c.programs := rfl
@[simp] theorem Core.updCtx_bindings (k : Nat) (f : Ctx → Ctx) : (c.updCtx k f).bindings = c.bindings := rfl
@[simp] theorem Core.updCtx_insts (k : Nat) (f : Ctx → Ctx) : (c.updCtx k f).insts = c.insts := rfl
@[simp] theorem Core.updCtx_nextInst (k : Nat) (f : Ctx → Ctx) : (c.updCtx k f).nextInst = c.nextInst := rfl
@[simp] theorem Core.updCtx_runs (k : Nat) (f : Ctx → Ctx) : (c.updCtx k f).runs = c.runs := rfl
@[simp] theorem Core.updCtx_nextRun (k : Nat) (f : Ctx → Ctx) : (c.updCtx k f).nextRun = c.nextRun := rfl
@[simp] theorem Core.updCtx_clips (k : Nat) (f : Ctx → Ctx) : (c.updCtx k f).clips = c.clips := rfl
@[simp] theorem Core.updCtx_free (k : Nat) (f : Ctx → Ctx) : (c.updCtx k f).free = c.free := rfl
@[simp] theorem Core.updCtx_dropped (k : Nat) (f : Ctx → Ctx) : (c.updCtx k f).dropped = c.dropped := rfl
@[simp] theorem Core.updCtx_dropQs (k : Nat) (f : Ctx → Ctx) : (c.updCtx k f).dropQs = c.dropQs := rfl
@[simp] theorem Core.updCtx_chaffT (k : Nat) (f : Ctx → Ctx) : (c.updCtx k f).chaffT = c.chaffT := rfl
@[simp] theorem Core.updCtx_retired (k : Nat) (f : Ctx → Ctx) : (c.updCtx k f).retired = c.retired := rfl
@[simp] theorem Core.updCtx_decPlan (k : Nat) (f : Ctx → Ctx) : (c.updCtx k f).decPlan = c.decPlan := rfl
@[simp] theorem Core.updCtx_cells (k : Nat) (f : Ctx → Ctx) : (c.updCtx k f).cells = c.cells := rfl
@[simp] theorem Core.updCtx_moving (k : Nat) (f : Ctx → Ctx) : (c.updCtx k f).moving = c.moving := rfl
@[simp] theorem Core.updCtx_nextMove (k : Nat) (f : Ctx → Ctx) : (c.updCtx k f).nextMove = c.nextMove := rfl
@[simp] theorem Core.updCtx_vregs (k : Nat) (f : Ctx → Ctx) : (c.updCtx k f).vregs = c.vregs := rfl
@[simp] theorem Core.updCtx_rows (k : Nat) (f : Ctx → Ctx) : (c.updCtx k f).rows = c.rows := rfl
@[simp] theorem Core.updCtx_untold (k : Nat) (f : Ctx → Ctx) : (c.updCtx k f).untold = c.untold := rfl

@[simp] theorem Core.updHost_mstate (f : HostIf → HostIf) : (c.updHost f).mstate = c.mstate := rfl
@[simp] theorem Core.updHost_alert (f : HostIf → HostIf) : (c.updHost f).alert = c.alert := rfl
@[simp] theorem Core.updHost_qs (f : HostIf → HostIf) : (c.updHost f).qs = c.qs := rfl
@[simp] theorem Core.updHost_parts (f : HostIf → HostIf) : (c.updHost f).parts = c.parts := rfl
@[simp] theorem Core.updHost_buffers (f : HostIf → HostIf) : (c.updHost f).buffers = c.buffers := rfl
@[simp] theorem Core.updHost_copies (f : HostIf → HostIf) : (c.updHost f).copies = c.copies := rfl
@[simp] theorem Core.updHost_programs (f : HostIf → HostIf) : (c.updHost f).programs = c.programs := rfl
@[simp] theorem Core.updHost_bindings (f : HostIf → HostIf) : (c.updHost f).bindings = c.bindings := rfl
@[simp] theorem Core.updHost_insts (f : HostIf → HostIf) : (c.updHost f).insts = c.insts := rfl
@[simp] theorem Core.updHost_nextInst (f : HostIf → HostIf) : (c.updHost f).nextInst = c.nextInst := rfl
@[simp] theorem Core.updHost_runs (f : HostIf → HostIf) : (c.updHost f).runs = c.runs := rfl
@[simp] theorem Core.updHost_nextRun (f : HostIf → HostIf) : (c.updHost f).nextRun = c.nextRun := rfl
@[simp] theorem Core.updHost_ctxs (f : HostIf → HostIf) : (c.updHost f).ctxs = c.ctxs := rfl
@[simp] theorem Core.updHost_clips (f : HostIf → HostIf) : (c.updHost f).clips = c.clips := rfl
@[simp] theorem Core.updHost_free (f : HostIf → HostIf) : (c.updHost f).free = c.free := rfl
@[simp] theorem Core.updHost_dropped (f : HostIf → HostIf) : (c.updHost f).dropped = c.dropped := rfl
@[simp] theorem Core.updHost_dropQs (f : HostIf → HostIf) : (c.updHost f).dropQs = c.dropQs := rfl
@[simp] theorem Core.updHost_chaffT (f : HostIf → HostIf) : (c.updHost f).chaffT = c.chaffT := rfl
@[simp] theorem Core.updHost_retired (f : HostIf → HostIf) : (c.updHost f).retired = c.retired := rfl
@[simp] theorem Core.updHost_decPlan (f : HostIf → HostIf) : (c.updHost f).decPlan = c.decPlan := rfl
@[simp] theorem Core.updHost_cells (f : HostIf → HostIf) : (c.updHost f).cells = c.cells := rfl
@[simp] theorem Core.updHost_moving (f : HostIf → HostIf) : (c.updHost f).moving = c.moving := rfl
@[simp] theorem Core.updHost_nextMove (f : HostIf → HostIf) : (c.updHost f).nextMove = c.nextMove := rfl
@[simp] theorem Core.updHost_vregs (f : HostIf → HostIf) : (c.updHost f).vregs = c.vregs := rfl
@[simp] theorem Core.updHost_rows (f : HostIf → HostIf) : (c.updHost f).rows = c.rows := rfl
@[simp] theorem Core.updHost_untold (f : HostIf → HostIf) : (c.updHost f).untold = c.untold := rfl

@[simp] theorem Core.health_mstate (k : Nat) (f : Health → Health) : (c.health k f).mstate = c.mstate := rfl
@[simp] theorem Core.health_alert (k : Nat) (f : Health → Health) : (c.health k f).alert = c.alert := rfl
@[simp] theorem Core.health_qs (k : Nat) (f : Health → Health) : (c.health k f).qs = c.qs := rfl
@[simp] theorem Core.health_host (k : Nat) (f : Health → Health) : (c.health k f).host = c.host := rfl
@[simp] theorem Core.health_buffers (k : Nat) (f : Health → Health) : (c.health k f).buffers = c.buffers := rfl
@[simp] theorem Core.health_copies (k : Nat) (f : Health → Health) : (c.health k f).copies = c.copies := rfl
@[simp] theorem Core.health_programs (k : Nat) (f : Health → Health) : (c.health k f).programs = c.programs := rfl
@[simp] theorem Core.health_bindings (k : Nat) (f : Health → Health) : (c.health k f).bindings = c.bindings := rfl
@[simp] theorem Core.health_insts (k : Nat) (f : Health → Health) : (c.health k f).insts = c.insts := rfl
@[simp] theorem Core.health_nextInst (k : Nat) (f : Health → Health) : (c.health k f).nextInst = c.nextInst := rfl
@[simp] theorem Core.health_runs (k : Nat) (f : Health → Health) : (c.health k f).runs = c.runs := rfl
@[simp] theorem Core.health_nextRun (k : Nat) (f : Health → Health) : (c.health k f).nextRun = c.nextRun := rfl
@[simp] theorem Core.health_ctxs (k : Nat) (f : Health → Health) : (c.health k f).ctxs = c.ctxs := rfl
@[simp] theorem Core.health_clips (k : Nat) (f : Health → Health) : (c.health k f).clips = c.clips := rfl
@[simp] theorem Core.health_free (k : Nat) (f : Health → Health) : (c.health k f).free = c.free := rfl
@[simp] theorem Core.health_dropped (k : Nat) (f : Health → Health) : (c.health k f).dropped = c.dropped := rfl
@[simp] theorem Core.health_dropQs (k : Nat) (f : Health → Health) : (c.health k f).dropQs = c.dropQs := rfl
@[simp] theorem Core.health_chaffT (k : Nat) (f : Health → Health) : (c.health k f).chaffT = c.chaffT := rfl
@[simp] theorem Core.health_retired (k : Nat) (f : Health → Health) : (c.health k f).retired = c.retired := rfl
@[simp] theorem Core.health_decPlan (k : Nat) (f : Health → Health) : (c.health k f).decPlan = c.decPlan := rfl
@[simp] theorem Core.health_cells (k : Nat) (f : Health → Health) : (c.health k f).cells = c.cells := rfl
@[simp] theorem Core.health_moving (k : Nat) (f : Health → Health) : (c.health k f).moving = c.moving := rfl
@[simp] theorem Core.health_nextMove (k : Nat) (f : Health → Health) : (c.health k f).nextMove = c.nextMove := rfl
@[simp] theorem Core.health_vregs (k : Nat) (f : Health → Health) : (c.health k f).vregs = c.vregs := rfl
@[simp] theorem Core.health_rows (k : Nat) (f : Health → Health) : (c.health k f).rows = c.rows := rfl
@[simp] theorem Core.health_untold (k : Nat) (f : Health → Health) : (c.health k f).untold = c.untold := rfl

@[simp] theorem Core.updInst_mstate (k : Nat) (f : Inst → Inst) : (c.updInst k f).mstate = c.mstate := rfl
@[simp] theorem Core.updInst_alert (k : Nat) (f : Inst → Inst) : (c.updInst k f).alert = c.alert := rfl
@[simp] theorem Core.updInst_qs (k : Nat) (f : Inst → Inst) : (c.updInst k f).qs = c.qs := rfl
@[simp] theorem Core.updInst_host (k : Nat) (f : Inst → Inst) : (c.updInst k f).host = c.host := rfl
@[simp] theorem Core.updInst_parts (k : Nat) (f : Inst → Inst) : (c.updInst k f).parts = c.parts := rfl
@[simp] theorem Core.updInst_buffers (k : Nat) (f : Inst → Inst) : (c.updInst k f).buffers = c.buffers := rfl
@[simp] theorem Core.updInst_copies (k : Nat) (f : Inst → Inst) : (c.updInst k f).copies = c.copies := rfl
@[simp] theorem Core.updInst_programs (k : Nat) (f : Inst → Inst) : (c.updInst k f).programs = c.programs := rfl
@[simp] theorem Core.updInst_bindings (k : Nat) (f : Inst → Inst) : (c.updInst k f).bindings = c.bindings := rfl
@[simp] theorem Core.updInst_nextInst (k : Nat) (f : Inst → Inst) : (c.updInst k f).nextInst = c.nextInst := rfl
@[simp] theorem Core.updInst_runs (k : Nat) (f : Inst → Inst) : (c.updInst k f).runs = c.runs := rfl
@[simp] theorem Core.updInst_nextRun (k : Nat) (f : Inst → Inst) : (c.updInst k f).nextRun = c.nextRun := rfl
@[simp] theorem Core.updInst_ctxs (k : Nat) (f : Inst → Inst) : (c.updInst k f).ctxs = c.ctxs := rfl
@[simp] theorem Core.updInst_clips (k : Nat) (f : Inst → Inst) : (c.updInst k f).clips = c.clips := rfl
@[simp] theorem Core.updInst_free (k : Nat) (f : Inst → Inst) : (c.updInst k f).free = c.free := rfl
@[simp] theorem Core.updInst_dropped (k : Nat) (f : Inst → Inst) : (c.updInst k f).dropped = c.dropped := rfl
@[simp] theorem Core.updInst_dropQs (k : Nat) (f : Inst → Inst) : (c.updInst k f).dropQs = c.dropQs := rfl
@[simp] theorem Core.updInst_chaffT (k : Nat) (f : Inst → Inst) : (c.updInst k f).chaffT = c.chaffT := rfl
@[simp] theorem Core.updInst_retired (k : Nat) (f : Inst → Inst) : (c.updInst k f).retired = c.retired := rfl
@[simp] theorem Core.updInst_decPlan (k : Nat) (f : Inst → Inst) : (c.updInst k f).decPlan = c.decPlan := rfl
@[simp] theorem Core.updInst_cells (k : Nat) (f : Inst → Inst) : (c.updInst k f).cells = c.cells := rfl
@[simp] theorem Core.updInst_moving (k : Nat) (f : Inst → Inst) : (c.updInst k f).moving = c.moving := rfl
@[simp] theorem Core.updInst_nextMove (k : Nat) (f : Inst → Inst) : (c.updInst k f).nextMove = c.nextMove := rfl
@[simp] theorem Core.updInst_vregs (k : Nat) (f : Inst → Inst) : (c.updInst k f).vregs = c.vregs := rfl
@[simp] theorem Core.updInst_rows (k : Nat) (f : Inst → Inst) : (c.updInst k f).rows = c.rows := rfl
@[simp] theorem Core.updInst_untold (k : Nat) (f : Inst → Inst) : (c.updInst k f).untold = c.untold := rfl

@[simp] theorem Core.updRun_mstate (k : Nat) (f : Run → Run) : (c.updRun k f).mstate = c.mstate := rfl
@[simp] theorem Core.updRun_alert (k : Nat) (f : Run → Run) : (c.updRun k f).alert = c.alert := rfl
@[simp] theorem Core.updRun_qs (k : Nat) (f : Run → Run) : (c.updRun k f).qs = c.qs := rfl
@[simp] theorem Core.updRun_host (k : Nat) (f : Run → Run) : (c.updRun k f).host = c.host := rfl
@[simp] theorem Core.updRun_parts (k : Nat) (f : Run → Run) : (c.updRun k f).parts = c.parts := rfl
@[simp] theorem Core.updRun_buffers (k : Nat) (f : Run → Run) : (c.updRun k f).buffers = c.buffers := rfl
@[simp] theorem Core.updRun_copies (k : Nat) (f : Run → Run) : (c.updRun k f).copies = c.copies := rfl
@[simp] theorem Core.updRun_programs (k : Nat) (f : Run → Run) : (c.updRun k f).programs = c.programs := rfl
@[simp] theorem Core.updRun_bindings (k : Nat) (f : Run → Run) : (c.updRun k f).bindings = c.bindings := rfl
@[simp] theorem Core.updRun_insts (k : Nat) (f : Run → Run) : (c.updRun k f).insts = c.insts := rfl
@[simp] theorem Core.updRun_nextInst (k : Nat) (f : Run → Run) : (c.updRun k f).nextInst = c.nextInst := rfl
@[simp] theorem Core.updRun_nextRun (k : Nat) (f : Run → Run) : (c.updRun k f).nextRun = c.nextRun := rfl
@[simp] theorem Core.updRun_ctxs (k : Nat) (f : Run → Run) : (c.updRun k f).ctxs = c.ctxs := rfl
@[simp] theorem Core.updRun_clips (k : Nat) (f : Run → Run) : (c.updRun k f).clips = c.clips := rfl
@[simp] theorem Core.updRun_free (k : Nat) (f : Run → Run) : (c.updRun k f).free = c.free := rfl
@[simp] theorem Core.updRun_dropped (k : Nat) (f : Run → Run) : (c.updRun k f).dropped = c.dropped := rfl
@[simp] theorem Core.updRun_dropQs (k : Nat) (f : Run → Run) : (c.updRun k f).dropQs = c.dropQs := rfl
@[simp] theorem Core.updRun_chaffT (k : Nat) (f : Run → Run) : (c.updRun k f).chaffT = c.chaffT := rfl
@[simp] theorem Core.updRun_retired (k : Nat) (f : Run → Run) : (c.updRun k f).retired = c.retired := rfl
@[simp] theorem Core.updRun_decPlan (k : Nat) (f : Run → Run) : (c.updRun k f).decPlan = c.decPlan := rfl
@[simp] theorem Core.updRun_cells (k : Nat) (f : Run → Run) : (c.updRun k f).cells = c.cells := rfl
@[simp] theorem Core.updRun_moving (k : Nat) (f : Run → Run) : (c.updRun k f).moving = c.moving := rfl
@[simp] theorem Core.updRun_nextMove (k : Nat) (f : Run → Run) : (c.updRun k f).nextMove = c.nextMove := rfl
@[simp] theorem Core.updRun_vregs (k : Nat) (f : Run → Run) : (c.updRun k f).vregs = c.vregs := rfl
@[simp] theorem Core.updRun_rows (k : Nat) (f : Run → Run) : (c.updRun k f).rows = c.rows := rfl
@[simp] theorem Core.updRun_untold (k : Nat) (f : Run → Run) : (c.updRun k f).untold = c.untold := rfl

@[simp] theorem Core.dropRun_mstate (k : Nat) : (c.dropRun k).mstate = c.mstate := rfl
@[simp] theorem Core.dropRun_alert (k : Nat) : (c.dropRun k).alert = c.alert := rfl
@[simp] theorem Core.dropRun_qs (k : Nat) : (c.dropRun k).qs = c.qs := rfl
@[simp] theorem Core.dropRun_host (k : Nat) : (c.dropRun k).host = c.host := rfl
@[simp] theorem Core.dropRun_parts (k : Nat) : (c.dropRun k).parts = c.parts := rfl
@[simp] theorem Core.dropRun_buffers (k : Nat) : (c.dropRun k).buffers = c.buffers := rfl
@[simp] theorem Core.dropRun_copies (k : Nat) : (c.dropRun k).copies = c.copies := rfl
@[simp] theorem Core.dropRun_programs (k : Nat) : (c.dropRun k).programs = c.programs := rfl
@[simp] theorem Core.dropRun_bindings (k : Nat) : (c.dropRun k).bindings = c.bindings := rfl
@[simp] theorem Core.dropRun_insts (k : Nat) : (c.dropRun k).insts = c.insts := rfl
@[simp] theorem Core.dropRun_nextInst (k : Nat) : (c.dropRun k).nextInst = c.nextInst := rfl
@[simp] theorem Core.dropRun_nextRun (k : Nat) : (c.dropRun k).nextRun = c.nextRun := rfl
@[simp] theorem Core.dropRun_ctxs (k : Nat) : (c.dropRun k).ctxs = c.ctxs := rfl
@[simp] theorem Core.dropRun_clips (k : Nat) : (c.dropRun k).clips = c.clips := rfl
@[simp] theorem Core.dropRun_free (k : Nat) : (c.dropRun k).free = c.free := rfl
@[simp] theorem Core.dropRun_dropped (k : Nat) : (c.dropRun k).dropped = c.dropped := rfl
@[simp] theorem Core.dropRun_dropQs (k : Nat) : (c.dropRun k).dropQs = c.dropQs := rfl
@[simp] theorem Core.dropRun_chaffT (k : Nat) : (c.dropRun k).chaffT = c.chaffT := rfl
@[simp] theorem Core.dropRun_retired (k : Nat) : (c.dropRun k).retired = c.retired := rfl
@[simp] theorem Core.dropRun_decPlan (k : Nat) : (c.dropRun k).decPlan = c.decPlan := rfl
@[simp] theorem Core.dropRun_cells (k : Nat) : (c.dropRun k).cells = c.cells := rfl
@[simp] theorem Core.dropRun_moving (k : Nat) : (c.dropRun k).moving = c.moving := rfl
@[simp] theorem Core.dropRun_nextMove (k : Nat) : (c.dropRun k).nextMove = c.nextMove := rfl
@[simp] theorem Core.dropRun_vregs (k : Nat) : (c.dropRun k).vregs = c.vregs := rfl
@[simp] theorem Core.dropRun_rows (k : Nat) : (c.dropRun k).rows = c.rows := rfl
@[simp] theorem Core.dropRun_untold (k : Nat) : (c.dropRun k).untold = c.untold := rfl

@[simp] theorem Core.updVec_mstate (k v : Nat) (f : Vec → Vec) : (c.updVec k v f).mstate = c.mstate := rfl
@[simp] theorem Core.updVec_alert (k v : Nat) (f : Vec → Vec) : (c.updVec k v f).alert = c.alert := rfl
@[simp] theorem Core.updVec_qs (k v : Nat) (f : Vec → Vec) : (c.updVec k v f).qs = c.qs := rfl
@[simp] theorem Core.updVec_parts (k v : Nat) (f : Vec → Vec) : (c.updVec k v f).parts = c.parts := rfl
@[simp] theorem Core.updVec_buffers (k v : Nat) (f : Vec → Vec) : (c.updVec k v f).buffers = c.buffers := rfl
@[simp] theorem Core.updVec_copies (k v : Nat) (f : Vec → Vec) : (c.updVec k v f).copies = c.copies := rfl
@[simp] theorem Core.updVec_programs (k v : Nat) (f : Vec → Vec) : (c.updVec k v f).programs = c.programs := rfl
@[simp] theorem Core.updVec_bindings (k v : Nat) (f : Vec → Vec) : (c.updVec k v f).bindings = c.bindings := rfl
@[simp] theorem Core.updVec_insts (k v : Nat) (f : Vec → Vec) : (c.updVec k v f).insts = c.insts := rfl
@[simp] theorem Core.updVec_nextInst (k v : Nat) (f : Vec → Vec) : (c.updVec k v f).nextInst = c.nextInst := rfl
@[simp] theorem Core.updVec_runs (k v : Nat) (f : Vec → Vec) : (c.updVec k v f).runs = c.runs := rfl
@[simp] theorem Core.updVec_nextRun (k v : Nat) (f : Vec → Vec) : (c.updVec k v f).nextRun = c.nextRun := rfl
@[simp] theorem Core.updVec_ctxs (k v : Nat) (f : Vec → Vec) : (c.updVec k v f).ctxs = c.ctxs := rfl
@[simp] theorem Core.updVec_clips (k v : Nat) (f : Vec → Vec) : (c.updVec k v f).clips = c.clips := rfl
@[simp] theorem Core.updVec_free (k v : Nat) (f : Vec → Vec) : (c.updVec k v f).free = c.free := rfl
@[simp] theorem Core.updVec_dropped (k v : Nat) (f : Vec → Vec) : (c.updVec k v f).dropped = c.dropped := rfl
@[simp] theorem Core.updVec_dropQs (k v : Nat) (f : Vec → Vec) : (c.updVec k v f).dropQs = c.dropQs := rfl
@[simp] theorem Core.updVec_chaffT (k v : Nat) (f : Vec → Vec) : (c.updVec k v f).chaffT = c.chaffT := rfl
@[simp] theorem Core.updVec_retired (k v : Nat) (f : Vec → Vec) : (c.updVec k v f).retired = c.retired := rfl
@[simp] theorem Core.updVec_decPlan (k v : Nat) (f : Vec → Vec) : (c.updVec k v f).decPlan = c.decPlan := rfl
@[simp] theorem Core.updVec_cells (k v : Nat) (f : Vec → Vec) : (c.updVec k v f).cells = c.cells := rfl
@[simp] theorem Core.updVec_moving (k v : Nat) (f : Vec → Vec) : (c.updVec k v f).moving = c.moving := rfl
@[simp] theorem Core.updVec_nextMove (k v : Nat) (f : Vec → Vec) : (c.updVec k v f).nextMove = c.nextMove := rfl
@[simp] theorem Core.updVec_vregs (k v : Nat) (f : Vec → Vec) : (c.updVec k v f).vregs = c.vregs := rfl
@[simp] theorem Core.updVec_rows (k v : Nat) (f : Vec → Vec) : (c.updVec k v f).rows = c.rows := rfl
@[simp] theorem Core.updVec_untold (k v : Nat) (f : Vec → Vec) : (c.updVec k v f).untold = c.untold := rfl

@[simp] theorem Core.setCopy_mstate (v : Copy) : (c.setCopy v).mstate = c.mstate := by unfold Core.setCopy; split <;> rfl
@[simp] theorem Core.setCopy_alert (v : Copy) : (c.setCopy v).alert = c.alert := by unfold Core.setCopy; split <;> rfl
@[simp] theorem Core.setCopy_qs (v : Copy) : (c.setCopy v).qs = c.qs := by unfold Core.setCopy; split <;> rfl
@[simp] theorem Core.setCopy_host (v : Copy) : (c.setCopy v).host = c.host := by unfold Core.setCopy; split <;> rfl
@[simp] theorem Core.setCopy_parts (v : Copy) : (c.setCopy v).parts = c.parts := by unfold Core.setCopy; split <;> rfl
@[simp] theorem Core.setCopy_buffers (v : Copy) : (c.setCopy v).buffers = c.buffers := by unfold Core.setCopy; split <;> rfl
@[simp] theorem Core.setCopy_programs (v : Copy) : (c.setCopy v).programs = c.programs := by unfold Core.setCopy; split <;> rfl
@[simp] theorem Core.setCopy_bindings (v : Copy) : (c.setCopy v).bindings = c.bindings := by unfold Core.setCopy; split <;> rfl
@[simp] theorem Core.setCopy_insts (v : Copy) : (c.setCopy v).insts = c.insts := by unfold Core.setCopy; split <;> rfl
@[simp] theorem Core.setCopy_nextInst (v : Copy) : (c.setCopy v).nextInst = c.nextInst := by unfold Core.setCopy; split <;> rfl
@[simp] theorem Core.setCopy_runs (v : Copy) : (c.setCopy v).runs = c.runs := by unfold Core.setCopy; split <;> rfl
@[simp] theorem Core.setCopy_nextRun (v : Copy) : (c.setCopy v).nextRun = c.nextRun := by unfold Core.setCopy; split <;> rfl
@[simp] theorem Core.setCopy_ctxs (v : Copy) : (c.setCopy v).ctxs = c.ctxs := by unfold Core.setCopy; split <;> rfl
@[simp] theorem Core.setCopy_clips (v : Copy) : (c.setCopy v).clips = c.clips := by unfold Core.setCopy; split <;> rfl
@[simp] theorem Core.setCopy_free (v : Copy) : (c.setCopy v).free = c.free := by unfold Core.setCopy; split <;> rfl
@[simp] theorem Core.setCopy_dropped (v : Copy) : (c.setCopy v).dropped = c.dropped := by unfold Core.setCopy; split <;> rfl
@[simp] theorem Core.setCopy_dropQs (v : Copy) : (c.setCopy v).dropQs = c.dropQs := by unfold Core.setCopy; split <;> rfl
@[simp] theorem Core.setCopy_chaffT (v : Copy) : (c.setCopy v).chaffT = c.chaffT := by unfold Core.setCopy; split <;> rfl
@[simp] theorem Core.setCopy_retired (v : Copy) : (c.setCopy v).retired = c.retired := by unfold Core.setCopy; split <;> rfl
@[simp] theorem Core.setCopy_decPlan (v : Copy) : (c.setCopy v).decPlan = c.decPlan := by unfold Core.setCopy; split <;> rfl
@[simp] theorem Core.setCopy_cells (v : Copy) : (c.setCopy v).cells = c.cells := by unfold Core.setCopy; split <;> rfl
@[simp] theorem Core.setCopy_moving (v : Copy) : (c.setCopy v).moving = c.moving := by unfold Core.setCopy; split <;> rfl
@[simp] theorem Core.setCopy_nextMove (v : Copy) : (c.setCopy v).nextMove = c.nextMove := by unfold Core.setCopy; split <;> rfl
@[simp] theorem Core.setCopy_vregs (v : Copy) : (c.setCopy v).vregs = c.vregs := by unfold Core.setCopy; split <;> rfl
@[simp] theorem Core.setCopy_rows (v : Copy) : (c.setCopy v).rows = c.rows := by unfold Core.setCopy; split <;> rfl
@[simp] theorem Core.setCopy_untold (v : Copy) : (c.setCopy v).untold = c.untold := by unfold Core.setCopy; split <;> rfl

@[simp] theorem Core.setM_qs (m : MState) : (c.setM m).qs = c.qs := by unfold Core.setM; split <;> rfl
@[simp] theorem Core.setM_host (m : MState) : (c.setM m).host = c.host := by unfold Core.setM; split <;> rfl
@[simp] theorem Core.setM_parts (m : MState) : (c.setM m).parts = c.parts := by unfold Core.setM; split <;> rfl
@[simp] theorem Core.setM_buffers (m : MState) : (c.setM m).buffers = c.buffers := by unfold Core.setM; split <;> rfl
@[simp] theorem Core.setM_copies (m : MState) : (c.setM m).copies = c.copies := by unfold Core.setM; split <;> rfl
@[simp] theorem Core.setM_programs (m : MState) : (c.setM m).programs = c.programs := by unfold Core.setM; split <;> rfl
@[simp] theorem Core.setM_bindings (m : MState) : (c.setM m).bindings = c.bindings := by unfold Core.setM; split <;> rfl
@[simp] theorem Core.setM_insts (m : MState) : (c.setM m).insts = c.insts := by unfold Core.setM; split <;> rfl
@[simp] theorem Core.setM_nextInst (m : MState) : (c.setM m).nextInst = c.nextInst := by unfold Core.setM; split <;> rfl
@[simp] theorem Core.setM_runs (m : MState) : (c.setM m).runs = c.runs := by unfold Core.setM; split <;> rfl
@[simp] theorem Core.setM_nextRun (m : MState) : (c.setM m).nextRun = c.nextRun := by unfold Core.setM; split <;> rfl
@[simp] theorem Core.setM_ctxs (m : MState) : (c.setM m).ctxs = c.ctxs := by unfold Core.setM; split <;> rfl
@[simp] theorem Core.setM_clips (m : MState) : (c.setM m).clips = c.clips := by unfold Core.setM; split <;> rfl
@[simp] theorem Core.setM_free (m : MState) : (c.setM m).free = c.free := by unfold Core.setM; split <;> rfl
@[simp] theorem Core.setM_dropped (m : MState) : (c.setM m).dropped = c.dropped := by unfold Core.setM; split <;> rfl
@[simp] theorem Core.setM_dropQs (m : MState) : (c.setM m).dropQs = c.dropQs := by unfold Core.setM; split <;> rfl
@[simp] theorem Core.setM_chaffT (m : MState) : (c.setM m).chaffT = c.chaffT := by unfold Core.setM; split <;> rfl
@[simp] theorem Core.setM_retired (m : MState) : (c.setM m).retired = c.retired := by unfold Core.setM; split <;> rfl
@[simp] theorem Core.setM_decPlan (m : MState) : (c.setM m).decPlan = c.decPlan := by unfold Core.setM; split <;> rfl
@[simp] theorem Core.setM_cells (m : MState) : (c.setM m).cells = c.cells := by unfold Core.setM; split <;> rfl
@[simp] theorem Core.setM_moving (m : MState) : (c.setM m).moving = c.moving := by unfold Core.setM; split <;> rfl
@[simp] theorem Core.setM_nextMove (m : MState) : (c.setM m).nextMove = c.nextMove := by unfold Core.setM; split <;> rfl
@[simp] theorem Core.setM_vregs (m : MState) : (c.setM m).vregs = c.vregs := by unfold Core.setM; split <;> rfl
@[simp] theorem Core.setM_rows (m : MState) : (c.setM m).rows = c.rows := by unfold Core.setM; split <;> rfl
@[simp] theorem Core.setM_untold (m : MState) : (c.setM m).untold = c.untold := by unfold Core.setM; split <;> rfl

@[simp] theorem Core.setM_mstate (m : MState) : (c.setM m).mstate = m := by
  unfold Core.setM
  split
  · simp_all
  · rfl

/-! ### What the updated part reads as -/

theorem Core.q_setQ (k j : Nat) (v : Queue) : (c.setQ k v).q j = if j = k then v else c.q j := by
  simp [Core.q, Core.setQ, Tab.get_set]
@[simp] theorem Core.q_updQ_self (k : Nat) (f : Queue → Queue) : (c.updQ k f).q k = f (c.q k) := by
  simp [Core.updQ, Core.q_setQ]
theorem Core.q_updQ_ne {k j : Nat} (f : Queue → Queue) (h : j ≠ k) : (c.updQ k f).q j = c.q j := by
  simp [Core.updQ, Core.q_setQ, h]
theorem Core.q_updQ (k j : Nat) (f : Queue → Queue) : (c.updQ k f).q j = if j = k then f (c.q k) else c.q j := by
  simp [Core.updQ, Core.q_setQ]
theorem Core.part_updPart (k j : Nat) (f : Part → Part) :
    (c.updPart k f).part j = if j = k then f (c.part k) else c.part j := by
  simp [Core.part, Core.updPart, Tab.get_upd]
theorem Core.ctx_updCtx (k j : Nat) (f : Ctx → Ctx) : (c.updCtx k f).ctx j = if j = k then f (c.ctx k) else c.ctx j := by
  simp [Core.ctx, Core.updCtx, Tab.get_upd]
theorem Core.fn_updFn (k j : Nat) (f : Fn → Fn) : (c.updFn k f).fn j = if j = k then f (c.fn k) else c.fn j := by
  simp [Core.fn, Core.updFn, Tab.get_upd]
theorem Core.q_of_qs {a b : Core} (h : a.qs = b.qs) (k : Nat) : a.q k = b.q k := by simp [Core.q, h]
theorem Core.part_of_parts {a b : Core} (h : a.parts = b.parts) (k : Nat) : a.part k = b.part k := by simp [Core.part, h]

/-- Reading back a copy just set. -/
theorem Core.copy_setCopy_self (v : Copy) : (c.setCopy v).copy v.part v.buf v.key = v := by
  unfold Core.copy Core.setCopy
  split
  · rename_i h
    simp only [List.any_eq_true, Bool.and_eq_true, beq_iff_eq] at h
    obtain ⟨x, hx, hxv⟩ := h
    simp only
    cases hf : (c.copies.map fun x => if x.part == v.part && x.buf == v.buf && x.key == v.key then v else x).find? fun x =>
        x.part == v.part && x.buf == v.buf && x.key == v.key with
    | none =>
      exfalso
      have := List.find?_eq_none.1 hf v (List.mem_map.2 ⟨x, hx, by simp [hxv]⟩)
      simp at this
    | some y =>
      have hy := List.find?_some hf
      obtain ⟨z, -, rfl⟩ := List.mem_map.1 (List.mem_of_find?_eq_some hf)
      by_cases hz : (z.part == v.part && z.buf == v.buf && z.key == v.key) = true
      · simp [hz]
      · simp only [hz, if_false, Bool.false_eq_true] at hy
  · rename_i h
    have h' : c.copies.find? (fun x => x.part == v.part && x.buf == v.buf && x.key == v.key) = none := by
      simpa [List.find?_eq_none] using h
    simp [List.find?_append, h']

end

/-! ### The liftings -/

@[simp] theorem onCore_eq (f : Core → Core) (s : State) : onCore f s = .next { s with core := f s.core } := rfl
@[simp] theorem onCoreT_eq (f : Nat → Core → Core) (s : State) :
    onCoreT f s = .next { s with core := f s.tick.count s.core } := rfl

end Sys2Proof.Machine
end

