-- ==== Sys2Proof/Laws/Ops.lean ====
section
/-! SUPPORT. What the shared operations leave alone, field by field, and what a message, an error bit, a posted write
and a completion can do. -/

namespace Sys2Proof.Machine

section
variable (c : Core)

@[simp] theorem Core.msg_mstate (f v : Nat) : (c.msg f v).mstate = c.mstate := by
  unfold Core.msg; split_ifs <;> simp
@[simp] theorem Core.msg_alert (f v : Nat) : (c.msg f v).alert = c.alert := by
  unfold Core.msg; split_ifs <;> simp
@[simp] theorem Core.msg_qs (f v : Nat) : (c.msg f v).qs = c.qs := by
  unfold Core.msg; split_ifs <;> simp
@[simp] theorem Core.msg_parts (f v : Nat) : (c.msg f v).parts = c.parts := by
  unfold Core.msg; split_ifs <;> simp
@[simp] theorem Core.msg_buffers (f v : Nat) : (c.msg f v).buffers = c.buffers := by
  unfold Core.msg; split_ifs <;> simp
@[simp] theorem Core.msg_copies (f v : Nat) : (c.msg f v).copies = c.copies := by
  unfold Core.msg; split_ifs <;> simp
@[simp] theorem Core.msg_programs (f v : Nat) : (c.msg f v).programs = c.programs := by
  unfold Core.msg; split_ifs <;> simp
@[simp] theorem Core.msg_bindings (f v : Nat) : (c.msg f v).bindings = c.bindings := by
  unfold Core.msg; split_ifs <;> simp
@[simp] theorem Core.msg_insts (f v : Nat) : (c.msg f v).insts = c.insts := by
  unfold Core.msg; split_ifs <;> simp
@[simp] theorem Core.msg_nextInst (f v : Nat) : (c.msg f v).nextInst = c.nextInst := by
  unfold Core.msg; split_ifs <;> simp
@[simp] theorem Core.msg_runs (f v : Nat) : (c.msg f v).runs = c.runs := by
  unfold Core.msg; split_ifs <;> simp
@[simp] theorem Core.msg_nextRun (f v : Nat) : (c.msg f v).nextRun = c.nextRun := by
  unfold Core.msg; split_ifs <;> simp
@[simp] theorem Core.msg_ctxs (f v : Nat) : (c.msg f v).ctxs = c.ctxs := by
  unfold Core.msg; split_ifs <;> simp
@[simp] theorem Core.msg_clips (f v : Nat) : (c.msg f v).clips = c.clips := by
  unfold Core.msg; split_ifs <;> simp
@[simp] theorem Core.msg_free (f v : Nat) : (c.msg f v).free = c.free := by
  unfold Core.msg; split_ifs <;> simp
@[simp] theorem Core.msg_dropped (f v : Nat) : (c.msg f v).dropped = c.dropped := by
  unfold Core.msg; split_ifs <;> simp
@[simp] theorem Core.msg_dropQs (f v : Nat) : (c.msg f v).dropQs = c.dropQs := by
  unfold Core.msg; split_ifs <;> simp
@[simp] theorem Core.msg_chaffT (f v : Nat) : (c.msg f v).chaffT = c.chaffT := by
  unfold Core.msg; split_ifs <;> simp
@[simp] theorem Core.msg_retired (f v : Nat) : (c.msg f v).retired = c.retired := by
  unfold Core.msg; split_ifs <;> simp
@[simp] theorem Core.msg_decPlan (f v : Nat) : (c.msg f v).decPlan = c.decPlan := by
  unfold Core.msg; split_ifs <;> simp
@[simp] theorem Core.msg_cells (f v : Nat) : (c.msg f v).cells = c.cells := by
  unfold Core.msg; split_ifs <;> simp
@[simp] theorem Core.msg_moving (f v : Nat) : (c.msg f v).moving = c.moving := by
  unfold Core.msg; split_ifs <;> simp
@[simp] theorem Core.msg_nextMove (f v : Nat) : (c.msg f v).nextMove = c.nextMove := by
  unfold Core.msg; split_ifs <;> simp
@[simp] theorem Core.msg_vregs (f v : Nat) : (c.msg f v).vregs = c.vregs := by
  unfold Core.msg; split_ifs <;> simp
@[simp] theorem Core.msg_rows (f v : Nat) : (c.msg f v).rows = c.rows := by
  unfold Core.msg; split_ifs <;> simp

@[simp] theorem Core.errBit_mstate (b : Nat) : (c.errBit b).mstate = c.mstate := by
  unfold Core.errBit; split_ifs <;> simp
@[simp] theorem Core.errBit_alert (b : Nat) : (c.errBit b).alert = c.alert := by
  unfold Core.errBit; split_ifs <;> simp
@[simp] theorem Core.errBit_qs (b : Nat) : (c.errBit b).qs = c.qs := by
  unfold Core.errBit; split_ifs <;> simp
@[simp] theorem Core.errBit_parts (b : Nat) : (c.errBit b).parts = c.parts := by
  unfold Core.errBit; split_ifs <;> simp
@[simp] theorem Core.errBit_buffers (b : Nat) : (c.errBit b).buffers = c.buffers := by
  unfold Core.errBit; split_ifs <;> simp
@[simp] theorem Core.errBit_copies (b : Nat) : (c.errBit b).copies = c.copies := by
  unfold Core.errBit; split_ifs <;> simp
@[simp] theorem Core.errBit_programs (b : Nat) : (c.errBit b).programs = c.programs := by
  unfold Core.errBit; split_ifs <;> simp
@[simp] theorem Core.errBit_bindings (b : Nat) : (c.errBit b).bindings = c.bindings := by
  unfold Core.errBit; split_ifs <;> simp
@[simp] theorem Core.errBit_insts (b : Nat) : (c.errBit b).insts = c.insts := by
  unfold Core.errBit; split_ifs <;> simp
@[simp] theorem Core.errBit_nextInst (b : Nat) : (c.errBit b).nextInst = c.nextInst := by
  unfold Core.errBit; split_ifs <;> simp
@[simp] theorem Core.errBit_runs (b : Nat) : (c.errBit b).runs = c.runs := by
  unfold Core.errBit; split_ifs <;> simp
@[simp] theorem Core.errBit_nextRun (b : Nat) : (c.errBit b).nextRun = c.nextRun := by
  unfold Core.errBit; split_ifs <;> simp
@[simp] theorem Core.errBit_ctxs (b : Nat) : (c.errBit b).ctxs = c.ctxs := by
  unfold Core.errBit; split_ifs <;> simp
@[simp] theorem Core.errBit_clips (b : Nat) : (c.errBit b).clips = c.clips := by
  unfold Core.errBit; split_ifs <;> simp
@[simp] theorem Core.errBit_free (b : Nat) : (c.errBit b).free = c.free := by
  unfold Core.errBit; split_ifs <;> simp
@[simp] theorem Core.errBit_dropped (b : Nat) : (c.errBit b).dropped = c.dropped := by
  unfold Core.errBit; split_ifs <;> simp
@[simp] theorem Core.errBit_dropQs (b : Nat) : (c.errBit b).dropQs = c.dropQs := by
  unfold Core.errBit; split_ifs <;> simp
@[simp] theorem Core.errBit_chaffT (b : Nat) : (c.errBit b).chaffT = c.chaffT := by
  unfold Core.errBit; split_ifs <;> simp
@[simp] theorem Core.errBit_retired (b : Nat) : (c.errBit b).retired = c.retired := by
  unfold Core.errBit; split_ifs <;> simp
@[simp] theorem Core.errBit_decPlan (b : Nat) : (c.errBit b).decPlan = c.decPlan := by
  unfold Core.errBit; split_ifs <;> simp
@[simp] theorem Core.errBit_cells (b : Nat) : (c.errBit b).cells = c.cells := by
  unfold Core.errBit; split_ifs <;> simp
@[simp] theorem Core.errBit_moving (b : Nat) : (c.errBit b).moving = c.moving := by
  unfold Core.errBit; split_ifs <;> simp
@[simp] theorem Core.errBit_nextMove (b : Nat) : (c.errBit b).nextMove = c.nextMove := by
  unfold Core.errBit; split_ifs <;> simp
@[simp] theorem Core.errBit_vregs (b : Nat) : (c.errBit b).vregs = c.vregs := by
  unfold Core.errBit; split_ifs <;> simp
@[simp] theorem Core.errBit_rows (b : Nat) : (c.errBit b).rows = c.rows := by
  unfold Core.errBit; split_ifs <;> simp

@[simp] theorem Core.logFreeze_mstate (r : List Byte) : (c.logFreeze r).mstate = c.mstate := by
  unfold Core.logFreeze; simp only; split_ifs <;> simp
@[simp] theorem Core.logFreeze_alert (r : List Byte) : (c.logFreeze r).alert = c.alert := by
  unfold Core.logFreeze; simp only; split_ifs <;> simp
@[simp] theorem Core.logFreeze_qs (r : List Byte) : (c.logFreeze r).qs = c.qs := by
  unfold Core.logFreeze; simp only; split_ifs <;> simp
@[simp] theorem Core.logFreeze_parts (r : List Byte) : (c.logFreeze r).parts = c.parts := by
  unfold Core.logFreeze; simp only; split_ifs <;> simp
@[simp] theorem Core.logFreeze_buffers (r : List Byte) : (c.logFreeze r).buffers = c.buffers := by
  unfold Core.logFreeze; simp only; split_ifs <;> simp
@[simp] theorem Core.logFreeze_copies (r : List Byte) : (c.logFreeze r).copies = c.copies := by
  unfold Core.logFreeze; simp only; split_ifs <;> simp
@[simp] theorem Core.logFreeze_programs (r : List Byte) : (c.logFreeze r).programs = c.programs := by
  unfold Core.logFreeze; simp only; split_ifs <;> simp
@[simp] theorem Core.logFreeze_bindings (r : List Byte) : (c.logFreeze r).bindings = c.bindings := by
  unfold Core.logFreeze; simp only; split_ifs <;> simp
@[simp] theorem Core.logFreeze_insts (r : List Byte) : (c.logFreeze r).insts = c.insts := by
  unfold Core.logFreeze; simp only; split_ifs <;> simp
@[simp] theorem Core.logFreeze_nextInst (r : List Byte) : (c.logFreeze r).nextInst = c.nextInst := by
  unfold Core.logFreeze; simp only; split_ifs <;> simp
@[simp] theorem Core.logFreeze_runs (r : List Byte) : (c.logFreeze r).runs = c.runs := by
  unfold Core.logFreeze; simp only; split_ifs <;> simp
@[simp] theorem Core.logFreeze_nextRun (r : List Byte) : (c.logFreeze r).nextRun = c.nextRun := by
  unfold Core.logFreeze; simp only; split_ifs <;> simp
@[simp] theorem Core.logFreeze_ctxs (r : List Byte) : (c.logFreeze r).ctxs = c.ctxs := by
  unfold Core.logFreeze; simp only; split_ifs <;> simp
@[simp] theorem Core.logFreeze_clips (r : List Byte) : (c.logFreeze r).clips = c.clips := by
  unfold Core.logFreeze; simp only; split_ifs <;> simp
@[simp] theorem Core.logFreeze_free (r : List Byte) : (c.logFreeze r).free = c.free := by
  unfold Core.logFreeze; simp only; split_ifs <;> simp
@[simp] theorem Core.logFreeze_dropped (r : List Byte) : (c.logFreeze r).dropped = c.dropped := by
  unfold Core.logFreeze; simp only; split_ifs <;> simp
@[simp] theorem Core.logFreeze_dropQs (r : List Byte) : (c.logFreeze r).dropQs = c.dropQs := by
  unfold Core.logFreeze; simp only; split_ifs <;> simp
@[simp] theorem Core.logFreeze_chaffT (r : List Byte) : (c.logFreeze r).chaffT = c.chaffT := by
  unfold Core.logFreeze; simp only; split_ifs <;> simp
@[simp] theorem Core.logFreeze_retired (r : List Byte) : (c.logFreeze r).retired = c.retired := by
  unfold Core.logFreeze; simp only; split_ifs <;> simp
@[simp] theorem Core.logFreeze_decPlan (r : List Byte) : (c.logFreeze r).decPlan = c.decPlan := by
  unfold Core.logFreeze; simp only; split_ifs <;> simp
@[simp] theorem Core.logFreeze_cells (r : List Byte) : (c.logFreeze r).cells = c.cells := by
  unfold Core.logFreeze; simp only; split_ifs <;> simp
@[simp] theorem Core.logFreeze_moving (r : List Byte) : (c.logFreeze r).moving = c.moving := by
  unfold Core.logFreeze; simp only; split_ifs <;> simp
@[simp] theorem Core.logFreeze_nextMove (r : List Byte) : (c.logFreeze r).nextMove = c.nextMove := by
  unfold Core.logFreeze; simp only; split_ifs <;> simp
@[simp] theorem Core.logFreeze_vregs (r : List Byte) : (c.logFreeze r).vregs = c.vregs := by
  unfold Core.logFreeze; simp only; split_ifs <;> simp
@[simp] theorem Core.logFreeze_rows (r : List Byte) : (c.logFreeze r).rows = c.rows := by
  unfold Core.logFreeze; simp only; split_ifs <;> simp

@[simp] theorem Core.freezeQ_mstate (now q kind value opidx : Nat) : (c.freezeQ now q kind value opidx).mstate = c.mstate := by
  unfold Core.freezeQ; simp
@[simp] theorem Core.freezeQ_alert (now q kind value opidx : Nat) : (c.freezeQ now q kind value opidx).alert = c.alert := by
  unfold Core.freezeQ; simp
@[simp] theorem Core.freezeQ_parts (now q kind value opidx : Nat) : (c.freezeQ now q kind value opidx).parts = c.parts := by
  unfold Core.freezeQ; simp
@[simp] theorem Core.freezeQ_buffers (now q kind value opidx : Nat) : (c.freezeQ now q kind value opidx).buffers = c.buffers := by
  unfold Core.freezeQ; simp
@[simp] theorem Core.freezeQ_copies (now q kind value opidx : Nat) : (c.freezeQ now q kind value opidx).copies = c.copies := by
  unfold Core.freezeQ; simp
@[simp] theorem Core.freezeQ_programs (now q kind value opidx : Nat) : (c.freezeQ now q kind value opidx).programs = c.programs := by
  unfold Core.freezeQ; simp
@[simp] theorem Core.freezeQ_bindings (now q kind value opidx : Nat) : (c.freezeQ now q kind value opidx).bindings = c.bindings := by
  unfold Core.freezeQ; simp
@[simp] theorem Core.freezeQ_insts (now q kind value opidx : Nat) : (c.freezeQ now q kind value opidx).insts = c.insts := by
  unfold Core.freezeQ; simp
@[simp] theorem Core.freezeQ_nextInst (now q kind value opidx : Nat) : (c.freezeQ now q kind value opidx).nextInst = c.nextInst := by
  unfold Core.freezeQ; simp
@[simp] theorem Core.freezeQ_runs (now q kind value opidx : Nat) : (c.freezeQ now q kind value opidx).runs = c.runs := by
  unfold Core.freezeQ; simp
@[simp] theorem Core.freezeQ_nextRun (now q kind value opidx : Nat) : (c.freezeQ now q kind value opidx).nextRun = c.nextRun := by
  unfold Core.freezeQ; simp
@[simp] theorem Core.freezeQ_ctxs (now q kind value opidx : Nat) : (c.freezeQ now q kind value opidx).ctxs = c.ctxs := by
  unfold Core.freezeQ; simp
@[simp] theorem Core.freezeQ_clips (now q kind value opidx : Nat) : (c.freezeQ now q kind value opidx).clips = c.clips := by
  unfold Core.freezeQ; simp
@[simp] theorem Core.freezeQ_free (now q kind value opidx : Nat) : (c.freezeQ now q kind value opidx).free = c.free := by
  unfold Core.freezeQ; simp
@[simp] theorem Core.freezeQ_dropped (now q kind value opidx : Nat) : (c.freezeQ now q kind value opidx).dropped = c.dropped := by
  unfold Core.freezeQ; simp
@[simp] theorem Core.freezeQ_dropQs (now q kind value opidx : Nat) : (c.freezeQ now q kind value opidx).dropQs = c.dropQs := by
  unfold Core.freezeQ; simp
@[simp] theorem Core.freezeQ_chaffT (now q kind value opidx : Nat) : (c.freezeQ now q kind value opidx).chaffT = c.chaffT := by
  unfold Core.freezeQ; simp
@[simp] theorem Core.freezeQ_retired (now q kind value opidx : Nat) : (c.freezeQ now q kind value opidx).retired = c.retired := by
  unfold Core.freezeQ; simp
@[simp] theorem Core.freezeQ_decPlan (now q kind value opidx : Nat) : (c.freezeQ now q kind value opidx).decPlan = c.decPlan := by
  unfold Core.freezeQ; simp
@[simp] theorem Core.freezeQ_cells (now q kind value opidx : Nat) : (c.freezeQ now q kind value opidx).cells = c.cells := by
  unfold Core.freezeQ; simp
@[simp] theorem Core.freezeQ_moving (now q kind value opidx : Nat) : (c.freezeQ now q kind value opidx).moving = c.moving := by
  unfold Core.freezeQ; simp
@[simp] theorem Core.freezeQ_nextMove (now q kind value opidx : Nat) : (c.freezeQ now q kind value opidx).nextMove = c.nextMove := by
  unfold Core.freezeQ; simp
@[simp] theorem Core.freezeQ_vregs (now q kind value opidx : Nat) : (c.freezeQ now q kind value opidx).vregs = c.vregs := by
  unfold Core.freezeQ; simp
@[simp] theorem Core.freezeQ_rows (now q kind value opidx : Nat) : (c.freezeQ now q kind value opidx).rows = c.rows := by
  unfold Core.freezeQ; simp

@[simp] theorem Core.useTag_mstate (f t : Nat) : (c.useTag f t).mstate = c.mstate := by
  unfold Core.useTag; simp
@[simp] theorem Core.useTag_alert (f t : Nat) : (c.useTag f t).alert = c.alert := by
  unfold Core.useTag; simp
@[simp] theorem Core.useTag_qs (f t : Nat) : (c.useTag f t).qs = c.qs := by
  unfold Core.useTag; simp
@[simp] theorem Core.useTag_parts (f t : Nat) : (c.useTag f t).parts = c.parts := by
  unfold Core.useTag; simp
@[simp] theorem Core.useTag_buffers (f t : Nat) : (c.useTag f t).buffers = c.buffers := by
  unfold Core.useTag; simp
@[simp] theorem Core.useTag_copies (f t : Nat) : (c.useTag f t).copies = c.copies := by
  unfold Core.useTag; simp
@[simp] theorem Core.useTag_programs (f t : Nat) : (c.useTag f t).programs = c.programs := by
  unfold Core.useTag; simp
@[simp] theorem Core.useTag_bindings (f t : Nat) : (c.useTag f t).bindings = c.bindings := by
  unfold Core.useTag; simp
@[simp] theorem Core.useTag_insts (f t : Nat) : (c.useTag f t).insts = c.insts := by
  unfold Core.useTag; simp
@[simp] theorem Core.useTag_nextInst (f t : Nat) : (c.useTag f t).nextInst = c.nextInst := by
  unfold Core.useTag; simp
@[simp] theorem Core.useTag_runs (f t : Nat) : (c.useTag f t).runs = c.runs := by
  unfold Core.useTag; simp
@[simp] theorem Core.useTag_nextRun (f t : Nat) : (c.useTag f t).nextRun = c.nextRun := by
  unfold Core.useTag; simp
@[simp] theorem Core.useTag_ctxs (f t : Nat) : (c.useTag f t).ctxs = c.ctxs := by
  unfold Core.useTag; simp
@[simp] theorem Core.useTag_clips (f t : Nat) : (c.useTag f t).clips = c.clips := by
  unfold Core.useTag; simp
@[simp] theorem Core.useTag_free (f t : Nat) : (c.useTag f t).free = c.free := by
  unfold Core.useTag; simp
@[simp] theorem Core.useTag_dropped (f t : Nat) : (c.useTag f t).dropped = c.dropped := by
  unfold Core.useTag; simp
@[simp] theorem Core.useTag_dropQs (f t : Nat) : (c.useTag f t).dropQs = c.dropQs := by
  unfold Core.useTag; simp
@[simp] theorem Core.useTag_chaffT (f t : Nat) : (c.useTag f t).chaffT = c.chaffT := by
  unfold Core.useTag; simp
@[simp] theorem Core.useTag_retired (f t : Nat) : (c.useTag f t).retired = c.retired := by
  unfold Core.useTag; simp
@[simp] theorem Core.useTag_decPlan (f t : Nat) : (c.useTag f t).decPlan = c.decPlan := by
  unfold Core.useTag; simp
@[simp] theorem Core.useTag_cells (f t : Nat) : (c.useTag f t).cells = c.cells := by
  unfold Core.useTag; simp
@[simp] theorem Core.useTag_moving (f t : Nat) : (c.useTag f t).moving = c.moving := by
  unfold Core.useTag; simp
@[simp] theorem Core.useTag_nextMove (f t : Nat) : (c.useTag f t).nextMove = c.nextMove := by
  unfold Core.useTag; simp
@[simp] theorem Core.useTag_vregs (f t : Nat) : (c.useTag f t).vregs = c.vregs := by
  unfold Core.useTag; simp
@[simp] theorem Core.useTag_rows (f t : Nat) : (c.useTag f t).rows = c.rows := by
  unfold Core.useTag; simp

@[simp] theorem Core.readFailed_mstate (r : ReadEnd) : (c.readFailed r).mstate = c.mstate := by
  unfold Core.readFailed; cases r <;> simp
@[simp] theorem Core.readFailed_alert (r : ReadEnd) : (c.readFailed r).alert = c.alert := by
  unfold Core.readFailed; cases r <;> simp
@[simp] theorem Core.readFailed_qs (r : ReadEnd) : (c.readFailed r).qs = c.qs := by
  unfold Core.readFailed; cases r <;> simp
@[simp] theorem Core.readFailed_parts (r : ReadEnd) : (c.readFailed r).parts = c.parts := by
  unfold Core.readFailed; cases r <;> simp
@[simp] theorem Core.readFailed_buffers (r : ReadEnd) : (c.readFailed r).buffers = c.buffers := by
  unfold Core.readFailed; cases r <;> simp
@[simp] theorem Core.readFailed_copies (r : ReadEnd) : (c.readFailed r).copies = c.copies := by
  unfold Core.readFailed; cases r <;> simp
@[simp] theorem Core.readFailed_programs (r : ReadEnd) : (c.readFailed r).programs = c.programs := by
  unfold Core.readFailed; cases r <;> simp
@[simp] theorem Core.readFailed_bindings (r : ReadEnd) : (c.readFailed r).bindings = c.bindings := by
  unfold Core.readFailed; cases r <;> simp
@[simp] theorem Core.readFailed_insts (r : ReadEnd) : (c.readFailed r).insts = c.insts := by
  unfold Core.readFailed; cases r <;> simp
@[simp] theorem Core.readFailed_nextInst (r : ReadEnd) : (c.readFailed r).nextInst = c.nextInst := by
  unfold Core.readFailed; cases r <;> simp
@[simp] theorem Core.readFailed_runs (r : ReadEnd) : (c.readFailed r).runs = c.runs := by
  unfold Core.readFailed; cases r <;> simp
@[simp] theorem Core.readFailed_nextRun (r : ReadEnd) : (c.readFailed r).nextRun = c.nextRun := by
  unfold Core.readFailed; cases r <;> simp
@[simp] theorem Core.readFailed_ctxs (r : ReadEnd) : (c.readFailed r).ctxs = c.ctxs := by
  unfold Core.readFailed; cases r <;> simp
@[simp] theorem Core.readFailed_clips (r : ReadEnd) : (c.readFailed r).clips = c.clips := by
  unfold Core.readFailed; cases r <;> simp
@[simp] theorem Core.readFailed_free (r : ReadEnd) : (c.readFailed r).free = c.free := by
  unfold Core.readFailed; cases r <;> simp
@[simp] theorem Core.readFailed_dropped (r : ReadEnd) : (c.readFailed r).dropped = c.dropped := by
  unfold Core.readFailed; cases r <;> simp
@[simp] theorem Core.readFailed_dropQs (r : ReadEnd) : (c.readFailed r).dropQs = c.dropQs := by
  unfold Core.readFailed; cases r <;> simp
@[simp] theorem Core.readFailed_chaffT (r : ReadEnd) : (c.readFailed r).chaffT = c.chaffT := by
  unfold Core.readFailed; cases r <;> simp
@[simp] theorem Core.readFailed_retired (r : ReadEnd) : (c.readFailed r).retired = c.retired := by
  unfold Core.readFailed; cases r <;> simp
@[simp] theorem Core.readFailed_decPlan (r : ReadEnd) : (c.readFailed r).decPlan = c.decPlan := by
  unfold Core.readFailed; cases r <;> simp
@[simp] theorem Core.readFailed_cells (r : ReadEnd) : (c.readFailed r).cells = c.cells := by
  unfold Core.readFailed; cases r <;> simp
@[simp] theorem Core.readFailed_moving (r : ReadEnd) : (c.readFailed r).moving = c.moving := by
  unfold Core.readFailed; cases r <;> simp
@[simp] theorem Core.readFailed_nextMove (r : ReadEnd) : (c.readFailed r).nextMove = c.nextMove := by
  unfold Core.readFailed; cases r <;> simp
@[simp] theorem Core.readFailed_vregs (r : ReadEnd) : (c.readFailed r).vregs = c.vregs := by
  unfold Core.readFailed; cases r <;> simp
@[simp] theorem Core.readFailed_rows (r : ReadEnd) : (c.readFailed r).rows = c.rows := by
  unfold Core.readFailed; cases r <;> simp

@[simp] theorem Core.failTag_mstate (f t : Nat) (r : ReadEnd) : (c.failTag f t r).mstate = c.mstate := by
  unfold Core.failTag; simp only; split_ifs <;> simp
@[simp] theorem Core.failTag_alert (f t : Nat) (r : ReadEnd) : (c.failTag f t r).alert = c.alert := by
  unfold Core.failTag; simp only; split_ifs <;> simp
@[simp] theorem Core.failTag_qs (f t : Nat) (r : ReadEnd) : (c.failTag f t r).qs = c.qs := by
  unfold Core.failTag; simp only; split_ifs <;> simp
@[simp] theorem Core.failTag_parts (f t : Nat) (r : ReadEnd) : (c.failTag f t r).parts = c.parts := by
  unfold Core.failTag; simp only; split_ifs <;> simp
@[simp] theorem Core.failTag_buffers (f t : Nat) (r : ReadEnd) : (c.failTag f t r).buffers = c.buffers := by
  unfold Core.failTag; simp only; split_ifs <;> simp
@[simp] theorem Core.failTag_copies (f t : Nat) (r : ReadEnd) : (c.failTag f t r).copies = c.copies := by
  unfold Core.failTag; simp only; split_ifs <;> simp
@[simp] theorem Core.failTag_programs (f t : Nat) (r : ReadEnd) : (c.failTag f t r).programs = c.programs := by
  unfold Core.failTag; simp only; split_ifs <;> simp
@[simp] theorem Core.failTag_bindings (f t : Nat) (r : ReadEnd) : (c.failTag f t r).bindings = c.bindings := by
  unfold Core.failTag; simp only; split_ifs <;> simp
@[simp] theorem Core.failTag_insts (f t : Nat) (r : ReadEnd) : (c.failTag f t r).insts = c.insts := by
  unfold Core.failTag; simp only; split_ifs <;> simp
@[simp] theorem Core.failTag_nextInst (f t : Nat) (r : ReadEnd) : (c.failTag f t r).nextInst = c.nextInst := by
  unfold Core.failTag; simp only; split_ifs <;> simp
@[simp] theorem Core.failTag_runs (f t : Nat) (r : ReadEnd) : (c.failTag f t r).runs = c.runs := by
  unfold Core.failTag; simp only; split_ifs <;> simp
@[simp] theorem Core.failTag_nextRun (f t : Nat) (r : ReadEnd) : (c.failTag f t r).nextRun = c.nextRun := by
  unfold Core.failTag; simp only; split_ifs <;> simp
@[simp] theorem Core.failTag_ctxs (f t : Nat) (r : ReadEnd) : (c.failTag f t r).ctxs = c.ctxs := by
  unfold Core.failTag; simp only; split_ifs <;> simp
@[simp] theorem Core.failTag_clips (f t : Nat) (r : ReadEnd) : (c.failTag f t r).clips = c.clips := by
  unfold Core.failTag; simp only; split_ifs <;> simp
@[simp] theorem Core.failTag_free (f t : Nat) (r : ReadEnd) : (c.failTag f t r).free = c.free := by
  unfold Core.failTag; simp only; split_ifs <;> simp
@[simp] theorem Core.failTag_dropped (f t : Nat) (r : ReadEnd) : (c.failTag f t r).dropped = c.dropped := by
  unfold Core.failTag; simp only; split_ifs <;> simp
@[simp] theorem Core.failTag_dropQs (f t : Nat) (r : ReadEnd) : (c.failTag f t r).dropQs = c.dropQs := by
  unfold Core.failTag; simp only; split_ifs <;> simp
@[simp] theorem Core.failTag_chaffT (f t : Nat) (r : ReadEnd) : (c.failTag f t r).chaffT = c.chaffT := by
  unfold Core.failTag; simp only; split_ifs <;> simp
@[simp] theorem Core.failTag_retired (f t : Nat) (r : ReadEnd) : (c.failTag f t r).retired = c.retired := by
  unfold Core.failTag; simp only; split_ifs <;> simp
@[simp] theorem Core.failTag_decPlan (f t : Nat) (r : ReadEnd) : (c.failTag f t r).decPlan = c.decPlan := by
  unfold Core.failTag; simp only; split_ifs <;> simp
@[simp] theorem Core.failTag_cells (f t : Nat) (r : ReadEnd) : (c.failTag f t r).cells = c.cells := by
  unfold Core.failTag; simp only; split_ifs <;> simp
@[simp] theorem Core.failTag_moving (f t : Nat) (r : ReadEnd) : (c.failTag f t r).moving = c.moving := by
  unfold Core.failTag; simp only; split_ifs <;> simp
@[simp] theorem Core.failTag_nextMove (f t : Nat) (r : ReadEnd) : (c.failTag f t r).nextMove = c.nextMove := by
  unfold Core.failTag; simp only; split_ifs <;> simp
@[simp] theorem Core.failTag_vregs (f t : Nat) (r : ReadEnd) : (c.failTag f t r).vregs = c.vregs := by
  unfold Core.failTag; simp only; split_ifs <;> simp
@[simp] theorem Core.failTag_rows (f t : Nat) (r : ReadEnd) : (c.failTag f t r).rows = c.rows := by
  unfold Core.failTag; simp only; split_ifs <;> simp

@[simp] theorem Core.post_mstate (f mq addr : Nat) (data : List Byte) (q : Option Nat) : (c.post f mq addr data q).mstate = c.mstate := by
  unfold Core.post Core.dropPost; cases q <;> (split_ifs <;> simp)
@[simp] theorem Core.post_alert (f mq addr : Nat) (data : List Byte) (q : Option Nat) : (c.post f mq addr data q).alert = c.alert := by
  unfold Core.post Core.dropPost; cases q <;> (split_ifs <;> simp)
@[simp] theorem Core.post_parts (f mq addr : Nat) (data : List Byte) (q : Option Nat) : (c.post f mq addr data q).parts = c.parts := by
  unfold Core.post Core.dropPost; cases q <;> (split_ifs <;> simp)
@[simp] theorem Core.post_buffers (f mq addr : Nat) (data : List Byte) (q : Option Nat) : (c.post f mq addr data q).buffers = c.buffers := by
  unfold Core.post Core.dropPost; cases q <;> (split_ifs <;> simp)
@[simp] theorem Core.post_copies (f mq addr : Nat) (data : List Byte) (q : Option Nat) : (c.post f mq addr data q).copies = c.copies := by
  unfold Core.post Core.dropPost; cases q <;> (split_ifs <;> simp)
@[simp] theorem Core.post_programs (f mq addr : Nat) (data : List Byte) (q : Option Nat) : (c.post f mq addr data q).programs = c.programs := by
  unfold Core.post Core.dropPost; cases q <;> (split_ifs <;> simp)
@[simp] theorem Core.post_bindings (f mq addr : Nat) (data : List Byte) (q : Option Nat) : (c.post f mq addr data q).bindings = c.bindings := by
  unfold Core.post Core.dropPost; cases q <;> (split_ifs <;> simp)
@[simp] theorem Core.post_insts (f mq addr : Nat) (data : List Byte) (q : Option Nat) : (c.post f mq addr data q).insts = c.insts := by
  unfold Core.post Core.dropPost; cases q <;> (split_ifs <;> simp)
@[simp] theorem Core.post_nextInst (f mq addr : Nat) (data : List Byte) (q : Option Nat) : (c.post f mq addr data q).nextInst = c.nextInst := by
  unfold Core.post Core.dropPost; cases q <;> (split_ifs <;> simp)
@[simp] theorem Core.post_runs (f mq addr : Nat) (data : List Byte) (q : Option Nat) : (c.post f mq addr data q).runs = c.runs := by
  unfold Core.post Core.dropPost; cases q <;> (split_ifs <;> simp)
@[simp] theorem Core.post_nextRun (f mq addr : Nat) (data : List Byte) (q : Option Nat) : (c.post f mq addr data q).nextRun = c.nextRun := by
  unfold Core.post Core.dropPost; cases q <;> (split_ifs <;> simp)
@[simp] theorem Core.post_ctxs (f mq addr : Nat) (data : List Byte) (q : Option Nat) : (c.post f mq addr data q).ctxs = c.ctxs := by
  unfold Core.post Core.dropPost; cases q <;> (split_ifs <;> simp)
@[simp] theorem Core.post_clips (f mq addr : Nat) (data : List Byte) (q : Option Nat) : (c.post f mq addr data q).clips = c.clips := by
  unfold Core.post Core.dropPost; cases q <;> (split_ifs <;> simp)
@[simp] theorem Core.post_free (f mq addr : Nat) (data : List Byte) (q : Option Nat) : (c.post f mq addr data q).free = c.free := by
  unfold Core.post Core.dropPost; cases q <;> (split_ifs <;> simp)
@[simp] theorem Core.post_dropped (f mq addr : Nat) (data : List Byte) (q : Option Nat) : (c.post f mq addr data q).dropped = c.dropped := by
  unfold Core.post Core.dropPost; cases q <;> (split_ifs <;> simp)
@[simp] theorem Core.post_dropQs (f mq addr : Nat) (data : List Byte) (q : Option Nat) : (c.post f mq addr data q).dropQs = c.dropQs := by
  unfold Core.post Core.dropPost; cases q <;> (split_ifs <;> simp)
@[simp] theorem Core.post_retired (f mq addr : Nat) (data : List Byte) (q : Option Nat) : (c.post f mq addr data q).retired = c.retired := by
  unfold Core.post Core.dropPost; cases q <;> (split_ifs <;> simp)
@[simp] theorem Core.post_decPlan (f mq addr : Nat) (data : List Byte) (q : Option Nat) : (c.post f mq addr data q).decPlan = c.decPlan := by
  unfold Core.post Core.dropPost; cases q <;> (split_ifs <;> simp)
@[simp] theorem Core.post_cells (f mq addr : Nat) (data : List Byte) (q : Option Nat) : (c.post f mq addr data q).cells = c.cells := by
  unfold Core.post Core.dropPost; cases q <;> (split_ifs <;> simp)
@[simp] theorem Core.post_moving (f mq addr : Nat) (data : List Byte) (q : Option Nat) : (c.post f mq addr data q).moving = c.moving := by
  unfold Core.post Core.dropPost; cases q <;> (split_ifs <;> simp)
@[simp] theorem Core.post_nextMove (f mq addr : Nat) (data : List Byte) (q : Option Nat) : (c.post f mq addr data q).nextMove = c.nextMove := by
  unfold Core.post Core.dropPost; cases q <;> (split_ifs <;> simp)
@[simp] theorem Core.post_vregs (f mq addr : Nat) (data : List Byte) (q : Option Nat) : (c.post f mq addr data q).vregs = c.vregs := by
  unfold Core.post Core.dropPost; cases q <;> (split_ifs <;> simp)
@[simp] theorem Core.post_rows (f mq addr : Nat) (data : List Byte) (q : Option Nat) : (c.post f mq addr data q).rows = c.rows := by
  unfold Core.post Core.dropPost; cases q <;> (split_ifs <;> simp)

@[simp] theorem Core.putCpl_mstate (q : Nat) (x : Cpl) : (c.putCpl q x).mstate = c.mstate := by
  unfold Core.putCpl; simp only; split
  · simp
  · split_ifs <;> simp
@[simp] theorem Core.putCpl_alert (q : Nat) (x : Cpl) : (c.putCpl q x).alert = c.alert := by
  unfold Core.putCpl; simp only; split
  · simp
  · split_ifs <;> simp
@[simp] theorem Core.putCpl_parts (q : Nat) (x : Cpl) : (c.putCpl q x).parts = c.parts := by
  unfold Core.putCpl; simp only; split
  · simp
  · split_ifs <;> simp
@[simp] theorem Core.putCpl_buffers (q : Nat) (x : Cpl) : (c.putCpl q x).buffers = c.buffers := by
  unfold Core.putCpl; simp only; split
  · simp
  · split_ifs <;> simp
@[simp] theorem Core.putCpl_copies (q : Nat) (x : Cpl) : (c.putCpl q x).copies = c.copies := by
  unfold Core.putCpl; simp only; split
  · simp
  · split_ifs <;> simp
@[simp] theorem Core.putCpl_programs (q : Nat) (x : Cpl) : (c.putCpl q x).programs = c.programs := by
  unfold Core.putCpl; simp only; split
  · simp
  · split_ifs <;> simp
@[simp] theorem Core.putCpl_bindings (q : Nat) (x : Cpl) : (c.putCpl q x).bindings = c.bindings := by
  unfold Core.putCpl; simp only; split
  · simp
  · split_ifs <;> simp
@[simp] theorem Core.putCpl_insts (q : Nat) (x : Cpl) : (c.putCpl q x).insts = c.insts := by
  unfold Core.putCpl; simp only; split
  · simp
  · split_ifs <;> simp
@[simp] theorem Core.putCpl_nextInst (q : Nat) (x : Cpl) : (c.putCpl q x).nextInst = c.nextInst := by
  unfold Core.putCpl; simp only; split
  · simp
  · split_ifs <;> simp
@[simp] theorem Core.putCpl_runs (q : Nat) (x : Cpl) : (c.putCpl q x).runs = c.runs := by
  unfold Core.putCpl; simp only; split
  · simp
  · split_ifs <;> simp
@[simp] theorem Core.putCpl_nextRun (q : Nat) (x : Cpl) : (c.putCpl q x).nextRun = c.nextRun := by
  unfold Core.putCpl; simp only; split
  · simp
  · split_ifs <;> simp
@[simp] theorem Core.putCpl_ctxs (q : Nat) (x : Cpl) : (c.putCpl q x).ctxs = c.ctxs := by
  unfold Core.putCpl; simp only; split
  · simp
  · split_ifs <;> simp
@[simp] theorem Core.putCpl_clips (q : Nat) (x : Cpl) : (c.putCpl q x).clips = c.clips := by
  unfold Core.putCpl; simp only; split
  · simp
  · split_ifs <;> simp
@[simp] theorem Core.putCpl_free (q : Nat) (x : Cpl) : (c.putCpl q x).free = c.free := by
  unfold Core.putCpl; simp only; split
  · simp
  · split_ifs <;> simp
@[simp] theorem Core.putCpl_dropped (q : Nat) (x : Cpl) : (c.putCpl q x).dropped = c.dropped := by
  unfold Core.putCpl; simp only; split
  · simp
  · split_ifs <;> simp
@[simp] theorem Core.putCpl_dropQs (q : Nat) (x : Cpl) : (c.putCpl q x).dropQs = c.dropQs := by
  unfold Core.putCpl; simp only; split
  · simp
  · split_ifs <;> simp
@[simp] theorem Core.putCpl_retired (q : Nat) (x : Cpl) : (c.putCpl q x).retired = c.retired := by
  unfold Core.putCpl; simp only; split
  · simp
  · split_ifs <;> simp
@[simp] theorem Core.putCpl_decPlan (q : Nat) (x : Cpl) : (c.putCpl q x).decPlan = c.decPlan := by
  unfold Core.putCpl; simp only; split
  · simp
  · split_ifs <;> simp
@[simp] theorem Core.putCpl_cells (q : Nat) (x : Cpl) : (c.putCpl q x).cells = c.cells := by
  unfold Core.putCpl; simp only; split
  · simp
  · split_ifs <;> simp
@[simp] theorem Core.putCpl_moving (q : Nat) (x : Cpl) : (c.putCpl q x).moving = c.moving := by
  unfold Core.putCpl; simp only; split
  · simp
  · split_ifs <;> simp
@[simp] theorem Core.putCpl_nextMove (q : Nat) (x : Cpl) : (c.putCpl q x).nextMove = c.nextMove := by
  unfold Core.putCpl; simp only; split
  · simp
  · split_ifs <;> simp
@[simp] theorem Core.putCpl_vregs (q : Nat) (x : Cpl) : (c.putCpl q x).vregs = c.vregs := by
  unfold Core.putCpl; simp only; split
  · simp
  · split_ifs <;> simp
@[simp] theorem Core.putCpl_rows (q : Nat) (x : Cpl) : (c.putCpl q x).rows = c.rows := by
  unfold Core.putCpl; simp only; split
  · simp
  · split_ifs <;> simp

@[simp] theorem Core.complete_mstate (q : Nat) (want : Bool) (x : Cpl) : (c.complete q want x).mstate = c.mstate := by
  unfold Core.complete; simp only; split_ifs <;> simp
@[simp] theorem Core.complete_alert (q : Nat) (want : Bool) (x : Cpl) : (c.complete q want x).alert = c.alert := by
  unfold Core.complete; simp only; split_ifs <;> simp
@[simp] theorem Core.complete_parts (q : Nat) (want : Bool) (x : Cpl) : (c.complete q want x).parts = c.parts := by
  unfold Core.complete; simp only; split_ifs <;> simp
@[simp] theorem Core.complete_buffers (q : Nat) (want : Bool) (x : Cpl) : (c.complete q want x).buffers = c.buffers := by
  unfold Core.complete; simp only; split_ifs <;> simp
@[simp] theorem Core.complete_copies (q : Nat) (want : Bool) (x : Cpl) : (c.complete q want x).copies = c.copies := by
  unfold Core.complete; simp only; split_ifs <;> simp
@[simp] theorem Core.complete_programs (q : Nat) (want : Bool) (x : Cpl) : (c.complete q want x).programs = c.programs := by
  unfold Core.complete; simp only; split_ifs <;> simp
@[simp] theorem Core.complete_bindings (q : Nat) (want : Bool) (x : Cpl) : (c.complete q want x).bindings = c.bindings := by
  unfold Core.complete; simp only; split_ifs <;> simp
@[simp] theorem Core.complete_insts (q : Nat) (want : Bool) (x : Cpl) : (c.complete q want x).insts = c.insts := by
  unfold Core.complete; simp only; split_ifs <;> simp
@[simp] theorem Core.complete_nextInst (q : Nat) (want : Bool) (x : Cpl) : (c.complete q want x).nextInst = c.nextInst := by
  unfold Core.complete; simp only; split_ifs <;> simp
@[simp] theorem Core.complete_runs (q : Nat) (want : Bool) (x : Cpl) : (c.complete q want x).runs = c.runs := by
  unfold Core.complete; simp only; split_ifs <;> simp
@[simp] theorem Core.complete_nextRun (q : Nat) (want : Bool) (x : Cpl) : (c.complete q want x).nextRun = c.nextRun := by
  unfold Core.complete; simp only; split_ifs <;> simp
@[simp] theorem Core.complete_ctxs (q : Nat) (want : Bool) (x : Cpl) : (c.complete q want x).ctxs = c.ctxs := by
  unfold Core.complete; simp only; split_ifs <;> simp
@[simp] theorem Core.complete_clips (q : Nat) (want : Bool) (x : Cpl) : (c.complete q want x).clips = c.clips := by
  unfold Core.complete; simp only; split_ifs <;> simp
@[simp] theorem Core.complete_free (q : Nat) (want : Bool) (x : Cpl) : (c.complete q want x).free = c.free := by
  unfold Core.complete; simp only; split_ifs <;> simp
@[simp] theorem Core.complete_dropped (q : Nat) (want : Bool) (x : Cpl) : (c.complete q want x).dropped = c.dropped := by
  unfold Core.complete; simp only; split_ifs <;> simp
@[simp] theorem Core.complete_dropQs (q : Nat) (want : Bool) (x : Cpl) : (c.complete q want x).dropQs = c.dropQs := by
  unfold Core.complete; simp only; split_ifs <;> simp
@[simp] theorem Core.complete_retired (q : Nat) (want : Bool) (x : Cpl) : (c.complete q want x).retired = c.retired := by
  unfold Core.complete; simp only; split_ifs <;> simp
@[simp] theorem Core.complete_decPlan (q : Nat) (want : Bool) (x : Cpl) : (c.complete q want x).decPlan = c.decPlan := by
  unfold Core.complete; simp only; split_ifs <;> simp
@[simp] theorem Core.complete_cells (q : Nat) (want : Bool) (x : Cpl) : (c.complete q want x).cells = c.cells := by
  unfold Core.complete; simp only; split_ifs <;> simp
@[simp] theorem Core.complete_moving (q : Nat) (want : Bool) (x : Cpl) : (c.complete q want x).moving = c.moving := by
  unfold Core.complete; simp only; split_ifs <;> simp
@[simp] theorem Core.complete_nextMove (q : Nat) (want : Bool) (x : Cpl) : (c.complete q want x).nextMove = c.nextMove := by
  unfold Core.complete; simp only; split_ifs <;> simp
@[simp] theorem Core.complete_vregs (q : Nat) (want : Bool) (x : Cpl) : (c.complete q want x).vregs = c.vregs := by
  unfold Core.complete; simp only; split_ifs <;> simp
@[simp] theorem Core.complete_rows (q : Nat) (want : Bool) (x : Cpl) : (c.complete q want x).rows = c.rows := by
  unfold Core.complete; simp only; split_ifs <;> simp

@[simp] theorem Core.completeLate_mstate (q op : Nat) (want : Bool) (x : Cpl) : (c.completeLate q op want x).mstate = c.mstate := by
  unfold Core.completeLate; split_ifs <;> simp
@[simp] theorem Core.completeLate_alert (q op : Nat) (want : Bool) (x : Cpl) : (c.completeLate q op want x).alert = c.alert := by
  unfold Core.completeLate; split_ifs <;> simp
@[simp] theorem Core.completeLate_parts (q op : Nat) (want : Bool) (x : Cpl) : (c.completeLate q op want x).parts = c.parts := by
  unfold Core.completeLate; split_ifs <;> simp
@[simp] theorem Core.completeLate_buffers (q op : Nat) (want : Bool) (x : Cpl) : (c.completeLate q op want x).buffers = c.buffers := by
  unfold Core.completeLate; split_ifs <;> simp
@[simp] theorem Core.completeLate_copies (q op : Nat) (want : Bool) (x : Cpl) : (c.completeLate q op want x).copies = c.copies := by
  unfold Core.completeLate; split_ifs <;> simp
@[simp] theorem Core.completeLate_programs (q op : Nat) (want : Bool) (x : Cpl) : (c.completeLate q op want x).programs = c.programs := by
  unfold Core.completeLate; split_ifs <;> simp
@[simp] theorem Core.completeLate_bindings (q op : Nat) (want : Bool) (x : Cpl) : (c.completeLate q op want x).bindings = c.bindings := by
  unfold Core.completeLate; split_ifs <;> simp
@[simp] theorem Core.completeLate_insts (q op : Nat) (want : Bool) (x : Cpl) : (c.completeLate q op want x).insts = c.insts := by
  unfold Core.completeLate; split_ifs <;> simp
@[simp] theorem Core.completeLate_nextInst (q op : Nat) (want : Bool) (x : Cpl) : (c.completeLate q op want x).nextInst = c.nextInst := by
  unfold Core.completeLate; split_ifs <;> simp
@[simp] theorem Core.completeLate_runs (q op : Nat) (want : Bool) (x : Cpl) : (c.completeLate q op want x).runs = c.runs := by
  unfold Core.completeLate; split_ifs <;> simp
@[simp] theorem Core.completeLate_nextRun (q op : Nat) (want : Bool) (x : Cpl) : (c.completeLate q op want x).nextRun = c.nextRun := by
  unfold Core.completeLate; split_ifs <;> simp
@[simp] theorem Core.completeLate_ctxs (q op : Nat) (want : Bool) (x : Cpl) : (c.completeLate q op want x).ctxs = c.ctxs := by
  unfold Core.completeLate; split_ifs <;> simp
@[simp] theorem Core.completeLate_clips (q op : Nat) (want : Bool) (x : Cpl) : (c.completeLate q op want x).clips = c.clips := by
  unfold Core.completeLate; split_ifs <;> simp
@[simp] theorem Core.completeLate_free (q op : Nat) (want : Bool) (x : Cpl) : (c.completeLate q op want x).free = c.free := by
  unfold Core.completeLate; split_ifs <;> simp
@[simp] theorem Core.completeLate_dropped (q op : Nat) (want : Bool) (x : Cpl) : (c.completeLate q op want x).dropped = c.dropped := by
  unfold Core.completeLate; split_ifs <;> simp
@[simp] theorem Core.completeLate_dropQs (q op : Nat) (want : Bool) (x : Cpl) : (c.completeLate q op want x).dropQs = c.dropQs := by
  unfold Core.completeLate; split_ifs <;> simp
@[simp] theorem Core.completeLate_retired (q op : Nat) (want : Bool) (x : Cpl) : (c.completeLate q op want x).retired = c.retired := by
  unfold Core.completeLate; split_ifs <;> simp
@[simp] theorem Core.completeLate_decPlan (q op : Nat) (want : Bool) (x : Cpl) : (c.completeLate q op want x).decPlan = c.decPlan := by
  unfold Core.completeLate; split_ifs <;> simp
@[simp] theorem Core.completeLate_cells (q op : Nat) (want : Bool) (x : Cpl) : (c.completeLate q op want x).cells = c.cells := by
  unfold Core.completeLate; split_ifs <;> simp
@[simp] theorem Core.completeLate_moving (q op : Nat) (want : Bool) (x : Cpl) : (c.completeLate q op want x).moving = c.moving := by
  unfold Core.completeLate; split_ifs <;> simp
@[simp] theorem Core.completeLate_nextMove (q op : Nat) (want : Bool) (x : Cpl) : (c.completeLate q op want x).nextMove = c.nextMove := by
  unfold Core.completeLate; split_ifs <;> simp
@[simp] theorem Core.completeLate_vregs (q op : Nat) (want : Bool) (x : Cpl) : (c.completeLate q op want x).vregs = c.vregs := by
  unfold Core.completeLate; split_ifs <;> simp
@[simp] theorem Core.completeLate_rows (q op : Nat) (want : Bool) (x : Cpl) : (c.completeLate q op want x).rows = c.rows := by
  unfold Core.completeLate; split_ifs <;> simp

@[simp] theorem Core.completeBound_mstate (q : Nat) (x : Cpl) : (c.completeBound q x).mstate = c.mstate := by
  unfold Core.completeBound; simp only; split_ifs <;> simp
@[simp] theorem Core.completeBound_alert (q : Nat) (x : Cpl) : (c.completeBound q x).alert = c.alert := by
  unfold Core.completeBound; simp only; split_ifs <;> simp
@[simp] theorem Core.completeBound_parts (q : Nat) (x : Cpl) : (c.completeBound q x).parts = c.parts := by
  unfold Core.completeBound; simp only; split_ifs <;> simp
@[simp] theorem Core.completeBound_buffers (q : Nat) (x : Cpl) : (c.completeBound q x).buffers = c.buffers := by
  unfold Core.completeBound; simp only; split_ifs <;> simp
@[simp] theorem Core.completeBound_copies (q : Nat) (x : Cpl) : (c.completeBound q x).copies = c.copies := by
  unfold Core.completeBound; simp only; split_ifs <;> simp
@[simp] theorem Core.completeBound_programs (q : Nat) (x : Cpl) : (c.completeBound q x).programs = c.programs := by
  unfold Core.completeBound; simp only; split_ifs <;> simp
@[simp] theorem Core.completeBound_bindings (q : Nat) (x : Cpl) : (c.completeBound q x).bindings = c.bindings := by
  unfold Core.completeBound; simp only; split_ifs <;> simp
@[simp] theorem Core.completeBound_insts (q : Nat) (x : Cpl) : (c.completeBound q x).insts = c.insts := by
  unfold Core.completeBound; simp only; split_ifs <;> simp
@[simp] theorem Core.completeBound_nextInst (q : Nat) (x : Cpl) : (c.completeBound q x).nextInst = c.nextInst := by
  unfold Core.completeBound; simp only; split_ifs <;> simp
@[simp] theorem Core.completeBound_runs (q : Nat) (x : Cpl) : (c.completeBound q x).runs = c.runs := by
  unfold Core.completeBound; simp only; split_ifs <;> simp
@[simp] theorem Core.completeBound_nextRun (q : Nat) (x : Cpl) : (c.completeBound q x).nextRun = c.nextRun := by
  unfold Core.completeBound; simp only; split_ifs <;> simp
@[simp] theorem Core.completeBound_ctxs (q : Nat) (x : Cpl) : (c.completeBound q x).ctxs = c.ctxs := by
  unfold Core.completeBound; simp only; split_ifs <;> simp
@[simp] theorem Core.completeBound_clips (q : Nat) (x : Cpl) : (c.completeBound q x).clips = c.clips := by
  unfold Core.completeBound; simp only; split_ifs <;> simp
@[simp] theorem Core.completeBound_free (q : Nat) (x : Cpl) : (c.completeBound q x).free = c.free := by
  unfold Core.completeBound; simp only; split_ifs <;> simp
@[simp] theorem Core.completeBound_dropped (q : Nat) (x : Cpl) : (c.completeBound q x).dropped = c.dropped := by
  unfold Core.completeBound; simp only; split_ifs <;> simp
@[simp] theorem Core.completeBound_dropQs (q : Nat) (x : Cpl) : (c.completeBound q x).dropQs = c.dropQs := by
  unfold Core.completeBound; simp only; split_ifs <;> simp
@[simp] theorem Core.completeBound_retired (q : Nat) (x : Cpl) : (c.completeBound q x).retired = c.retired := by
  unfold Core.completeBound; simp only; split_ifs <;> simp
@[simp] theorem Core.completeBound_decPlan (q : Nat) (x : Cpl) : (c.completeBound q x).decPlan = c.decPlan := by
  unfold Core.completeBound; simp only; split_ifs <;> simp
@[simp] theorem Core.completeBound_cells (q : Nat) (x : Cpl) : (c.completeBound q x).cells = c.cells := by
  unfold Core.completeBound; simp only; split_ifs <;> simp
@[simp] theorem Core.completeBound_moving (q : Nat) (x : Cpl) : (c.completeBound q x).moving = c.moving := by
  unfold Core.completeBound; simp only; split_ifs <;> simp
@[simp] theorem Core.completeBound_nextMove (q : Nat) (x : Cpl) : (c.completeBound q x).nextMove = c.nextMove := by
  unfold Core.completeBound; simp only; split_ifs <;> simp
@[simp] theorem Core.completeBound_vregs (q : Nat) (x : Cpl) : (c.completeBound q x).vregs = c.vregs := by
  unfold Core.completeBound; simp only; split_ifs <;> simp
@[simp] theorem Core.completeBound_rows (q : Nat) (x : Cpl) : (c.completeBound q x).rows = c.rows := by
  unfold Core.completeBound; simp only; split_ifs <;> simp

@[simp] theorem Core.putRec_mstate (q : Nat) (note : Bool) (r : Rec) : (c.putRec q note r).mstate = c.mstate := by
  unfold Core.putRec; simp only; split_ifs <;> first | (simp; done) | (split <;> simp)
@[simp] theorem Core.putRec_alert (q : Nat) (note : Bool) (r : Rec) : (c.putRec q note r).alert = c.alert := by
  unfold Core.putRec; simp only; split_ifs <;> first | (simp; done) | (split <;> simp)
@[simp] theorem Core.putRec_parts (q : Nat) (note : Bool) (r : Rec) : (c.putRec q note r).parts = c.parts := by
  unfold Core.putRec; simp only; split_ifs <;> first | (simp; done) | (split <;> simp)
@[simp] theorem Core.putRec_buffers (q : Nat) (note : Bool) (r : Rec) : (c.putRec q note r).buffers = c.buffers := by
  unfold Core.putRec; simp only; split_ifs <;> first | (simp; done) | (split <;> simp)
@[simp] theorem Core.putRec_copies (q : Nat) (note : Bool) (r : Rec) : (c.putRec q note r).copies = c.copies := by
  unfold Core.putRec; simp only; split_ifs <;> first | (simp; done) | (split <;> simp)
@[simp] theorem Core.putRec_programs (q : Nat) (note : Bool) (r : Rec) : (c.putRec q note r).programs = c.programs := by
  unfold Core.putRec; simp only; split_ifs <;> first | (simp; done) | (split <;> simp)
@[simp] theorem Core.putRec_bindings (q : Nat) (note : Bool) (r : Rec) : (c.putRec q note r).bindings = c.bindings := by
  unfold Core.putRec; simp only; split_ifs <;> first | (simp; done) | (split <;> simp)
@[simp] theorem Core.putRec_insts (q : Nat) (note : Bool) (r : Rec) : (c.putRec q note r).insts = c.insts := by
  unfold Core.putRec; simp only; split_ifs <;> first | (simp; done) | (split <;> simp)
@[simp] theorem Core.putRec_nextInst (q : Nat) (note : Bool) (r : Rec) : (c.putRec q note r).nextInst = c.nextInst := by
  unfold Core.putRec; simp only; split_ifs <;> first | (simp; done) | (split <;> simp)
@[simp] theorem Core.putRec_runs (q : Nat) (note : Bool) (r : Rec) : (c.putRec q note r).runs = c.runs := by
  unfold Core.putRec; simp only; split_ifs <;> first | (simp; done) | (split <;> simp)
@[simp] theorem Core.putRec_nextRun (q : Nat) (note : Bool) (r : Rec) : (c.putRec q note r).nextRun = c.nextRun := by
  unfold Core.putRec; simp only; split_ifs <;> first | (simp; done) | (split <;> simp)
@[simp] theorem Core.putRec_ctxs (q : Nat) (note : Bool) (r : Rec) : (c.putRec q note r).ctxs = c.ctxs := by
  unfold Core.putRec; simp only; split_ifs <;> first | (simp; done) | (split <;> simp)
@[simp] theorem Core.putRec_clips (q : Nat) (note : Bool) (r : Rec) : (c.putRec q note r).clips = c.clips := by
  unfold Core.putRec; simp only; split_ifs <;> first | (simp; done) | (split <;> simp)
@[simp] theorem Core.putRec_free (q : Nat) (note : Bool) (r : Rec) : (c.putRec q note r).free = c.free := by
  unfold Core.putRec; simp only; split_ifs <;> first | (simp; done) | (split <;> simp)
@[simp] theorem Core.putRec_retired (q : Nat) (note : Bool) (r : Rec) : (c.putRec q note r).retired = c.retired := by
  unfold Core.putRec; simp only; split_ifs <;> first | (simp; done) | (split <;> simp)
@[simp] theorem Core.putRec_decPlan (q : Nat) (note : Bool) (r : Rec) : (c.putRec q note r).decPlan = c.decPlan := by
  unfold Core.putRec; simp only; split_ifs <;> first | (simp; done) | (split <;> simp)
@[simp] theorem Core.putRec_cells (q : Nat) (note : Bool) (r : Rec) : (c.putRec q note r).cells = c.cells := by
  unfold Core.putRec; simp only; split_ifs <;> first | (simp; done) | (split <;> simp)
@[simp] theorem Core.putRec_moving (q : Nat) (note : Bool) (r : Rec) : (c.putRec q note r).moving = c.moving := by
  unfold Core.putRec; simp only; split_ifs <;> first | (simp; done) | (split <;> simp)
@[simp] theorem Core.putRec_nextMove (q : Nat) (note : Bool) (r : Rec) : (c.putRec q note r).nextMove = c.nextMove := by
  unfold Core.putRec; simp only; split_ifs <;> first | (simp; done) | (split <;> simp)
@[simp] theorem Core.putRec_vregs (q : Nat) (note : Bool) (r : Rec) : (c.putRec q note r).vregs = c.vregs := by
  unfold Core.putRec; simp only; split_ifs <;> first | (simp; done) | (split <;> simp)
@[simp] theorem Core.putRec_rows (q : Nat) (note : Bool) (r : Rec) : (c.putRec q note r).rows = c.rows := by
  unfold Core.putRec; simp only; split_ifs <;> first | (simp; done) | (split <;> simp)

/-- A message changes one vector of the function, or nothing (R383, R389). -/
theorem Core.msg_cases (f v : Nat) : c.msg f v = c ∨ ∃ g, c.msg f v = c.updVec f v g := by
  unfold Core.msg
  split_ifs
  · exact .inr ⟨_, rfl⟩
  · exact .inl rfl
  · exact .inr ⟨_, rfl⟩
  · exact .inr ⟨_, rfl⟩
  · exact .inr ⟨_, rfl⟩

/-- A message leaves host memory and the windows alone. -/
@[simp] theorem Core.msg_mem (f v : Nat) : (c.msg f v).host.mem = c.host.mem := by
  unfold Core.msg; split_ifs <;> rfl
@[simp] theorem Core.msg_windows (f v : Nat) : (c.msg f v).host.windows = c.host.windows := by
  unfold Core.msg; split_ifs <;> rfl
@[simp] theorem Core.msg_fns (f v : Nat) : (c.msg f v).host.fns = c.host.fns := by
  unfold Core.msg; split_ifs <;> rfl

/-- An error bit that is set already changes nothing (R379). -/
theorem Core.errBit_of_set (b : Nat) (h : bitAt b c.host.errCause = true) : c.errBit b = c := by
  unfold Core.errBit; rw [if_pos h]

/-- A posted write of a function that masters the bus reaches host memory and nothing else (R390). -/
theorem Core.post_mastering (f mq addr : Nat) (data : List Byte) (q : Option Nat) (h : c.mastering f = true) :
    c.post f mq addr data q = c.updHost fun x => { x with mem := Memory.write x.mem addr data } := by
  unfold Core.post; rw [if_pos h]

end

/-- A lifted operation answers a next state that differs in the core alone. -/
theorem onCore_next (f : Core → Core) (s : State) : ∃ c, onCore f s = .next { s with core := c } := ⟨_, rfl⟩
theorem onCoreT_next (f : Nat → Core → Core) (s : State) : ∃ c, onCoreT f s = .next { s with core := c } := ⟨_, rfl⟩

end Sys2Proof.Machine
end

