-- ==== Sys2Proof/Laws/Flow.lean ====
section
/-! SUPPORT. How a command comes to run, case by case, so that no proof unfolds the shared course of commands again. -/

namespace Sys2Proof.Machine

@[simp] theorem onCoreA_eq (f : Amb → Core → Core) (s : State) :
    onCoreA f s = .next { s with core := f ⟨s.tick.count, s.led.coefNow, s.led.imgNow⟩ s.core } := rfl
theorem onCoreA_next (f : Amb → Core → Core) (s : State) : ∃ c, onCoreA f s = .next { s with core := c } := ⟨_, rfl⟩

section
variable {op : Nat} {cmd : Cmd} {f : Env → Core → Except Stop (Core × Option Run)} {a : Amb} {c c' : Core} {e : Env}

/-- A command that is not at hand changes nothing. -/
theorem Core.command_absent (h : c.atHand a.tick op cmd = none) : Core.command op cmd f a c = c := by
  simp [Core.command, Core.commandOn, h]

/-- A command at hand whose effect is a run launches it. -/
theorem Core.command_run {r : Run} (h : c.atHand a.tick op cmd = some e) (hg : c.gate e = .ok ())
    (hf : f e c = .ok (c', some r)) : Core.command op cmd f a c = (c'.take e).launch a e r := by
  simp [Core.command, Core.commandOn, h, Core.judge, hg, hf]

/-- A command at hand that completes later: Control has an entry left for it (Table 1-5). -/
theorem Core.command_later (h : c.atHand a.tick op cmd = some e) (hg : c.gate e = .ok ())
    (hf : f e c = .ok (c', none)) (hc : (e.op != 0x000D && c.controlFull) = false) : Core.command op cmd f a c = (c'.take e).defer e := by
  simp [Core.command, Core.commandOn, h, Core.judge, hg, hf, hc]

/-- A command that its own rules hold stays where it is. -/
theorem Core.command_wait (h : c.atHand a.tick op cmd = some e) (hg : c.gate e = .ok ()) (hf : f e c = .error .wait) :
    Core.command op cmd f a c = c := by
  simp [Core.command, Core.commandOn, h, Core.judge, hg, hf]

/-- A command that fails before its first step. -/
theorem Core.command_fail {st : Status} {d : Option Nat} (h : c.atHand a.tick op cmd = some e) (hg : c.gate e = .ok ())
    (hf : f e c = .error (.fail st d)) :
    Core.command op cmd f a c = ((c.take e).readEnded e st).stopCmd a e st d := by
  simp [Core.command, Core.commandOn, h, Core.judge, hg, hf]

/-- A command that is a violation. -/
theorem Core.command_violation {k v : Nat} (h : c.atHand a.tick op cmd = some e) (hg : c.gate e = .ok ())
    (hf : f e c = .error (.violation k v)) : Core.command op cmd f a c = (c.take e).violate a e k v := by
  simp [Core.command, Core.commandOn, h, Core.judge, hg, hf]

/-- A command that the module or partition state refuses. -/
theorem Core.command_refused {st : Status} {d : Option Nat} (h : c.atHand a.tick op cmd = some e)
    (hj : c.judge e (f e c) = .error (.fail st d)) :
    Core.command op cmd f a c = ((c.take e).readEnded e st).stopCmd a e st d := by
  simp [Core.command, Core.commandOn, h, hj]

theorem runOnly_ok {g : Env → Core → Except Stop Run} {r : Run} (h : g e c = .ok r) :
    runOnly g e c = .ok (c, some r) := by
  simp [runOnly, h, bind, Except.bind]

/-- A control command that moves the program counter. -/
theorem Core.control_ok {g : Env → Inst → Except Stop Inst} {bad : Env → Program → Status → Inst → Inst} {i j : Inst}
    {p : Program} (h : c.atHand a.tick op cmd = some e) (hi : e.inst = some i) (hp : e.prog = some p)
    (hg : g e i = .ok j) :
    Core.control op cmd g bad a c = (c.updInst i.id fun _ => { j with seq := i.seq + 1 }).proceed a.tick i.id := by
  simp [Core.control, Core.controlAt, h, hi, hp, hg]

theorem Core.control_absent {g : Env → Inst → Except Stop Inst} {bad : Env → Program → Status → Inst → Inst}
    (h : c.atHand a.tick op cmd = none) : Core.control op cmd g bad a c = c := by
  simp [Core.control, h]

/-- A copy is put in its place among the copies, and nothing else changes. -/
theorem Core.setCopy_eq (c : Core) (v : Copy) : ∃ x, c.setCopy v = { c with copies := x } := by
  unfold Core.setCopy; split <;> exact ⟨_, rfl⟩

/-- Pages join copies and change nothing else. -/
theorem Core.takePages_eq (c : Core) (part buf : Nat) (key : CopyKey) (l : List Nat) :
    ∃ x, c.takePages part buf key l = { c with copies := x } := by
  induction l generalizing c with
  | nil => exact ⟨_, rfl⟩
  | cons p l ih =>
    have h1 : ∃ x, c.takePages part buf key [p] = { c with copies := x } := by
      simp only [Core.takePages, List.foldl]
      split
      · exact ⟨_, rfl⟩
      · split
        · exact ⟨_, rfl⟩
        · split
          · exact Core.setCopy_eq _ _
          · exact ⟨_, rfl⟩
    obtain ⟨x, hx⟩ := h1
    obtain ⟨y, hy⟩ := ih { c with copies := x }
    refine ⟨y, ?_⟩
    have : c.takePages part buf key (p :: l) = (c.takePages part buf key [p]).takePages part buf key l := rfl
    rw [this, hx, hy]

/-- The admission of a run allocates pages and changes nothing else (R258); a run without pages changes nothing. -/
theorem Core.allot_eq (c : Core) (r : Run) : ∃ x, c.allot r = { c with copies := x } := by
  unfold Core.allot
  generalize r.outs = l
  induction l generalizing c with
  | nil => exact ⟨_, rfl⟩
  | cons o l ih =>
    simp only [List.foldl]
    split
    · exact ih c
    · obtain ⟨x, hx⟩ := c.takePages_eq o.part o.buf o.key o.pages
      rw [hx]
      obtain ⟨y, hy⟩ := ih { c with copies := x }
      exact ⟨y, hy⟩

theorem Core.allot_none (c : Core) (r : Run) (h : ∀ o ∈ r.outs, o.pages = []) : c.allot r = c := by
  unfold Core.allot
  revert h
  generalize r.outs = l
  intro h
  induction l with
  | nil => rfl
  | cons o l ih =>
    have := ih fun o ho => h o (by simp [ho])
    simp only [List.foldl, h o (by simp), List.isEmpty_nil, if_true]
    exact this

/-- A run with something left to do is in flight once it is launched, with the pages that it writes. -/
theorem Core.launch_flight {r : Run} (h : (e.inFlight a c r).done = false) :
    ∃ x, c.launch a e r =
      { c with copies := x, nextRun := c.nextRun + 1, free := c.free + 1, runs := c.runs ++ [e.inFlight a c r] } := by
  obtain ⟨x, hx⟩ := c.allot_eq (e.inFlight a c r)
  refine ⟨x, ?_⟩
  simp only [Core.launch, hx, h]
  simp

theorem Core.launch_runs {r : Run} (h : (e.inFlight a c r).done = false) :
    (c.launch a e r).runs = c.runs ++ [e.inFlight a c r] := by
  obtain ⟨x, hx⟩ := Core.launch_flight (c := c) h
  rw [hx]

/-- A run with nothing left to do ends at once. -/
theorem Core.launch_at_once {r : Run} (h : (e.inFlight a c r).done = true) :
    c.launch a e r = ({ c.allot (e.inFlight a c r) with
      nextRun := (c.allot (e.inFlight a c r)).nextRun + 1, free := (c.allot (e.inFlight a c r)).free + 1 } : Core).endRun a.tick (e.inFlight a c r) := by
  simp only [Core.launch]
  exact if_pos h

end

section
variable (c : Core) (e : Env) (a : Amb) (r : Run)

@[simp] theorem Core.take_mstate : (c.take e).mstate = c.mstate := by unfold Core.take; split <;> rfl
@[simp] theorem Core.take_alert : (c.take e).alert = c.alert := by unfold Core.take; split <;> rfl
@[simp] theorem Core.take_host : (c.take e).host = c.host := by unfold Core.take; split <;> rfl
@[simp] theorem Core.take_parts : (c.take e).parts = c.parts := by unfold Core.take; split <;> rfl
@[simp] theorem Core.take_buffers : (c.take e).buffers = c.buffers := by unfold Core.take; split <;> rfl
@[simp] theorem Core.take_copies : (c.take e).copies = c.copies := by unfold Core.take; split <;> rfl
@[simp] theorem Core.take_programs : (c.take e).programs = c.programs := by unfold Core.take; split <;> rfl
@[simp] theorem Core.take_bindings : (c.take e).bindings = c.bindings := by unfold Core.take; split <;> rfl
@[simp] theorem Core.take_nextInst : (c.take e).nextInst = c.nextInst := by unfold Core.take; split <;> rfl
@[simp] theorem Core.take_runs : (c.take e).runs = c.runs := by unfold Core.take; split <;> rfl
@[simp] theorem Core.take_nextRun : (c.take e).nextRun = c.nextRun := by unfold Core.take; split <;> rfl
@[simp] theorem Core.take_ctxs : (c.take e).ctxs = c.ctxs := by unfold Core.take; split <;> rfl
@[simp] theorem Core.take_clips : (c.take e).clips = c.clips := by unfold Core.take; split <;> rfl
@[simp] theorem Core.take_free : (c.take e).free = c.free := by unfold Core.take; split <;> rfl
@[simp] theorem Core.take_dropped : (c.take e).dropped = c.dropped := by unfold Core.take; split <;> rfl
@[simp] theorem Core.take_dropQs : (c.take e).dropQs = c.dropQs := by unfold Core.take; split <;> rfl
@[simp] theorem Core.take_chaffT : (c.take e).chaffT = c.chaffT := by unfold Core.take; split <;> rfl
@[simp] theorem Core.take_retired : (c.take e).retired = c.retired := by unfold Core.take; split <;> rfl
@[simp] theorem Core.take_decPlan : (c.take e).decPlan = c.decPlan := by unfold Core.take; split <;> rfl
@[simp] theorem Core.take_cells : (c.take e).cells = c.cells := by unfold Core.take; split <;> rfl
@[simp] theorem Core.take_moving : (c.take e).moving = c.moving := by unfold Core.take; split <;> rfl
@[simp] theorem Core.take_nextMove : (c.take e).nextMove = c.nextMove := by unfold Core.take; split <;> rfl
@[simp] theorem Core.take_untold : (c.take e).untold = c.untold := by unfold Core.take; split <;> rfl
@[simp] theorem Core.take_vregs : (c.take e).vregs = c.vregs := by unfold Core.take; split <;> rfl
@[simp] theorem Core.take_rows : (c.take e).rows = c.rows := by unfold Core.take; split <;> rfl

@[simp] theorem Core.defer_mstate : (c.defer e).mstate = c.mstate := by unfold Core.defer; split <;> rfl
@[simp] theorem Core.defer_alert : (c.defer e).alert = c.alert := by unfold Core.defer; split <;> rfl
@[simp] theorem Core.defer_host : (c.defer e).host = c.host := by unfold Core.defer; split <;> rfl
@[simp] theorem Core.defer_parts : (c.defer e).parts = c.parts := by unfold Core.defer; split <;> rfl
@[simp] theorem Core.defer_buffers : (c.defer e).buffers = c.buffers := by unfold Core.defer; split <;> rfl
@[simp] theorem Core.defer_copies : (c.defer e).copies = c.copies := by unfold Core.defer; split <;> rfl
@[simp] theorem Core.defer_programs : (c.defer e).programs = c.programs := by unfold Core.defer; split <;> rfl
@[simp] theorem Core.defer_bindings : (c.defer e).bindings = c.bindings := by unfold Core.defer; split <;> rfl
@[simp] theorem Core.defer_insts : (c.defer e).insts = c.insts := by unfold Core.defer; split <;> rfl
@[simp] theorem Core.defer_nextInst : (c.defer e).nextInst = c.nextInst := by unfold Core.defer; split <;> rfl
@[simp] theorem Core.defer_runs : (c.defer e).runs = c.runs := by unfold Core.defer; split <;> rfl
@[simp] theorem Core.defer_nextRun : (c.defer e).nextRun = c.nextRun := by unfold Core.defer; split <;> rfl
@[simp] theorem Core.defer_ctxs : (c.defer e).ctxs = c.ctxs := by unfold Core.defer; split <;> rfl
@[simp] theorem Core.defer_clips : (c.defer e).clips = c.clips := by unfold Core.defer; split <;> rfl
@[simp] theorem Core.defer_free : (c.defer e).free = c.free := by unfold Core.defer; split <;> rfl
@[simp] theorem Core.defer_dropped : (c.defer e).dropped = c.dropped := by unfold Core.defer; split <;> rfl
@[simp] theorem Core.defer_dropQs : (c.defer e).dropQs = c.dropQs := by unfold Core.defer; split <;> rfl
@[simp] theorem Core.defer_chaffT : (c.defer e).chaffT = c.chaffT := by unfold Core.defer; split <;> rfl
@[simp] theorem Core.defer_retired : (c.defer e).retired = c.retired := by unfold Core.defer; split <;> rfl
@[simp] theorem Core.defer_decPlan : (c.defer e).decPlan = c.decPlan := by unfold Core.defer; split <;> rfl
@[simp] theorem Core.defer_cells : (c.defer e).cells = c.cells := by unfold Core.defer; split <;> rfl
@[simp] theorem Core.defer_moving : (c.defer e).moving = c.moving := by unfold Core.defer; split <;> rfl
@[simp] theorem Core.defer_nextMove : (c.defer e).nextMove = c.nextMove := by unfold Core.defer; split <;> rfl
@[simp] theorem Core.defer_untold : (c.defer e).untold = c.untold := by unfold Core.defer; split <;> rfl
@[simp] theorem Core.defer_vregs : (c.defer e).vregs = c.vregs := by unfold Core.defer; split <;> rfl
@[simp] theorem Core.defer_rows : (c.defer e).rows = c.rows := by unfold Core.defer; split <;> rfl

/-- What launching a run with steps leaves alone. -/
theorem Core.launch_mstate (h : (e.inFlight a c r).done = false) : (c.launch a e r).mstate = c.mstate := by
  obtain ⟨x, hx⟩ := Core.launch_flight (c := c) h; rw [hx]
theorem Core.launch_alert (h : (e.inFlight a c r).done = false) : (c.launch a e r).alert = c.alert := by
  obtain ⟨x, hx⟩ := Core.launch_flight (c := c) h; rw [hx]
theorem Core.launch_qs (h : (e.inFlight a c r).done = false) : (c.launch a e r).qs = c.qs := by
  obtain ⟨x, hx⟩ := Core.launch_flight (c := c) h; rw [hx]
theorem Core.launch_host (h : (e.inFlight a c r).done = false) : (c.launch a e r).host = c.host := by
  obtain ⟨x, hx⟩ := Core.launch_flight (c := c) h; rw [hx]
theorem Core.launch_parts (h : (e.inFlight a c r).done = false) : (c.launch a e r).parts = c.parts := by
  obtain ⟨x, hx⟩ := Core.launch_flight (c := c) h; rw [hx]
theorem Core.launch_buffers (h : (e.inFlight a c r).done = false) : (c.launch a e r).buffers = c.buffers := by
  obtain ⟨x, hx⟩ := Core.launch_flight (c := c) h; rw [hx]
theorem Core.launch_copies (h : (e.inFlight a c r).done = false) (hp : ∀ o ∈ (e.inFlight a c r).outs, o.pages = []) :
    (c.launch a e r).copies = c.copies := by
  simp only [Core.launch, Core.allot_none c _ hp, h]
  simp
theorem Core.launch_programs (h : (e.inFlight a c r).done = false) : (c.launch a e r).programs = c.programs := by
  obtain ⟨x, hx⟩ := Core.launch_flight (c := c) h; rw [hx]
theorem Core.launch_bindings (h : (e.inFlight a c r).done = false) : (c.launch a e r).bindings = c.bindings := by
  obtain ⟨x, hx⟩ := Core.launch_flight (c := c) h; rw [hx]
theorem Core.launch_nextInst (h : (e.inFlight a c r).done = false) : (c.launch a e r).nextInst = c.nextInst := by
  obtain ⟨x, hx⟩ := Core.launch_flight (c := c) h; rw [hx]
theorem Core.launch_ctxs (h : (e.inFlight a c r).done = false) : (c.launch a e r).ctxs = c.ctxs := by
  obtain ⟨x, hx⟩ := Core.launch_flight (c := c) h; rw [hx]
theorem Core.launch_clips (h : (e.inFlight a c r).done = false) : (c.launch a e r).clips = c.clips := by
  obtain ⟨x, hx⟩ := Core.launch_flight (c := c) h; rw [hx]
theorem Core.launch_dropped (h : (e.inFlight a c r).done = false) : (c.launch a e r).dropped = c.dropped := by
  obtain ⟨x, hx⟩ := Core.launch_flight (c := c) h; rw [hx]
theorem Core.launch_dropQs (h : (e.inFlight a c r).done = false) : (c.launch a e r).dropQs = c.dropQs := by
  obtain ⟨x, hx⟩ := Core.launch_flight (c := c) h; rw [hx]
theorem Core.launch_chaffT (h : (e.inFlight a c r).done = false) : (c.launch a e r).chaffT = c.chaffT := by
  obtain ⟨x, hx⟩ := Core.launch_flight (c := c) h; rw [hx]
theorem Core.launch_retired (h : (e.inFlight a c r).done = false) : (c.launch a e r).retired = c.retired := by
  obtain ⟨x, hx⟩ := Core.launch_flight (c := c) h; rw [hx]
theorem Core.launch_decPlan (h : (e.inFlight a c r).done = false) : (c.launch a e r).decPlan = c.decPlan := by
  obtain ⟨x, hx⟩ := Core.launch_flight (c := c) h; rw [hx]
theorem Core.launch_cells (h : (e.inFlight a c r).done = false) : (c.launch a e r).cells = c.cells := by
  obtain ⟨x, hx⟩ := Core.launch_flight (c := c) h; rw [hx]
theorem Core.launch_moving (h : (e.inFlight a c r).done = false) : (c.launch a e r).moving = c.moving := by
  obtain ⟨x, hx⟩ := Core.launch_flight (c := c) h; rw [hx]
theorem Core.launch_nextMove (h : (e.inFlight a c r).done = false) : (c.launch a e r).nextMove = c.nextMove := by
  obtain ⟨x, hx⟩ := Core.launch_flight (c := c) h; rw [hx]
theorem Core.launch_untold (h : (e.inFlight a c r).done = false) : (c.launch a e r).untold = c.untold := by
  obtain ⟨x, hx⟩ := Core.launch_flight (c := c) h; rw [hx]
theorem Core.launch_vregs (h : (e.inFlight a c r).done = false) : (c.launch a e r).vregs = c.vregs := by
  obtain ⟨x, hx⟩ := Core.launch_flight (c := c) h; rw [hx]
theorem Core.launch_rows (h : (e.inFlight a c r).done = false) : (c.launch a e r).rows = c.rows := by
  obtain ⟨x, hx⟩ := Core.launch_flight (c := c) h; rw [hx]

end


/-! ### On the whole machine -/

section
variable {op : Nat} {cmd : Cmd} {f : Env → Core → Except Stop (Core × Option Run)} {s : State} {k : Core} {e : Env}

theorem onCoreA_run {r : Run} (h : s.core.atHand s.tick.count op cmd = some e) (hg : s.core.gate e = .ok ())
    (hf : f e s.core = .ok (k, some r)) :
    onCoreA (Core.command op cmd f) s = .next { s with core := (k.take e).launch s.amb e r } := by
  rw [onCoreA_eq, Core.command_run (a := ⟨s.tick.count, s.led.coefNow, s.led.imgNow⟩) h hg hf]; rfl

theorem onCoreA_later (h : s.core.atHand s.tick.count op cmd = some e) (hg : s.core.gate e = .ok ())
    (hf : f e s.core = .ok (k, none)) (hc : (e.op != 0x000D && s.core.controlFull) = false) :
    onCoreA (Core.command op cmd f) s = .next { s with core := (k.take e).defer e } := by
  rw [onCoreA_eq, Core.command_later (a := ⟨s.tick.count, s.led.coefNow, s.led.imgNow⟩) h hg hf hc]

theorem onCoreA_wait (h : s.core.atHand s.tick.count op cmd = some e) (hg : s.core.gate e = .ok ())
    (hf : f e s.core = .error .wait) : onCoreA (Core.command op cmd f) s = .next s := by
  rw [onCoreA_eq, Core.command_wait (a := ⟨s.tick.count, s.led.coefNow, s.led.imgNow⟩) h hg hf]

theorem onCoreA_control {g : Env → Inst → Except Stop Inst} {bad : Env → Program → Status → Inst → Inst} {i j : Inst}
    {p : Program} (h : s.core.atHand s.tick.count op cmd = some e) (hi : e.inst = some i) (hp : e.prog = some p)
    (hg : g e i = .ok j) :
    onCoreA (Core.control op cmd g bad) s = .next { s with
      core := (s.core.updInst i.id fun _ => { j with seq := i.seq + 1 }).proceed s.tick.count i.id } := by
  rw [onCoreA_eq, Core.control_ok (a := ⟨s.tick.count, s.led.coefNow, s.led.imgNow⟩) h hi hp hg]

end

end Sys2Proof.Machine
end

