-- ==== Sys2Proof/Laws/Sheaf.lean ====
section
/-! SUPPORT. What the operations of the builders, the seal and the steps leave alone, and what their outcomes can be. -/

namespace Sys2Proof.Machine

/-! ### Engines and tiles -/

theorem overlaps_symm (a b : Engine) : overlaps a b = overlaps b a := by
  cases a <;> cases b <;> simp [overlaps, eq_comm]
  rw [Bool.eq_iff_iff]
  simp only [Bool.and_eq_true, Bool.or_eq_true, beq_iff_eq, decide_eq_true_eq]
  tauto

theorem meet_symm (l m : List Nat) : meet l m = meet m l := by
  rw [Bool.eq_iff_iff]
  simp only [meet, List.any_eq_true, List.contains_iff_mem]
  exact ⟨fun ⟨x, hx, hy⟩ => ⟨x, hy, hx⟩, fun ⟨x, hx, hy⟩ => ⟨x, hy, hx⟩⟩

theorem any_contains_symm {α : Type} [BEq α] [LawfulBEq α] (l m : List α) : l.any m.contains = m.any l.contains := by
  rw [Bool.eq_iff_iff]
  simp only [List.any_eq_true, List.contains_iff_mem]
  exact ⟨fun ⟨x, hx, hy⟩ => ⟨x, hy, hx⟩, fun ⟨x, hx, hy⟩ => ⟨x, hy, hx⟩⟩

/-- Whether two steps keep each other out does not depend on which is named first (R18). -/
theorem PStep.clash_symm (a b : PStep) (s t : Int) : a.clash s b t = b.clash t a s := by
  have h : ((a.spans s).any fun x => (b.spans t).any fun y => overlaps x.1 y.1 && (decide (x.2.1 < y.2.2) && decide (y.2.1 < x.2.2))) =
      (b.spans t).any fun x => (a.spans s).any fun y => overlaps x.1 y.1 && (decide (x.2.1 < y.2.2) && decide (y.2.1 < x.2.2)) := by
    rw [Bool.eq_iff_iff]
    simp only [Bool.and_eq_true, List.any_eq_true, decide_eq_true_eq]
    constructor
    · rintro ⟨x, hx, y, hy, h1, h2, h3⟩
      exact ⟨y, hy, x, hx, overlaps_symm x.1 y.1 ▸ h1, h3, h2⟩
    · rintro ⟨x, hx, y, hy, h1, h2, h3⟩
      exact ⟨y, hy, x, hx, overlaps_symm x.1 y.1 ▸ h1, h3, h2⟩
  simp only [PStep.clash, overlaps_symm b.eng, meet_symm b.xbar, any_contains_symm (b.bankAt t), h]
  rw [Bool.and_comm (decide (t < s + (a.dur : Int)))]

/-- The curve visits points of the grid only. -/
theorem mem_tilesOf {strips blocks : Nat} {p : Nat × Nat} (h : p ∈ tilesOf strips blocks) : p.1 < strips ∧ p.2 < blocks := by
  simpa [tilesOf] using (List.mem_filter.1 h).2

/-- What of a plan a resolved work issues comes from its planned steps, in their order. -/
theorem resolveSteps_length (ps : List Piece) (l : List PStep) : (resolveSteps ps l).length ≤ l.length :=
  (List.length_filter_le _ _).trans (List.length_filterMap_le _ _)

/-! ### Places -/

/-- Giving copies their places changes the list of copies alone. -/
theorem Core.putPlaces_eq (l : Spots) : ∀ c : Core, c.putPlaces l = { c with copies := (c.putPlaces l).copies } := by
  unfold Core.putPlaces
  induction l with
  | nil => intro c; rfl
  | cons y r ih =>
    intro c
    rw [List.foldl_cons, ih]
    split
    · unfold Core.setCopy; split <;> rfl
    · rfl

section
variable (c : Core) (l : Spots)

@[simp] theorem Core.putPlaces_qs : (c.putPlaces l).qs = c.qs := by rw [Core.putPlaces_eq]
@[simp] theorem Core.putPlaces_host : (c.putPlaces l).host = c.host := by rw [Core.putPlaces_eq]
@[simp] theorem Core.putPlaces_parts : (c.putPlaces l).parts = c.parts := by rw [Core.putPlaces_eq]
@[simp] theorem Core.putPlaces_buffers : (c.putPlaces l).buffers = c.buffers := by rw [Core.putPlaces_eq]
@[simp] theorem Core.putPlaces_insts : (c.putPlaces l).insts = c.insts := by rw [Core.putPlaces_eq]
@[simp] theorem Core.putPlaces_runs : (c.putPlaces l).runs = c.runs := by rw [Core.putPlaces_eq]
@[simp] theorem Core.putPlaces_cells : (c.putPlaces l).cells = c.cells := by rw [Core.putPlaces_eq]
@[simp] theorem Core.putPlaces_moving : (c.putPlaces l).moving = c.moving := by rw [Core.putPlaces_eq]

end

/-! ### The build and the seal -/

/-- After the cut-off, or the seal, no build begins. -/
theorem execCutOff_late (b : Build) (s : State) (h : s.tick.cutPassed = true ∨ s.tick.sealed = true) :
    execCutOff b s = .next s := by
  rcases h with h | h <;> simp [execCutOff, h]

/-- A sheaf is sealed once. -/
theorem execSealDeadline_late (n : Nat) (s : State) (h : s.tick.sealed = true) : execSealDeadline n s = .next s := by
  simp [execSealDeadline, h]

section
variable (s : State) (n : Nat)

@[simp] theorem State.sealSheaf_sealed : (s.sealSheaf n).tick.sealed = true := rfl
@[simp] theorem State.sealSheaf_plan : (s.sealSheaf n).tick.plan = [] := rfl
@[simp] theorem State.sealSheaf_sheaf : (s.sealSheaf n).tick.sheaf = s.tick.sheaf := rfl
@[simp] theorem State.sealSheaf_dram : (s.sealSheaf n).dram = s.dram := rfl
@[simp] theorem State.sealSheaf_fw : (s.sealSheaf n).fw = s.fw := rfl
@[simp] theorem State.sealSheaf_mod : (s.sealSheaf n).mod = s.mod := rfl
@[simp] theorem State.sealSheaf_pending : (s.sealSheaf n).pending = s.pending := rfl

end

/-! ### Steps -/

/-- A run that is no weight-sharing run is left as it is. -/
theorem State.shareStart_other {s : State} {r : Run} (h : ∀ ms, r.post ≠ .share ms) : s.shareStart r = s := by
  unfold State.shareStart
  split
  · exact absurd ‹_› (h _)
  · rfl

/-- Nothing that the sheaf in force has: STEP_START does nothing. -/
theorem execStepStart_none {run t : Nat} {e : Engine} {s : State} {r : Run} (hr : s.core.run? run = some r)
    (hs : ∀ ms, r.post ≠ .share ms) (h : s.pick r e t = none) : execStepStart run e t s = .next s := by
  simp [execStepStart, hr, State.shareStart_other hs, h]

/-- A step that something keeps from starting does not start. -/
theorem execStepStart_held {run t : Nat} {e : Engine} {s : State} {r : Run} {x : PStep × Option PSlot} (hr : s.core.run? run = some r)
    (hs : ∀ ms, r.post ≠ .share ms) (h : s.pick r e t = some x) (hm : s.mayBegin r e t x.1 x.2 = false) :
    execStepStart run e t s = .next s := by
  simp [execStepStart, hr, State.shareStart_other hs, h, hm]

section
variable (s : State) (r : Run) (e : Engine) (t : Nat) (p : PStep) (q : Option PSlot)

@[simp] theorem State.begin_dram : (s.begin r e t p q).dram = s.dram := rfl
@[simp] theorem State.begin_mend : (s.begin r e t p q).mend = s.mend := rfl
@[simp] theorem State.begin_link : (s.begin r e t p q).link = s.link := rfl
@[simp] theorem State.begin_fw : (s.begin r e t p q).fw = s.fw := rfl
@[simp] theorem State.begin_mod : (s.begin r e t p q).mod = s.mod := rfl
@[simp] theorem State.begin_pending : (s.begin r e t p q).pending = s.pending := rfl
@[simp] theorem State.begin_slices : (s.begin r e t p q).tick.sheaf.slices = s.tick.sheaf.slices := rfl

/-- While the governor does not stall, a start writes nothing of the ledger (R68). -/
theorem State.begin_led (h : s.led.level = 0) : (s.begin r e t p q).led = s.led := by
  simp [State.begin, h]

end

end Sys2Proof.Machine
end

