-- ==== Sys2Proof/WellFormed.lean ====
section
/-! DEFINITION. Well-formed commands: every operand lies in the range that its field, its pin or the event it names has
in the manual. The meanings are total and do not ask for it. -/

namespace Sys2Proof

/-- Queues 0 to 4,095 (R375); instance numbers have 32 bits and command indices 16 (Tables 15-1, 4-19). -/
def Src.wf : Src → Bool
  | .ring q => decide (q < 4096)
  | .inst i k => decide (i < 2 ^ 32) && decide (k < 65536)

/-- The reads of a program's commands are made by its steps, so `rd` belongs to a ring's commands. -/
def Cmd.wf (c : Cmd) : Bool :=
  c.src.wf && match c.src with
    | .ring _ => true
    | .inst _ _ => c.rd == .ok

/-- Functions: the PF and 16 VFs (R374). -/
def fnOk (f : Nat) : Bool := decide (f ≤ 16)

/-- A queue slot of a function: 4,096 in the PF, 128 in a VF (Tables 16-4, 16-7). -/
def slotOk (f s : Nat) : Bool := fnOk f && decide (s < if f == 0 then 4096 else 128)

/-- Vectors of a function (Table 16-2). -/
def vecOk (f v : Nat) : Bool := fnOk f && decide (v < if f == 0 then 2048 else 64)

/-- Tags have at most 14 bits (R385). -/
def tagOk (t : Nat) : Bool := decide (t < 2 ^ 14)

/-- Ports 0 to 5 (chapter 18), controllers 0 to 15 (chapter 17), image kinds 1 to 6 (Table 20-2), processors 0 to 5. -/
def portOk (p : Nat) : Bool := decide (p < 6)
def chOk (c : Nat) : Bool := decide (c < 16)
def kindOk (k : Nat) : Bool := decide (1 ≤ k) && decide (k ≤ 6)
def cpuOk (k : Nat) : Bool := decide (k < 6)

/-- Module IDs 1 to 65,534 (R427). -/
def idOk (m : Nat) : Bool := decide (1 ≤ m) && decide (m ≤ 0xFFFE)

def auOk (a : AuInfo) : Bool :=
  (match a.bad with | none => true | some b => b == 1 || b == 3 || b == 4) && decide (0 < a.ctus)

/-- 16 tillers with 64 logical arrays in two rings and four quarters of each (R183, R194, R197), 8 decoders, 4 shapers, 2 clip
encoders, host DMA, 6 ports, the granary. -/
def Engine.wf : Engine → Bool
  | .arrays t f l q => decide (t < 16) && decide (f < 64) && decide (1 ≤ l) && decide (f % 32 + l ≤ 32) && q.all fun k => decide (k < 4)
  | .vector t | .mover t => decide (t < 16)
  | .granary => true
  | .dec d => decide (d < 8)
  | .shp n => decide (n < 4)
  | .cle n => decide (n < 2)
  | .hostDma => true
  | .link p => portOk p

/-- A place in a partition or, as partition 16, in the emit buffer. -/
def ErrAt.wf (w : ErrAt) : Bool := decide (w.part ≤ 16) && decide (w.buf < 2 ^ 28)
def errOk : Option ErrAt → Bool
  | none => true
  | some w => w.wf

/-- Stop reasons of Table 11-6; units of Table 19-4; tillers and physical arrays. -/
def StepHow.wf : StepHow → Bool
  | .stop r _ => decide (1 ≤ r) && decide (r ≤ 7)
  | .dataLost _ u w => decide (u < 256) && errOk w
  | .parity t a => decide (t < 16) && decide (a < 66)
  | .ctus n => decide (n ≤ 64)
  | .done | .badTag | .clip _ _ => true

def Migration.wf (m : Migration) : Bool := decide (m.prog < 256) && decide (m.to_ < 16)

def Boundary.wf (m : Boundary) : Bool :=
  m.moves.all (fun x => decide (x.1 < 16) && x.2.wf) && m.lost.all ErrAt.wf && m.planLost.all Engine.wf &&
    m.badMoves.all (fun x => x.2.wf) &&
    m.revoke.all (fun w => decide (w < 256)) && m.seqFail.all (fun t => decide (t < 16))

/-- Slices lie on shared engines, chains on logical arrays (R46, R194). -/
def Build.wf (b : Build) : Bool :=
  b.slices.all (fun q => q.eng.wf && decide (q.part < 16) && match q.eng with
    | .dec _ | .shp _ | .cle _ => true
    | _ => false) &&
    b.choices.all (fun c => c.tillers.all (fun t => decide (t < 16)) && c.chains.all fun k => (Engine.arrays k.tiller k.first k.len k.quarter).wf) &&
    b.starts.all fun x => x.eng.all Engine.wf

def DramReq.wf (r : DramReq) : Bool := decide (r.line < 2 ^ 31)

/-- Ranges of Table 18-1: classes TICK, SEAM, BULK, MGMT; 64 data bytes. -/
def Flit.wf (f : Flit) : Bool :=
  decide (f.dest < 65536) && decide (f.src < 65536) && decide (f.cls < 4) && decide (f.data.length ≤ 64)

def Msg.wf (m : Msg) : Bool := decide (m.src < 65536) && decide (m.unit < 256)
def TickPay.wf (k : TickPay) : Bool := idOk k.master
def Hello.wf (h : Hello) : Bool := decide (h.id < 65536)
def GrantReq.wf (g : GrantReq) : Bool := decide (g.part < 16) && decide (g.tillers ≤ 16)
def ActNotice.wf (n : ActNotice) : Bool := idOk n.origin && decide (n.mask < 128)
def Store.wf : Store → Bool
  | .scratchpad t => decide (t < 16)
  | .granary | .internal => true

/-- The operands of a command are in range. -/
def Instr.wf : Instr → Bool
  | .nop c | .fence c | .signal c | .wait c | .tickwait c | .branch c | .loop c | .call c | .return c | .sets c
  | .halt c | .emit c | .invoke c => c.wf
  | .matmul c | .conv2d c | .dwconv c | .attend c | .transpose c | .copy c | .fill c => c.wf
  | .vew c | .vred c | .vwin c | .vspread c | .vsfn c | .vtopk c | .vnms c | .vassoc c | .vpool c | .vnorm c
  | .vsoftmax c | .vscan c => c.wf
  | .quant c | .dequant c | .rescale c | .convert c => c.wf
  | .streamOpen c | .streamResync c | .streamClose c | .shape c | .roiSet c | .motionExport c => c.wf
  | .streamFeed c au => c.wf && auOk au
  | .clipBegin c | .clipEnd c => c.wf
  | .cachePut c | .epochBegin c | .batchDraw c | .optimStep c | .graft c => c.wf
  | .bufDeclare c | .bufRelease c | .pinHint c | .hostRead c | .hostWrite c => c.wf
  | .modelLoad c | .modelUnload c | .progLoad c | .bind c | .partCreate c | .partDestroy c | .partLimits c => c.wf
  | .mendStart c | .mendStatus c | .fwStage c | .fwActivate c | .fwConfirm c | .attest c | .thaw c | .ledgerSet c
  | .tickSet c | .chainForm c | .quiet c => c.wf
  | .doorbellSq f s _ | .doorbellCq f s _ | .doorbellRr f s _ => slotOk f s
  | .queueEnable f s _ | .queueDisable f s _ | .queuePause f s _ | .ivEnWrite f s _ | .hifQownWrite f s _ => slotOk f s
  | .queueDrained q => decide (q < 4096)
  | .tckCountLoRead => true
  | .registerWrite f bar _ size be _ =>
    fnOk f && (bar == 0 || bar == 4 || bar == 16) && decide (0 < size) && decide (be < 2 ^ size)
  | .commandFetch q _ => decide (q < 4096)
  | .msixRateLimitRelease f v | .msixUnmask f v => vecOk f v
  | .tickBoundary m => m.wf
  | .tickInEdge _ | .tickInWindowExpiry | .tickInRelock _ => true
  | .cutOff b => b.wf
  | .sealDeadline _ => true
  | .stepStart _ e _ => e.wf
  | .stepEnd r _ _ h _ => r.2.wf && h.wf
  | .stepCut r => r.2.wf
  | .streamFeedResume c => decide (c < 4096)
  | .governorRaise _ _ | .governorLower _ _ => true
  | .hostReadCompletion f t | .completionTimeout f t | .lateCompletion f t | .quarantineExpiry f t => fnOk f && tagOk t
  | .hostReadErrorCompletion f t r => fnOk f && tagOk t && r != .ok && r != .timeout
  | .busMasterDisable f | .busMasterEnable f | .d3hotEntry f | .d0Return f | .flrReadWaitExpiry f => fnOk f
  | .vfFlr f => fnOk f && f != 0
  | .pfFlr | .perstAssert | .hotReset | .pcieLinkDown => true
  | .pcieRetrain g w | .perstDeassert g w =>
    decide (1 ≤ g) && decide (g ≤ 6) && (w == 4 || w == 8 || w == 16)
  | .doeRequest p _ => decide (p < 256)
  | .doeAbort => true
  | .doeDiscovery i => decide (i < 256)
  | .getVersion _ | .getCapabilities _ | .negotiateAlgorithms _ _ _ | .getDigests _ => true
  | .getCertificate _ s o l => decide (s < 16) && decide (o < 65536) && decide (l < 65536)
  | .challenge _ s n => decide (s < 256) && n.length == 32
  | .getMeasurements _ i n => decide (i < 256) && (n.isEmpty || n.length == 32)
  | .spdmSessionRequest _ c => decide (c < 256)
  | .setEndpointId _ e => decide (e < 256)
  | .mctpControl _ c => decide (c < 256)
  | .telemetryRequest _ _ _ _ _ => true
  | .recoveryDownloadMessage _ _ o d => decide (o + d.length ≤ 2 ^ 20)
  | .recoveryBegin v | .recoveryWrite v | .recoveryVerify v | .recoveryCommit v =>
    kindOk (v.toNat / 2 ^ 24 % 8)
  | .smbusArp a => decide (a < 128)
  | .alertResponse => true
  | .dramRequestEntry c r => chOk c && r.wf
  | .dramUrgencyRise c _ _ | .dramBankIssue c _ _ => chOk c
  | .dramReadReturn c _ _ _ _ w => chOk c && errOk w
  | .refreshWindowStart | .refreshWindowEnd => true
  | .sramPatrolScrub st _ _ w _ => st.wf && errOk w
  | .dramPatrolScrub c _ w _ => chOk c && errOk w
  | .arraySelfTest rows _ => rows.all fun r => decide (r < 33)
  | .flashReadVerify _ => true
  | .deferredActivityStart c _ => decide (1 ≤ c) && decide (c ≤ 9)
  | .portTraining p _ l => portOk p && decide (l < 256)
  | .hello p h => portOk p && h.wf
  | .flitReceive p f _ _ => portOk p && f.wf
  | .tickFlit p k _ => portOk p && k.wf
  | .seamMessage p m | .bulkMessage p m => portOk p && m.wf
  | .mgmtReply _ _ => true
  | .grantRequest p g => portOk p && g.wf
  | .memberStepList p l k l' => portOk p && idOk l && decide (k < 16) && l'.all fun s => s.eng.wf && match s.eng with
    | .arrays .. | .vector _ | .mover _ | .link _ => true
    | _ => false
  | .activateNotice p n => portOk p && n.wf
  | .activateCancel p o m => portOk p && idOk o && decide (m < 128)
  | .linkDownNotice p _ _ | .linkUpNotice p _ _ => portOk p
  | .laneLockLoss p | .replayLimit p | .controlWordTimeout p => portOk p
  | .replyTimeout _ => true
  | .grantTimeout k => decide (k < 16)
  | .activateTimeout | .masterLost => true
  | .trialWindowExpiry k => kindOk k
  | .processorTrap k | .watchdogExpiry k => cpuOk k
  | .vinRise _ | .pwrgdRelease | .undervoltage | .resetNAssert _ => true
  | .moduleResetEnd st _ => decide (st.pwrSel < 4)
  | .bootEnd _ | .temperatureReading _ _ | .thermalTrip | .thermtripRelease => true
  | .controlWordReceive p cr _ => portOk p && cr.length == 4

end Sys2Proof
end

