-- ==== Sys2Proof/Tests/Slice0.lean ====
section
/-! SUPPORT. Tests: ill-formed commands that the checks refuse, witnesses that the hypotheses of the statements can be met,
and worked examples of the manual. -/

namespace Sys2Proof.Tests

/- The theorems below are checked one after another: each one waits for the kernel, and many waiting at once take too many
threads. -/
set_option Elab.async false

open Sys2Proof Sys2Proof.Machine

/-! ### A small machine -/

/-- The PF masters the bus over a link in training at Gen 6 × 16, and one window covers all its addresses. -/
def host0 : HostIf :=
  { linkUp := true, gen := 6, width := 16, perst := false
    fns := [(0, { bme := true, mse := true, msixEn := true })]
    windows := [(0, { base := 0, last := 0xFFFFFFFFFFF000, valid := true, read := true, write := true })] }

def grants0 : Grants := { tillers := 1, granary := 100, dram := 100, decode := 50, shaping := 50, clip := 50 }
def part0 : Part := { state := .active, owner := 0, tillers := [0], grants := grants0, nextBuf := 10 }
def queue0 : Queue := { state := .enabled, enable := true, part := 0, sqLog := 6, cqLog := 6 }

/-- SERVING, with partition 0 ACTIVE and queues 0 and 1 ENABLED. -/
def s0 : State :=
  { core := { mstate := .serving, host := host0, qs := [(0, { queue0 with part := 0x1F }), (1, queue0)], parts := [(0, part0)] }
    mod := { inReset := false, started := true } }

def cmd (src : Src) (ws : List Nat) (sub : Nat := 0) (flags : Nat := 0) : Cmd :=
  let w (k : Nat) : Word := BitVec.ofNat 32 (ws.getD k 0)
  { src := src, sub := BitVec.ofNat 8 sub, flags := BitVec.ofNat 8 flags, w0 := w 0, w1 := w 1, w2 := w 2, w3 := w 3
    w4 := w 4, w5 := w 5 }

/-- A descriptor of type `t` with static dimensions, of buffer `h`. -/
def desc (h t : Nat) (dims : List Nat) : Desc := { handle := h, dtype := t, rank := dims.length, dims := dims }

def prog0 (cs : List (Nat × Cmd)) (ds : List Desc) : Program :=
  { part := 0, num := 0, lc := false, allow := 0, glw := 0, entry := 0, cmds := cs, descs := ds }
/-- An admitted instance at whose first command the builder stands. -/
def front0 : Inst :=
  { id := 0, part := 0, prog := 0, queue := 1, binding := none, pic := none, tag := 0, lc := false, allow := 0, glw := 0
    scalars := [], pc := 0, admitted := true }
/-- The same instance, its first command planned in the sheaf in force and left to start. -/
def inst0 : Inst := { front0 with pc := 1, seq := 1, todo := [{ seq := 0, idx := 0, scalars := [], inSheaf := true }] }

/-- The small machine with an instance whose program is one command over descriptors of buffers 1, 2, …. -/
def atInst (op : Nat) (c : Cmd) (ds : List Desc) (s : State := s0) : State :=
  { s with core := { s.core with
      programs := [prog0 [(op, c)] ds], insts := [inst0]
      buffers := ds.map fun d => { part := 0, num := d.handle, kind := 0, page := 0, desc := d } } }

/-- The small machine with a fetched command in queue `q`. -/
def atRing (q op : Nat) (c : Cmd) (s : State := s0) : State :=
  { s with core := s.core.updQ q fun y => { y with fetched := [{ n := 0, op := op, cmd := c }], nextN := 1, reserved := 1 } }

abbrev i0 : Src := .inst 0 0
abbrev r1 : Src := .ring 1
abbrev r0 : Src := .ring 0

/-! ### Commands that only run steps -/

/-- The command is at hand, allowed, and its body gives a run that is in flight once launched. -/
def runs (op : Nat) (body : Env → Core → Except Stop Run) (c : Cmd) (s : State) : Bool :=
  match s.core.atHand s.tick.count op c with
  | none => false
  | some e =>
    match s.core.gate e, body e s.core with
    | .ok _, .ok r => !(e.inFlight s.amb (s.core.take e) r).done
    | _, _ => false

/-- What `runs` says, in the words of the statements. -/
theorem runs_spec {op : Nat} {body : Env → Core → Except Stop Run} {c : Cmd} {s : State} (h : runs op body c s = true) :
    ∃ e r, Ready s op c e ∧ body e s.core = .ok r ∧ (e.inFlight s.amb (s.core.take e) r).done = false := by
  unfold runs at h
  split at h
  · cases h
  · rename_i e he
    split at h
    · rename_i r hg hb
      exact ⟨e, r, ⟨he, by simpa using hg⟩, hb, by simpa using h⟩
    · cases h
/-- A command of the instance of `atInst` that runs steps. -/
def prg (op : Nat) (body : Env → Core → Except Stop Run) (ds : List Desc) (ws : List Nat) (f : State → State := id) : Bool :=
  runs op body (cmd i0 ws) (f (atInst op (cmd i0 ws) ds))

/-- The command is at hand, allowed, and its body gives a run, with or without steps. -/
def starts (op : Nat) (body : Env → Core → Except Stop Run) (c : Cmd) (s : State) : Bool :=
  match s.core.atHand s.tick.count op c with
  | none => false
  | some e =>
    match s.core.gate e, body e s.core with
    | .ok _, .ok _ => true
    | _, _ => false

theorem starts_spec {op : Nat} {body : Env → Core → Except Stop Run} {c : Cmd} {s : State} (h : starts op body c s = true) :
    ∃ e r, Ready s op c e ∧ body e s.core = .ok r := by
  unfold starts at h
  split at h
  · cases h
  · rename_i e he
    split at h
    · rename_i r hg hb
      exact ⟨e, r, ⟨he, by simpa using hg⟩, hb⟩
    · cases h

def t2 : List Desc := [desc 1 0xD [2, 2], desc 2 0xD [2, 2], desc 3 0xD [2, 2], desc 4 0xD [2]]

/-- The instance belongs to binding 0 and to a decoded picture 0 of stream 0. -/
def shown (s : State) : State :=
  { s with core := { s.core with
      insts := [{ inst0 with binding := some 0, pic := some (0, 0) }]
      ctxs := [(0, { state := .running, pics := [{ num := 0, bytes := 1, info := { width := 8, height := 8 }, ready := 0, decoded := true }] })] } }

/-- Buffers 1 and 4 hold weights, as OPTIM_STEP asks of a master and its computed copy. -/
def weights (s : State) : State :=
  { s with core := { s.core with
      buffers := s.core.buffers.map fun b => if b.num == 1 || b.num == 4 then { b with kind := 1 } else b } }

/-- Partition 0 has replay cache 0, of two UINT8 samples of two elements. -/
def cached (s : State) : State :=
  { s with core := s.core.updPart 0 fun p =>
      { p with caches := [(0, { used := true, dtype := 1, rank := 1, dims := [2], cap := 2 })] } }

theorem test_matmul_starts : prg 0x1001 matmulRun t2 [0, 1, 2, 0, 2] = true := by decide +kernel
theorem test_conv2d_starts :
    prg 0x1002 convRun [desc 1 0xD [2, 1, 1], desc 2 0xD [2, 2], desc 3 0xD [2, 1, 1]] [0, 1, 2] = true := by decide +kernel
theorem test_dwconv_starts :
    prg 0x1003 dwconvRun [desc 1 0xD [2, 1, 1], desc 2 0xD [2, 1], desc 3 0xD [2, 1, 1]] [0, 1, 2] = true := by decide +kernel
theorem test_attend_starts : prg 0x1004 attendRun t2 [0, 1, 1, 2, 2] = true := by decide +kernel
theorem test_transpose_starts : prg 0x1010 transposeRun t2 [0, 1, 8] = true := by decide +kernel
theorem test_copy_starts : prg 0x1011 copyRun t2 [0, 1] = true := by decide +kernel
theorem test_fill_starts : prg 0x1012 fillRun t2 [0, 1] = true := by decide +kernel
theorem test_vew_starts : prg 0x2001 vewRun t2 [0, 1, 2] = true := by decide +kernel
theorem test_vred_starts : prg 0x2002 vredRun t2 [0, 3] = true := by decide +kernel
theorem test_vwin_starts : prg 0x2003 vwinRun t2 [0, 1, 2] = true := by decide +kernel
theorem test_vspread_starts :
    prg 0x2004 vspreadRun [desc 1 0xD [2, 2], desc 2 0xE [2], desc 3 0xD [2, 2]] [0, 1, 2, 1] = true := by decide +kernel
theorem test_vsfn_starts : prg 0x2005 vsfnRun t2 [0, 1] = true := by decide +kernel
theorem test_vtopk_starts : prg 0x2006 vtopkRun t2 [0, 1, 2, 1] = true := by decide +kernel
theorem test_vnms_starts :
    prg 0x2007 vnmsRun [desc 1 0xD [4, 2], desc 2 0xD [2], desc 3 0xE [2]] [0, 1, 2] = true := by decide +kernel
theorem test_vassoc_starts : prg 0x2008 vassocRun [desc 1 0xD [2, 2], desc 2 0xE [2]] [0, 1] = true := by decide +kernel
theorem test_vpool_starts : prg 0x2009 vpoolRun [desc 1 0xD [2, 1, 1], desc 2 0xD [2, 1, 1]] [0, 1] = true := by decide +kernel
theorem test_vnorm_starts : prg 0x200A vnormRun t2 [0, 1] = true := by decide +kernel
theorem test_vsoftmax_starts : prg 0x200B vsoftmaxRun t2 [0, 1] = true := by decide +kernel
theorem test_vscan_starts : prg 0x200C vscanRun t2 [0, 1] = true := by decide +kernel
theorem test_formats_start : formatRows.all (fun r => prg r.op r.body t2 [0, 1]) = true := by decide +kernel
theorem test_emit_starts :
    starts 0x000B emitRun (cmd i0 [0, 0, 1] 1) (atInst 0x000B (cmd i0 [0, 0, 1] 1) [desc 1 0xD [8, 2]]) = true := by
  decide +kernel
theorem test_shape_starts :
    prg 0x4005 shapeRun [desc 1 0xD [3, 1, 1], desc 2 0xD [8]] [0, 1, 1] shown = true := by decide +kernel
theorem test_roiSet_starts : starts 0x4006 roiRun (cmd i0 [0, 1])
    (shown (atInst 0x4006 (cmd i0 [0, 1]) [desc 1 0xD [4, 1]])) = true := by decide +kernel
theorem test_motionExport_starts :
    prg 0x4009 motionRun [desc 1 0xF [4, 1, 1], desc 2 0xF [4, 1, 1]] [0, 1] shown = true := by decide +kernel
theorem test_cachePut_starts :
    prg 0x5001 cachePut [{ desc 1 1 [2] with rowH := 2 }, desc 2 0x10 [8]] [0, 0] cached = true := by decide +kernel
theorem test_optimStep_starts : prg 0x5004 optimStep
    [desc 1 0xD [2], desc 2 0xD [2], desc 3 0xD [2, 1], desc 4 0xB [2], desc 5 0xD [8]] [0, 1, 2, 1, 3, 4] weights = true := by
  decide +kernel
theorem test_hostRead_starts : runs 0x6003 hostReadRun (cmd r1 [1, 0x1000, 0, 0, 4])
    (atRing 1 0x6003 (cmd r1 [1, 0x1000, 0, 0, 4]) (atInst 1 (cmd i0 []) t2)) = true := by decide +kernel
/-- In a program too, of the binding's or the instance's own copy. -/
theorem test_hostRead_in_program : prg 0x6003 hostReadRun t2 [0, 0x1000, 0, 0, 4] = true := by decide +kernel
theorem test_hostWrite_starts : runs 0x6004 hostWriteRun (cmd r1 [1, 0x1000, 0, 0, 4])
    (atRing 1 0x6004 (cmd r1 [1, 0x1000, 0, 0, 4]) (atInst 1 (cmd i0 []) t2)) = true := by decide +kernel
/-! ### Commands that act on the core or on the machine -/

/-- The command is at hand, allowed, and its body answers. -/
def acts (op : Nat) (body : Env → Core → Except Stop (Core × Option Run)) (c : Cmd) (s : State) : Bool :=
  match s.core.atHand s.tick.count op c with
  | none => false
  | some e =>
    match s.core.gate e, body e s.core with
    | .ok _, .ok _ => true
    | _, _ => false

theorem acts_spec {op : Nat} {body : Env → Core → Except Stop (Core × Option Run)} {c : Cmd} {s : State}
    (h : acts op body c s = true) : ∃ e k r, Ready s op c e ∧ body e s.core = .ok (k, r) := by
  unfold acts at h
  split at h
  · cases h
  · rename_i e he
    split at h
    · rename_i r hg hb
      exact ⟨e, r.1, r.2, ⟨he, by simpa using hg⟩, hb⟩
    · cases h

/-- As `acts`, of a body that sees the machine. -/
def actsM (op : Nat) (body : State → Env → Except Stop (State × Option Run)) (c : Cmd) (s : State) : Bool :=
  match s.core.atHand s.tick.count op c with
  | none => false
  | some e =>
    match s.core.gate e, body s e with
    | .ok _, .ok _ => true
    | _, _ => false

theorem actsM_spec {op : Nat} {body : State → Env → Except Stop (State × Option Run)} {c : Cmd} {s : State}
    (h : actsM op body c s = true) : ∃ e t r, Ready s op c e ∧ body s e = .ok (t, r) := by
  unfold actsM at h
  split at h
  · cases h
  · rename_i e he
    split at h
    · rename_i r hg hb
      exact ⟨e, r.1, r.2, ⟨he, by simpa using hg⟩, hb⟩
    · cases h

/-- A ring command: the command alone in ring `q`. -/
def ring (q op : Nat) (body : Env → Core → Except Stop (Core × Option Run)) (ws : List Nat) (s : State := s0) (sub : Nat := 0) :
    Bool :=
  acts op body (cmd (.ring q) ws sub) (atRing q op (cmd (.ring q) ws sub) s)

/-- A command of queue 0 that sees the machine. -/
def admin (op : Nat) (body : State → Env → Except Stop (State × Option Run)) (ws : List Nat) (s : State := s0) (sub : Nat := 0) :
    Bool :=
  actsM op body (cmd r0 ws sub) (atRing 0 op (cmd r0 ws sub) s)

/-- An instance's command. -/
def prgA (op : Nat) (body : Env → Core → Except Stop (Core × Option Run)) (ds : List Desc) (ws : List Nat) (f : State → State := id)
    (sub : Nat := 0) : Bool :=
  acts op body (cmd i0 ws sub) (f (atInst op (cmd i0 ws sub) ds))

/-- Host memory from 0x1000 on: little-endian fields by offset, length and value. -/
def withMem (fs : List (Nat × Nat × Nat)) (s : State := s0) : State :=
  { s with core := s.core.updHost fun h =>
      { h with mem := fs.foldl (fun m f => Memory.write m (0x1000 + f.1) (leBytes f.2.1 f.2.2)) [] } }

def withPart (f : Part → Part) (s : State := s0) : State := { s with core := s.core.updPart 0 f }
def withCtx (x : Ctx) (s : State := s0) : State := { s with core := { s.core with ctxs := [(0, x)] } }
def withM (m : MState) (s : State := s0) : State := { s with core := { s.core with mstate := m } }
def ctx0 : Ctx := { state := .running, queue := 1, codec := 1, depth := 8, refs := 1, maxW := 16, maxH := 16, rate := 30, bufUnits := 4 }
/-- A buffer of kind 0 of 2 × 2 FP32, number 1. -/
def withBuf (s : State := s0) : State :=
  { s with core := { s.core with buffers := [{ part := 0, num := 1, kind := 0, page := 0, desc := desc 0 0xD [2, 2] }] } }

/-- A BYTES descriptor of 64 bytes at an offset. -/
def bytesDesc (o : Nat) : List (Nat × Nat × Nat) := [(o + 4, 1, 0x10), (o + 5, 1, 1), (o + 8, 4, 64)]

theorem test_streamOpen_acts : ring 1 0x4001 streamOpen [0x1000, 0, 0]
    (withMem [(0, 1, 1), (2, 1, 8), (3, 1, 1), (4, 2, 16), (6, 2, 16), (8, 4, 30), (12, 4, 4)]) = true := by decide +kernel
theorem test_streamResync_acts : ring 1 0x4003 streamResync [0] (withCtx ctx0) = true := by decide +kernel
theorem test_streamClose_acts : ring 1 0x4004 streamClose [0] (withCtx ctx0) = true := by decide +kernel
/-- Quality 30, one frame of 64 × 64 at 0x1000, cap 65,536. -/
theorem test_clipBegin_acts :
    prgA 0x4007 clipBegin [desc 1 0x10 [4]] [0x1E01, 0, 0x400040, 0x1000, 0x10000, 0] shown = true := by decide +kernel
theorem test_clipEnd_acts : prgA 0x4008 clipEnd [] [] (fun s =>
    let s := shown s
    let c := cmd i0 [0x1E01, 0, 0x400040, 0x1000, 0x10000, 0]
    { s with core := { s.core with clips := [clipOf { op := 0x4007, cmd := c, now := 0, q := 1, part := 0, fn := 0 } inst0 0 (0, { num := 0, bytes := 1, info := {}, ready := 0 }) []] } }) = true := by decide +kernel
/-- A cache of UINT8 samples of 2 elements, capacity 2, no record. -/
theorem test_epochBegin_configures : ring 1 0x5002 epochCmd [0, 0x1000, 0]
    (withMem [(0, 1, 1), (1, 1, 1), (4, 4, 2), (20, 4, 2), (26, 2, 0xFFFF)]) = true := by decide +kernel
theorem test_epochBegin_begins : ring 1 0x5002 epochBegin [0, 0xFFFFFFFF] (cached s0) 1 = true := by decide +kernel
theorem test_batchDraw_acts : prgA 0x5003 batchDraw
    [{ desc 1 1 [2, 1] with rowH := 5 }, desc 2 0x10 [0, 1], desc 3 0x10 [1], desc 5 0x10 [8]] [0, 0, 1, 2] cached = true := by
  decide +kernel
/-- One entry of four handles, 1 to 4, of shared 4 × 4 BF16 weights. -/
theorem test_graft_defines : ring 1 0x5005 graftCmd [0, 0x1000, 0, 1, 0, 0xFFFF]
    (let s := withMem [(0, 4, 1), (4, 4, 2), (8, 4, 3), (12, 4, 4)]
     { s with core := { s.core with buffers := [1, 2, 3, 4].map fun n =>
        { part := 0, num := n, kind := 1, page := 0, desc := desc 0 0xB [4, 4] } } }) = true := by decide +kernel
theorem test_bufDeclare_acts : ring 1 0x6001 declare [0x1000, 0, 0] (withMem (bytesDesc 0)) = true := by decide +kernel
theorem test_bufRelease_acts : ring 1 0x6002 releaseBuf [1] withBuf = true := by decide +kernel
theorem test_pinHint_acts : ring 1 0x6005 pinHint [1, 2] withBuf = true := by decide +kernel
theorem test_partDestroy_acts : admin 0x7002 partDestroyAll [0] = true := by decide +kernel
/-- One entry: a BYTES buffer of 64 bytes, contents at 192. -/
theorem test_modelLoad_acts : ring 1 0x7003 modelLoad [0x1000, 0, 256] (withPart (fun p => { p with state := .loading })
    (withMem ([(0, 4, 0x4D534341), (4, 2, 1), (8, 4, 1), (128, 8, 192), (136, 8, 64)] ++ bytesDesc 64))) = true := by decide +kernel
theorem test_modelUnload_acts : ring 1 0x7004 modelUnload [] (withPart fun p => { p with state := .resident }) = true := by
  decide +kernel
/-- A latency-critical program of one HALT. -/
theorem test_progLoad_acts : ring 1 0x7005 progCmd [0x1000, 0, 96]
    (withMem [(0, 4, 0x50534341), (4, 2, 1), (8, 4, 1), (64, 2, 0x000C)]) = true := by decide +kernel
theorem test_bind_acts : ring 1 0x7006 bindCmd [0, 0, 0]
    (let s := withCtx ctx0; { s with core := { s.core with programs := [prog0 [(0x000C, cmd i0 [])] []] } }) = true := by
  decide +kernel

/-- One tiller, 4 units of granary, no health record. -/
def partMem : List (Nat × Nat × Nat) := [(0, 1, 1), (2, 2, 0xFFFF), (8, 2, 4)]

/-- Kind 2 has a VALID slot B beside the ACTIVE slot A. -/
def withImage (a b : ISlot) (f : Image → Image := id) (s : State := s0) : State :=
  { s with fw := { s.fw with images := [(2, f { a := a, b := b })] } }

theorem test_partCreate_acts : admin 0x7001 partCreate [0x1000, 0, 1] (withMem partMem) = true := by decide +kernel
theorem test_partLimits_acts : admin 0x7007 partLimits [0x1000, 0, 0]
    (withPart (fun p => { p with grants := { p.grants with granary := 4, dram := 0 } }) (withMem partMem)) = true := by decide +kernel
/-- A self-test of array 1 of tiller 0. -/
theorem test_mendStart_acts : admin 0x8001 mendStart [0x100] s0 3 = true := by decide +kernel
theorem test_mendStatus_acts : admin 0x8002 mendStatus [0] s0 1 = true := by decide +kernel
theorem test_fwStage_acts : admin 0x8003 fwStage [2] = true := by decide +kernel
theorem test_fwActivate_acts : admin 0x8004 fwActivate [4, 0, 0, 0] (withImage { state := .active } { state := .valid }) = true := by
  decide +kernel
theorem test_fwConfirm_acts : admin 0x8005 fwConfirm [4]
    (withImage { state := .fallback } { state := .trial } fun i => { i with left := 1, counted := 100, healthy := 100 }) = true := by
  decide +kernel
theorem test_attest_acts : admin 0x8006 attest [0x1000, 0] = true := by decide +kernel
theorem test_thaw_acts : admin 0x8007 thaw [0, 1] { s0 with core := s0.core.updQ 1 fun y => { y with state := .frozen } } = true := by
  decide +kernel
theorem test_ledgerSet_acts : admin 0x8008 ledgerSet [75, 0, 0] = true := by decide +kernel
theorem test_tickSet_acts : admin 0x8009 tickSet [1000000, 120 * 65536 + 500, 0, 0] = true := by decide +kernel
/-- A mesh of module 1 and module 2 over port 0. -/
theorem test_chainForm_acts : admin 0x800A chainForm [0x1000, 0, 80]
    (withMem [(0, 2, 1), (2, 1, 1), (8, 4, 1), (64, 2, 2), (67, 1, 0xFF), (68, 2, 1), (72, 2, 0xFFFF)]) = true := by decide +kernel
theorem test_quiet_enters : admin 0x800B quiet [1] (withM .ready) = true := by decide +kernel
theorem test_quiet_leaves : admin 0x800B quiet [] (withM .quiet) 1 = true := by decide +kernel

/-! ### Control commands -/

/-- A ring command of queue 1 that is at hand and allowed, its operands committed. -/
def ready (op : Nat) (ws : List Nat) (s : State := s0) (p : Env → Bool := fun _ => true) : Bool :=
  let s := atRing 1 op (cmd r1 ws) s
  match s.core.atHand s.tick.count op (cmd r1 ws) with
  | none => false
  | some e =>
    match s.core.gate e, e.deps s.core with
    | .ok _, .ok _ => p e
    | _, _ => false

/-- The instance of `atInst` after `f`: at a control command the builder stands. -/
def ofInst (op : Nat) (c : Cmd) (f : Inst → Inst) : State :=
  { atInst op c [] with core := { (atInst op c []).core with insts := [f (if isControl op then front0 else inst0)] } }

/-- That instance is at its command, which is allowed, its operands committed. -/
def inside (op : Nat) (ws : List Nat) (sub : Nat := 0) (f : Inst → Inst := id) (p : Env → Inst → Bool := fun _ _ => true) : Bool :=
  let s := ofInst op (cmd i0 ws sub) f
  match s.core.atHand s.tick.count op (cmd i0 ws sub) with
  | none => false
  | some e =>
    match e.inst, e.prog, s.core.gate e, e.deps s.core with
    | some i, some _, .ok _, .ok _ => p e i
    | _, _, _, _ => false

theorem inside_spec {op : Nat} {ws : List Nat} {sub : Nat} {f : Inst → Inst} {p : Env → Inst → Bool}
    (h : inside op ws sub f p = true) :
    ∃ e i g, ReadyIn (ofInst op (cmd i0 ws sub) f) op (cmd i0 ws sub) e i g ∧
      (ofInst op (cmd i0 ws sub) f).core.gate e = .ok () ∧ e.deps (ofInst op (cmd i0 ws sub) f).core = .ok () ∧ p e i = true := by
  unfold inside at h
  dsimp only at h
  split at h
  · cases h
  · rename_i e he
    split at h
    · rename_i i g _ _ hi hg hj hd
      exact ⟨e, i, g, ⟨he, hi, hg⟩, by simpa using hj, by simpa using hd, h⟩
    · cases h

theorem test_nop_ready : ready 0x0001 [] = true ∧ ready 0x0002 [] = true := by decide +kernel
theorem test_signal_ready : ready 0x0003 [255, 1] = true := by decide +kernel
/-- The counter reads 5: a WAIT for 5 has been reached, one for 6 not. -/
theorem test_wait_ready :
    ready 0x0004 [3, 5] (withPart fun p => { p with events := [(3, 5)] }) (fun e => (e.value (e.word 1)).toNat == 5) = true ∧
    ready 0x0004 [3, 6] (withPart fun p => { p with events := [(3, 5)] }) (fun e => (e.value (e.word 1)).toNat == 6) = true ∧
    inside 0x0004 [3, 0] 0 id (fun e _ => e.front && (e.value (e.word 1)).toNat == 0) = true := by
  decide +kernel
theorem test_invoke_ready :
    let s : State := { s0 with core := { s0.core with programs := [prog0 [(0x000C, cmd i0 [])] []] } }
    ready 0x000D [0, 1, 2, 3, 4] s (fun e =>
      match s.core.progOf e.part (e.word 0) with
      | .ok p => isControl (p.op p.entry)
      | .error _ => false) = true ∧ (s.core.insts.all fun j => j.id != s.core.nextInst) = true := by decide +kernel

/-- Every condition of Table 4-15 on values for which it holds and for which it does not: −1 is below 0 as signed only. -/
theorem test_branch_ready :
    ([(0, 7, 8), (1, 7, 7), (2, 7, 8), (3, 0xFFFFFFFF, 0), (4, 0, 0xFFFFFFFF), (5, 0, 0xFFFFFFFF), (6, 0xFFFFFFFF, 0)].all
      fun x => inside 0x0006 [x.2.1, x.2.2, 0] x.1 id fun e _ => branchTaken e.sub (e.value (e.word 0)) (e.value (e.word 1))) = true ∧
    ([(1, 7, 8), (2, 7, 7), (3, 0, 0xFFFFFFFF), (4, 0xFFFFFFFF, 0), (5, 0xFFFFFFFF, 0), (6, 0, 0xFFFFFFFF)].all
      fun x => inside 0x0006 [x.2.1, x.2.2, 0] x.1 id fun e _ => !branchTaken e.sub (e.value (e.word 0)) (e.value (e.word 1))) = true := by
  decide +kernel

theorem test_sets_ready : ((List.range 12).all fun n => inside 0x000A [1, 2, 3] n id fun e _ => decide (e.sub ≤ 11)) = true := by
  decide +kernel
/-- A VRED and a SETS owe scalar 3 in turn. -/
theorem test_owed_scalars : (3, 7) ∈ ({ front0 with owed := [(3, 6), (3, 7)] } : Inst).owed := by decide
/-- A shift by the full width leaves nothing; an arithmetic one the sign; a sum wraps. -/
theorem test_sets_results :
    setsExact 7 1 64 = 0 ∧ setsExact 9 (BitVec.ofInt 64 (-1)) 64 = BitVec.ofInt 64 (-1) ∧
    setsExact 1 (BitVec.ofInt 64 (-1)) 1 = 0 ∧ setsExact 10 (BitVec.ofInt 64 (-1)) 0 = BitVec.ofInt 64 (-1) := by decide

/-- LOOP: entered, skipped, nested three deep; CALL at depth 7; RETURN at depths 0 and 1; HALT; both TICKWAITs. -/
theorem test_control_ready :
    inside 0x0007 [2, 0, 2] 0 (fun i => { i with loops := [(0, 9, 1), (0, 9, 1), (0, 9, 1)] }) (fun e i =>
      decide (i.loops.length < 4) && decide ((e.value (e.word 0)).toNat ≤ e.word 2)) = true ∧
    inside 0x0007 [0, 0, 2] 0 id (fun e _ => e.value (e.word 0) == 0) = true ∧
    inside 0x0008 [0] 0 (fun i => { i with calls := [0, 0, 0, 0, 0, 0, 0] }) (fun _ i => decide (i.calls.length < 8)) = true ∧
    inside 0x0009 [] 0 id (fun _ i => i.calls == []) = true ∧
    inside 0x0009 [] 0 (fun i => { i with calls := [0] }) (fun _ i => i.calls == [0]) = true ∧
    inside 0x000C [] = true ∧ inside 0x0005 [9, 0] 0 = true ∧ inside 0x0005 [9] 1 id (fun e _ => e.sub == 1) = true := by
  decide +kernel

/-- What a control command leaves of instance 0, when it goes on: another run of its own is still in flight. -/
def failsIn (op : Nat) (ex : Cmd → State → Host.Outcome State Fault Refusal) (ws : List Nat) (f : Inst → Inst) : Bool :=
  let c := cmd i0 ws
  let s := ofInst op c f
  let s := { s with core := { s.core with runs := [{ src := .inst 0 9, op := 0x1001 }] } }
  match ex c s with
  | .next t => (t.core.inst? 0).any fun j => j.failed.isSome
  | _ => false

/-- CALL at depth 8, LOOP at nesting 4 and LOOP above its planned maximum fail, and the instance is still there. -/
theorem test_control_fails :
    failsIn 0x0008 execCall [0] (fun i => { i with calls := [0, 0, 0, 0, 0, 0, 0, 0] }) = true ∧
    failsIn 0x0007 execLoop [1, 0, 2] (fun i => { i with loops := [(0, 9, 1), (0, 9, 1), (0, 9, 1), (0, 9, 1)] }) = true ∧
    failsIn 0x0007 execLoop [3, 0, 2] id = true := by decide +kernel

/-! ### Numbers -/

/-- The largest subnormal of FP32, a NaN and an infinity of E5M2; E4M3 has no infinity (Table 5-2). -/
theorem test_formats_decode :
    fFP32.decode 0x7FFFFF = .fin false 0x7FFFFF (-149) ∧ fE5M2.decode 0x7C = .inf false ∧ fE5M2.decode 0x7D = .nan ∧
    fE4M3.decode 0x7F = .nan ∧ fE4M3.decode 0x7E ≠ .nan ∧ fFP32.decode 0x3F800000 ≠ .nan := by decide +kernel
/-- 5/2 rounds to 2 in mode 0 and to 3 in mode 1 (R145). -/
theorem test_roundsTo : RoundsTo false false 5 (-1) 2 ∧ RoundsTo true true 5 (-1) (-3) :=
  ⟨⟨2, by decide⟩, ⟨3, by decide⟩⟩
/-- A UINT8 view without scales divides by 1; types INT32, UINT8. -/
theorem test_integer_views : isI 0xE = true ∧ isU 1 = true ∧
    div32 false (.fin false 5 (-1)) (({ dtype := 1, dims := [1] } : View).scaleAt 0 0).1 = .fin false (5 * 2 ^ 21) (-22) := by
  decide +kernel
/-- Two rows of three UINT4 elements, with a pad of 4 bits each, as the row statement asks. -/
theorem test_rows_packed : packRows 2 [[1, 2, 15], [4, 5, 6]] = [0x21, 0x0F, 0x54, 0x06] ∧ rowBytes 2 3 = 2 := by decide +kernel
/-- FILL of integers, COPY with an offset and VEW ADD of integers answer a run, as the statement of their elements asks. -/
theorem test_elements_written :
    let is : List Desc := [desc 1 0xE [2, 2], desc 2 0xE [2, 2], desc 3 0xE [2, 2]]
    prg 0x1012 fillRun is [0, 1] = true ∧
    runs 0x1012 fillRun (cmd i0 [0, 1, 1, 1] 1) (atInst 0x1012 (cmd i0 [0, 1, 1, 1] 1) is) = true ∧
    runs 0x1011 copyRun (cmd i0 [0, 1, 1] 1) (atInst 0x1011 (cmd i0 [0, 1, 1] 1) [desc 1 0xE [2, 1], desc 2 0xE [2, 2]]) = true ∧
    prg 0x1011 copyRun is [0, 1] = true ∧ prg 0x2001 vewRun is [0, 1, 2] = true ∧
    runs 0x2001 vewRun (cmd i0 [0, 1, 2] 2 0x40)
      (atInst 0x2001 (cmd i0 [0, 1, 2] 2 0x40) [desc 1 0xE [2, 2], desc 2 0xE [2], desc 3 0xE [2, 2]]) = true := by decide +kernel

/-! ### Queues -/

/-- Queue 1 after `f`. -/
def withQ (f : Queue → Queue) (s : State := s0) : State := { s with core := s.core.updQ 1 f }

/-- The first condition of the rows that nothing waits; the base address register of the PF answers. -/
theorem test_block_conditions : s0.pending = [] ∧ s0.core.barOk 0 = true ∧ s0.core.slotQ 0 1 = some 1 ∧ s0.core.ownQ 0 1 = some 1 := by
  decide +kernel
/-- TAIL 63 of a ring of 64, HEAD 63, and unit 1,023 of a result ring of 64 KB; 64 and 1,024 are out of range. -/
theorem test_doorbell_values :
    (let y := s0.core.q 1
     y.func = 0 ∧ (y.state = .enabled ∨ y.state = .paused) ∧ 63 % 65536 < 2 ^ y.sqLog ∧ 63 < 2 ^ y.cqLog ∧ 2 ^ y.sqLog ≤ 64 ∧
       2 ^ y.cqLog ≤ 64 ∧ y.rrLog = 0xF) ∧
    (let y := (withQ fun y => { y with rrLog := 0 }).core.q 1
     y.rrLog ≠ 0xF ∧ 1023 < 2 ^ (16 + y.rrLog) / 64 ∧ 2 ^ (16 + y.rrLog) / 64 ≤ 1024) ∧
    ((withQ fun y => { y with state := .disabled }).core.q 1).state = .disabled ∧
    ((withQ fun y => { y with state := .frozen }).core.q 1).state = .frozen ∧
    ((withQ fun y => { y with func := 1 }).core.q 1).func ≠ 0 := by decide +kernel
/-- What THAW asks for: queue 1 frozen with ENABLE set, port 5 frozen. -/
theorem test_thaw_conditions :
    (let s := withQ fun y => { y with state := .frozen }
     admin 0x8007 thaw [0, 1] s = true ∧ (s.core.q 1).partGone = false ∧ (s.core.q 1).enable = true) ∧
    (let s : State := { s0 with link := s0.link.updPort 5 fun p => { p with frozen := true } }
     admin 0x8007 thaw [1, 5] s = true ∧ (s.link.port 5).frozen = true) := by decide +kernel
/-- ENABLE = 1 with partition 0 and a ring size that is allowed, and with one that is not; ENABLE = 0; drained. -/
theorem test_queue_start_and_drain :
    (let s := withQ fun y => { y with state := .disabled, enable := false, part := 0x1F, sqBase := 0x1000, cqBase := 0x2000 }
     (s.core.q 1).state = .disabled ∧ bitAt 13 0x2000 = true ∧
       (((s.core.setPartVec 1 0x2000).setIvEn 1 false).setPause 1 false).enableOk 1 = true) ∧
    (let s := withQ fun y => { y with state := .disabled, enable := false, sqLog := 31 }
     (((s.core.setPartVec 1 0x2000).setIvEn 1 false).setPause 1 false).enableOk 1 = false) ∧
    bitAt 13 0 = false ∧ (s0.core.q 1).draining = false ∧
    (let s := withQ fun y => { y with enable := false, draining := true }
     (s.core.q 1).draining = true ∧ s.core.qIdle 1 = true ∧ s.core.clips = []) := by decide +kernel
/-- IV_EN with vector 2,048 of a PF queue; VF 1 has a free slot for a DISABLED queue 1. -/
theorem test_queue_fields :
    vecCount 0 ≤ ((withQ fun y => { y with vector := 2048 }).core.q 1).vector ∧ (s0.core.q 1).vector < vecCount 0 ∧
    (let s := withQ fun y => { y with state := .disabled }
     (s.core.q 1).state = .disabled ∧ s.core.freeSlot 1 = some 0 ∧ s.core.freeSlot 16 = some 0) ∧
    (let y := (withQ fun y => { y with state := .disabled, func := 3 }).core.q 1; y.state = .disabled ∧ y.func ≠ 0) ∧
    s0.core.barOk 0 = true ∧ (s0.core.q 1).state ≠ .disabled := by decide +kernel
/-- A fetch of a NOP at SQ_HEAD, the last entry of the ring; a full completion ring. -/
theorem test_fetch_conditions :
    (let s := withQ (fun y => { y with sqHead := 63, sqTail := 0, sqBase := 0x1000 }) (withMem [(32 * 63, 2, 1)])
     s.core.mayFetch 1 = true ∧ s.core.host.uncovered 0 false (0x1000 + 32 * 63) 32 = none ∧ s.core.newTag 0 = some 0 ∧
       (let x := parseCmd (.ring 1) (Memory.read s.core.host.mem (0x1000 + 32 * 63) 32)
        ringCmdOk 1 x.1 x.2 = true ∧ badHandle 0 x.1 x.2 = none)) ∧
    (let y := (withQ fun y => { y with occ := 63, reserved := 1 }).core.q 1
     2 ^ y.cqLog ≤ y.occ + y.reserved) := by decide +kernel
/-- An INVOKE at SQ_HEAD of a program of one HALT. -/
theorem test_fetch_invoke :
    let s := withQ (fun y => { y with sqTail := 1, sqBase := 0x1000 }) (withMem [(0, 2, 13)])
    let c := { s.core with programs := [prog0 [(0x000C, cmd i0 [])] []] }
    let x := parseCmd (.ring 1) (Memory.read c.host.mem 0x1000 32)
    let k := c.setQ 1 ((c.q 1).accepted x.1 x.2)
    c.mayFetch 1 = true ∧ x.1 = 13 ∧ ringCmdOk 1 x.1 x.2 = true ∧ badHandle 0 x.1 x.2 = none ∧
      (k.atHand 0 13 x.2).any (fun e => match k.gate e, k.progOf e.part (e.word 0) with
        | .ok _, .ok _ => true
        | _, _ => false) = true := by decide +kernel
/-- A completion at the last entry of the ring, which wraps, and at the first. -/
theorem test_completion_conditions :
    (let k := (withQ fun y => { y with cqBase := 0x1000, cqTail := 63 }).core
     k.mastering (k.q 1).func = true ∧ k.host.uncovered 0 true (0x1000 + 32 * 63) 32 = none ∧ (63 + 1) % 2 ^ (k.q 1).cqLog = 0) ∧
    (let k := s0.core; k.host.uncovered 0 true 0 32 = none ∧ (0 + 1) % 2 ^ (k.q 1).cqLog ≠ 0) := by decide +kernel

/-! ### The host interface -/

def withHost (f : HostIf → HostIf) (s : State := s0) : State := { s with core := s.core.updHost f }
def withFn (n : Nat) (f : Fn → Fn) (s : State := s0) : State := { s with core := s.core.updFn n f }
def withRun (r : Run) (s : State := s0) : State := { s with core := { s.core with runs := [r] } }
/-- A read of run 0 with tag 3. -/
def withRead (r : Run) (q p : Bool := false) (s : State := s0) : State :=
  withRun r (withHost (fun h => { h with reads := [{ fn := 0, tag := 3, run := 0, quarantine := q, poisoned := p }] }) s)

theorem test_read_conditions :
    ((withRead { reads := 1 }).core.rd? 0 3).isSome = true ∧
    ((withRead { reads := 1 }).core.run? 0).any (fun r => ({ r with reads := r.reads - 1 } : Run).done) = true ∧
    ((withRead { reads := 2 }).core.run? 0).any (fun r => !({ r with reads := r.reads - 1 } : Run).done) = true ∧
    ((withRead {} true).core.rd? 0 3).any (fun d => d.quarantine && !d.poisoned) = true ∧
    ((withRead {} true true).core.rd? 0 3).any (fun d => d.quarantine && d.poisoned) = true := by decide +kernel
theorem test_mastering_conditions :
    s0.core.mastering 0 = true ∧ s0.core.host.linkUp = true ∧
    (let f := (withFn 0 fun x => { x with bme := false }).core.fn 0; f.d3 = false ∧ f.mse = true ∧ f.woken = false ∧ f.flr = false ∧ f.bme = false) ∧
    (let f := (withFn 0 fun x => { x with d3 := true }).core.fn 0; f.bme = true ∧ f.mse = true ∧ f.flr = false) ∧
    (let y := (withQ fun y => { y with state := .paused }).core.q 1; y.func = 0 ∧ y.state = .paused ∧ y.pause = false) ∧
    (let h := (withHost fun h => { h with held := [{ fn := 0, queue := 1, addr := 0x1000, data := [1, 2] }] }).core.host
     h.held.all (fun w => h.uncovered 0 true w.addr w.data.length == none) = true) := by
  decide +kernel
theorem test_reset_conditions :
    ((withFn 16 fun x => { x with flr := true }).core.fn 16).flr = true ∧ ((withQ fun y => { y with func := 16 }).core.q 1).func = 16 ∧
    s0.core.mstate ≠ .off ∧ trainOk 6 16 = true ∧ trainOk 1 4 = true ∧ s0.core.host.perst = false ∧ s0.mod.inReset = false ∧
    (withHost fun h => { h with perst := true }).core.host.perst = true := by decide +kernel
theorem test_message_conditions :
    (s0.core.fn 0).msixEn = true ∧ (s0.core.fn 0).fnMask = false ∧
    (let s := withHost fun h => { h with vecs := [(vecKey 0 2047, { masked := false, delayed := true, hold := true })] }
     (s.core.vec 0 2047).delayed = true ∧ (s.core.vec 0 2047).masked = false) ∧
    (let s := withHost fun h => { h with vecs := [(vecKey 0 0, { pending := true })] }
     (s.core.vec 0 0).pending = true ∧ (s.core.vec 0 0).hold = false ∧ (s.core.vec 0 0).delayed = false ∧ 0 < vecCount 0) := by
  decide +kernel
/-- Forms that are discarded, HIF_QSIZE of both kinds of queue, and both sides of HIF_INTAKE's range. -/
theorem test_register_forms :
    (4 % 4 = 0 ∧ 0xF % 16 = 15) ∧ 2 % 4 ≠ 0 ∧ 0x7F % 16 = 15 ∧ 0xF7 % 16 ≠ 15 ∧ 0xF7 / 16 % 16 = 15 ∧
    ((withQ fun y => { y with state := .disabled }).core.q 1).state = .disabled ∧ (s0.core.q 1).state ≠ .disabled ∧
    s0.core.ownQ 0 1 = some 1 ∧ 4 ≤ 32 % 64 ∧ 32 % 64 ≤ 32 ∧ 32 < 33 % 64 ∧ 3 % 64 < 4 := by decide +kernel

/-! ### Tick, ledger, module -/

def withTick (f : Tick → Tick) (s : State := s0) : State := { s with tick := f s.tick }
def withLed (f : Ledger → Ledger) (s : State := s0) : State := { s with led := f s.led }
def withLink (f : Link → Link) (s : State := s0) : State := { s with link := f s.link }
def withMend (f : Mend → Mend) (s : State := s0) : State := { s with mend := f s.mend }
def withDram (f : Dram → Dram) (s : State := s0) : State := { s with dram := f s.dram }
def withMod (f : Mod → Mod) (s : State := s0) : State := { s with mod := f s.mod }

theorem test_boundary_conditions :
    mlive s0.core.mstate = true ∧ s0.tick.waits = false ∧ s0.tick.heard = none ∧ s0.link.pending = none ∧ s0.link.masterDue = false ∧
    (let s := withTick fun t => { t with source := 1, due := true }; s.tick.waits = true ∧ s.tick.due = true) ∧
    (withTick fun t => { t with change := some { source := 0, period := 1000000, cutoff := 500, hem := 120, effTick := 1 } }).tick.change.any
      (fun x => decide (x.effTick ≤ 0 + 1)) = true ∧
    (let t := (withTick fun t => { t with
        follower := true, source := 2, change := some { source := 0, period := 1000000, cutoff := 500, hem := 120, effTick := 1 } }).tick
     t.follower = true ∧ t.waits = false) := by decide +kernel
/-- Edges 5 µs before and after the expected instant, and one ns earlier than that; a lost lock with eight good edges. -/
theorem test_edge_conditions :
    (let s := withTick fun t => { t with source := 1 }
     s.tick.source = 1 ∧ s.tick.locked = true ∧ s.tick.due = false ∧ s.tick.period ≤ 16661667 + 5000 ∧
       16671667 ≤ s.tick.period + 5000 ∧ 16661666 + 5000 < s.tick.period) ∧
    (let s := withTick fun t => { t with source := 1, locked := false, goodEdges := 8 }
     s.tick.locked = false ∧ 8 ≤ s.tick.goodEdges ∧ s.tick.period < 16666668 ∧ 16666668 < 2 * s.tick.period) := by decide +kernel
/-- The corners of R29, and one value past each; a follower; source 2 with a chain. -/
theorem test_tickSet_conditions :
    tickOk 1000000 500 120 = true ∧ tickOk 100000000 5000 2000 = true ∧ tickOk 999999 500 120 = false ∧
    tickOk 1000000 501 120 = false ∧ tickOk 1000000 500 251 = false ∧ s0.tick.follower = false ∧
    (withTick fun t => { t with follower := true }).tick.follower = true ∧ (withLink fun l => { l with formed := true }).link.formed = true ∧
    (let s := atRing 0 0x8009 (cmd r0 [0, 0]) s0
     (s.core.atHand 0 0x8009 (cmd r0 [0, 0])).any (fun e => (match s.core.gate e with | .ok _ => true | .error _ => false) &&
       !tickOk (e.word 0) (e.word 1 % 65536) (e.word 1 / 65536))) = true := by decide +kernel
/-- 40 W and the strap contract of 75 W are taken; 39 and 76 not; sub-operation 1. -/
theorem test_ledgerSet_conditions :
    admin 0x8008 ledgerSet [40, 0, 0] = true ∧ admin 0x8008 ledgerSet [75, 0, 0] = true ∧ admin 0x8008 ledgerSet [39, 0, 0] = false ∧
    admin 0x8008 ledgerSet [76, 0, 0] = false ∧ strapW s0.led.strap = 75 ∧ admin 0x8008 ledgerSet [] s0 1 = true := by decide +kernel
/-- The invariants hold in reset. -/
theorem test_reset_invariants :
    State.reset.led.contractOk ∧ State.reset.led.coefOk ∧ State.reset.fw.oneInForce ∧ State.reset.led.level ≤ 4 ∧
    State.reset.led.levelMax ≤ 4 := by
  refine ⟨⟨by decide, by decide, nofun⟩, ?_, ?_, by decide, by decide⟩
  · intro k x h
    cases h
  · rintro k ⟨-, h⟩
    have : (State.reset.fw.image k).b.state = .invalid := by
      simp only [Fw.image, State.reset, State.factoryImages, List.map_cons, List.map_nil, Tab.get]
      split_ifs <;> rfl
    rw [this] at h
    exact absurd h (by decide)
theorem test_strap_conditions :
    State.reset.core.mstate = .boot ∧ State.reset.mod.inReset = true ∧ State.reset.mod.pwrgd = true ∧ State.reset.fw.dirUsable = true ∧
    ({ State.reset.fw with dirA := none, dirB := none } : Fw).dirUsable = false := by decide +kernel
/-- The two directory copies are written in turn (R457). -/
theorem test_directory_turns :
    (State.reset.fw.writeDir.dirA, State.reset.fw.writeDir.dirB) = (some 2, some 1) ∧
    (State.reset.fw.writeDir.writeDir.dirA, State.reset.fw.writeDir.writeDir.dirB) = (some 2, some 3) := by decide +kernel
theorem test_cutOff_conditions :
    s0.tick.cutPassed = false ∧ s0.tick.sealed = false ∧ (withLed fun l => { l with vbLast := some 12000 }).led.vbLast = some 12000 := by
  decide +kernel
/-- Budgets (R54): 75 W over 16.666667 ms at 12 V and at 11.4 V; above 12 V nothing more. -/
theorem test_budgets : budgetOf 75 12000 16666667 = 1250000 ∧ budgetOf 75 11400 16666667 = 1187500 ∧ budgetOf 75 13000 16666667 = 1250000 := by
  decide
theorem test_supply_conditions :
    (withM .off).core.mstate = .off ∧ s0.mod.thermtrip = false ∧
    (let s := withMod (fun m => { m with thermtrip := true }) (withM .off); s.core.mstate = .off ∧ s.mod.thermtrip = true) ∧
    (let s := withM .boot; s.core.mstate = .boot ∧ s.mod.started = true) ∧ 
    (withMod fun m => { m with coolTicks := 1, tempAlert := true }).mod.coolTicks = 1 := by decide +kernel
theorem test_bus_conditions :
    (withMod fun m => { m with smbus := some 16, eidSmbus := some 9 }).mctpUp .smbus = true ∧ s0.mctpUp .vdm = true := by decide +kernel

/-! ### Steps -/

/-- A step of a vector unit, and a run of queue 1 that has it left. -/
def step0 : PStep := { id := 1, eng := .vector 0, dur := 1000, solo := 1000 }
def run0 : Run := { src := .ring 1, op := 0x1011, queue := 1, n := 0, steps := [step0] }
/-- Its place in the sheaf in force, and that sheaf. -/
def slot0 (p : PStep) : PSlot := { work := .ring 1 0, step := p, start := 0, part := 0, lc := false, pass := 4, cost := 0 }
def withSheaf (p : PStep) (s : State) : State := { s with tick := { s.tick with sheaf := { slots := [slot0 p] } } }
/-- Run 0 may start its step at a time, with nothing to read anew. -/
def mayRun (r : Run) (p : PStep) (t : Nat) (s : State) : Bool :=
  let s := withSheaf p s
  s.core.run? 0 == some r && s.pick r p.eng t == some (p, some (slot0 p)) && s.mayBegin r p.eng t p (some (slot0 p)) &&
    (s.core.firsts r).all fun x => !s.core.stale s.tick.count x

/-- A host transfer of 4 bytes at 0x1000, planned in its queue. -/
def dma0 : PStep := { step0 with eng := .hostDma }
def xfer : Run := { run0 with op := 0x6003, cmd := cmd r1 [1, 0x1000, 0, 0, 4], bytes := 4, steps := [dma0] }

/-- A step that touches no host memory, in the hem with its end 1 ns before the boundary; a device read; one whose
function does not master the bus; one outside the windows. -/
theorem test_stepStart_conditions :
    (let s := withRun run0
     mayRun run0 step0 16665666 s = true ∧ s.core.access run0 = .free ∧ s.tick.mayStart (.vector 0) 1000 16665667 = false) ∧
    (let s := withRun xfer; mayRun xfer dma0 0 s = true ∧ s.core.access xfer = .read 1) ∧
    (let s := withFn 0 (fun x => { x with bme := false }) (withRun xfer); mayRun xfer dma0 0 s = true ∧ s.core.access xfer = .wait) ∧
    (let s := withHost (fun h => { h with windows := [] }) (withRun xfer)
     mayRun xfer dma0 0 s = true ∧ s.core.access xfer = .violation 0x1000 ∧ (s.core.q 1).state ≠ .disabled) := by decide +kernel
/-- A run that is no weight-sharing run, and one of whose members none is left: it ends at its start. -/
theorem test_share_conditions :
    run0.post = .none ∧
    (let r : Run := { run0 with post := .share [(.inst 0 0, 2)] }
     let s := withRun r
     s.core.run? 0 = some r ∧ s.fed r = true ∧ (s.shareStart r).core.run? 0 = none) := by decide +kernel
/-- A step with one left to start, and the last of all, at 0 and at 100 µs; two outputs to different buffers; a step of arrays. -/
theorem test_stepEnd_conditions :
    let a : Active := { eng := .vector 0, step := step0, start := 0 }
    let b : Active := { eng := .arrays 0 0 1 none, step := { step0 with eng := .arrays 0 0 1 none }, start := -1 }
    (let r : Run := { run0 with active := [a] }
     (withRun r).core.runs.find? (·.id == 0) = some r ∧ r.active.find? (·.eng == .vector 0) = some a ∧ r.dead = false ∧
       (withRun r).core.badTags 0 r a.step = [] ∧ mlive (withRun r).core.mstate = true ∧ r.post = .none ∧ r.steps ≠ [] ∧ a.start ≤ ((100000 : Nat) : Int) ∧ ((100000 : Nat) : Int) ≤ a.start + 100000) ∧
    (let r : Run := { run0 with active := [a, b], steps := [] }
     r.active.find? (·.eng == .arrays 0 0 1 none) = some b ∧ r.active.erase b ≠ [] ∧ b.start ≤ ((0 : Nat) : Int) ∧
       ((0 : Nat) : Int) ≤ b.start + 100000) ∧
    (let o (n : Nat) : Out := { part := 0, buf := n, key := .shared, data := [] }
     let r : Run := { run0 with active := [a], steps := [], outs := [o 1, o 2] }
     (withRun r).core.runs.find? (·.id == 0) = some r ∧ r.reads = 0 ∧ r.share = none ∧ r.waits = false ∧ r.status = .ok ∧
       r.outs.Pairwise (fun a b => ¬ (a.part = b.part ∧ a.buf = b.buf ∧ a.key = b.key))) := by decide +kernel

/-- Scale block 1 of a tensor of 17 rows carries tag 0: a step that reads it finds it. -/
theorem test_wrong_tag :
    let ds : List Desc := [{ desc 1 5 [16, 17] with group := 1, scaleH := 1 }, desc 2 0x10 [4096], desc 3 0xD [16, 17]]
    let ws := [0, 2]
    let p : PStep := { step0 with tile := some { row := 0, rows := 17, col := 0, pos := 0, len := 1, kb := 0 } }
    let r : Run := { run0 with
      src := .inst 0 0, op := 0x3002, cmd := cmd i0 ws, todo := some { seq := 0, idx := 0, scalars := [] }, status := .scaleMisaligned
      active := [{ eng := .vector 0, step := p, start := 0 }] }
    (withRun r (atInst 0x3002 (cmd i0 ws) ds)).core.badTags 0 r p = [0] := by decide +kernel

/-- The body of a row stops: with a status, or as a violation. -/
def stops (q op : Nat) (body : Env → Core → Except Stop (Core × Option Run)) (ws : List Nat) (s : State) : Option Stop :=
  let c := cmd (.ring q) ws
  let s := atRing q op c s
  match s.core.atHand s.tick.count op c with
  | none => none
  | some e =>
    match s.core.gate e, body e s.core with
    | .ok _, .error x => some x
    | _, _ => none
/-- Buffer 1 does not exist; a handle of partition 1 is a violation of kind 1. -/
theorem test_refusals : stops 1 0x6002 releaseBuf [1] s0 = some (.fail .malformed none) ∧
    stops 1 0x6002 releaseBuf [handleOf 1 1] s0 = some (.violation 1 (handleOf 1 1)) := by decide +kernel

/-- A command that sees the machine stops at its rules: a period of 999,999 ns. -/
theorem test_machine_refusals :
    (let c := cmd r0 [999999, 120 * 65536 + 500, 0, 0]
     let s := atRing 0 0x8009 c
     (s.core.atHand 0 0x8009 c).any fun e => match s.core.gate e, tickSet s e with
      | .ok _, .error (.fail st _) => st != .zeroShape
      | _, _ => false) = true := by decide +kernel
/-- All 2,048 entries of Control's are in use, and none. -/
theorem test_control_entries :
    (withQ fun y => { y with waiting := List.replicate 2048 (0, 0x7004, 0) }).core.controlFull = true ∧ s0.core.controlFull = false := by
  decide +kernel
theorem test_load_conditions : ((withPart fun p => { p with state := .loading }).core.part 0).state = .loading := by decide

/-! ### Streams, caches, adapters -/

/-- A feed fits; one that waits behind a full buffer of a bound stream passes its checks; it is noted, and fits later. -/
theorem test_feed_conditions :
    (let c := cmd r1 [0, 0x1000, 0, 4]
     let at1 (x : Ctx) : State := atRing 1 0x4002 c (withCtx x)
     acts 0x4002 (feedBody {}) c (at1 ctx0) = true ∧
     (let s := at1 { ctx0 with fill := 262144 }
      acts 0x4002 (fun e c => do feedChecks e c; .ok (c, none)) c s = true ∧ s.core.feedFit 0 4 = .waits) ∧
     (let s := at1 { ctx0 with waitFeed := some (c, {}) }
      (s.core.ctx 0).waitFeed = some (c, {}) ∧ s.core.feedFit 0 4 ≠ .waits ∧ acts 0x4002 (feedBody {}) c (at1 ctx0) = true)) := by
  decide +kernel
theorem test_resync_conditions : (withCtx ctx0).core.decActive 0 = false := by decide +kernel
/-- One sample is held: BEGIN opens an epoch of one. -/
theorem test_epoch_conditions :
    (let s := cached s0
     let x : Slot :=
       { idx := 0, codes := [], scales := [], label := [], ctx := 0, dnum := 0, tick := 0, put := 1, pseudo := false
         labelled := false, damaged := false, bad := false, inst := 0, target := 0 }
     let s := { s with core := s.core.updCache 0 0 fun k => { k with slots := [x] } }
     ring 1 0x5002 epochBegin [0, 7] s 1 = true ∧ ((s.core.openEpoch 0 0 0 7).cache 0 0).n ≠ 0) ∧
    (perm [1, 2, 3, 4] 1 0 < 1) := by decide +kernel

/-! ### Mending and DRAM -/

theorem test_mending_conditions :
    (let m := (withMend fun m => { m with retiring := [15] }).mend; 15 ∈ m.retiring ∧ 14 ∉ m.retiring) ∧
    14 ∉ s0.core.retired ∧ s0.core.mstate ≠ .quiet ∧ s0.dram.sr = false ∧ (withM .quiet).core.mstate = .quiet ∧
    (let m := (withMend fun m => { m with testing := some (15, 65) }).mend
     m.testing = some (15, 65) ∧ m.found = none ∧ (15, 65) ∉ m.ahead ∧ (m.arr 15 65).skew = false ∧ (m.arr 15 65).bad = []) ∧
    (let m := (withMend fun m => { m with testing := some (3, 7), ahead := [(3, 7)] }).mend
     m.testing = some (3, 7) ∧ m.found = none ∧ (3, 7) ∈ m.ahead) ∧
    14 ∉ (s0.mend.retiring ++ s0.core.retired) ∧ (withDram fun d => { d with sr := true }).dram.sr = true ∧
    { s0.core with retired := [15] }.retired.contains 15 = true ∧ slotAt (slotBase 1) = some (1, false) ∧ slotAt (slotBase 1 + slotBlocks 1) = some (1, true) ∧
    (let i := (withImage { state := .active } { state := .valid }).fw.image 2
     (i.slot true).state = .valid ∧ (i.slot false).state.inForce = true) := by decide +kernel
/-- A self-test of array 0 of tiller 0 is free, and excluded while the tiller retires; a deferred one is there. -/
theorem test_activity_conditions :
    admin 0x8001 mendStart [0] s0 3 = true ∧ s0.excluded 3 0 = false ∧
    (let s := withMend fun m => { m with retiring := [0] }; admin 0x8001 mendStart [0] s 3 = true ∧ s.excluded 3 0 = true) ∧
    (let s := withMend fun m => { m with acts := [{ code := 3, target := 0, deferred := true }] }
     (s.mend.acts.find? fun y => y.code == 3 && y.target == 0 && y.deferred).isSome = true ∧ s.mend.targetOk s.core.retired 3 0 = true ∧
       s.excluded 3 0 = false) ∧
    (let s := withMend fun m => { m with acts := [{ code := 3, target := 0, deferred := true }], retiring := [0] }
     s.excluded 3 0 = true) := by decide +kernel

def rd0 : DramReq := { id := 1, port := 0, write := false, line := 5, bank := 3, deadline := none, be := 0, at_ := 0, run := none }
def withDrc (f : Drc → Drc) (s : State := s0) : State := withDram (fun d => { d with up := true, drcs := [(15, f {})] }) s
/-- A full read queue, a write to the read's line, an empty queue; a write queue of 63; a read that waits, one that has
been issued for a run, one bank of refresh. -/
theorem test_dram_conditions :
    (withDrc id).dram.ready 15 = true ∧
    128 ≤ ((withDrc fun d => { d with readQ := List.replicate 128 rd0 }).dram.drc 15).readQ.length ∧
    (let d := (withDrc fun d => { d with writeQ := [{ rd0 with write := true, id := 2 }] }).dram.drc 15
     d.readQ.length < 128 ∧ (d.writeQ.any fun w => w.line == 5) = true ∧ (d.writeQ.all fun w => w.line != 6) = true ∧
       (d.writeQ.find? (·.line == 5)).isSome = true) ∧
    ((withDrc fun d => { d with writeQ := List.replicate 63 { rd0 with write := true } }).dram.drc 15).writeQ.length < 64 ∧
    (let s := withDrc fun d => { d with readQ := [rd0] }
     (s.dram.drc 15).pick 3 0 = some rd0 ∧ s.dram.refresh = false ∧ ((s.dram.drc 15).readQ ++ (s.dram.drc 15).writeQ).find? (·.id == 1) = some rd0) ∧
    (let s := withDrc fun d => { d with writeQ := [{ rd0 with write := true }] }
     (s.dram.drc 15).pick 3 0 = some { rd0 with write := true } ∧ 1 ∉ (s.dram.drc 15).fills) ∧
    (let s := withRun run0 (withDrc fun d => { d with issued := [{ rd0 with run := some 0 }] })
     (s.dram.drc 15).issued.find? (·.id == 1) = some { rd0 with run := some 0 } ∧ s.core.run? 0 = some run0 ∧ run0.post = .none) ∧
    (withDram fun d => { d with refresh := true }).dram.refresh = true := by decide +kernel

/-! ### Links -/

/-- Port 5 is up after `f`. -/
def withPort (f : Port → Port := id) (s : State := s0) : State := withLink (fun l => l.updPort 5 fun p => f { p with state := 2 }) s
theorem test_port_conditions :
    s0.linkLive 5 = true ∧ s0.linkLive 6 = false ∧ (s0.link.port 5).state ≠ 2 ∧
    (let p := (withPort fun p => { p with state := 1, lanes := 0xFF }).link.port 5; p.state = 1 ∧ p.lanes = 0xFF) ∧
    (let p := (withPort fun p => { p with fails := 8 }).link.port 5; p.state = 2 ∧ 8 ≤ p.fails) ∧
    (let p := (withPort fun p => { p with fails := 7 }).link.port 5; p.fails < 8) ∧ withPort.portUp 5 = true ∧ withPort.portOpen 5 = true ∧
    (withPort.link.port 5).held = [] ∧ (withLink fun l => { l with formed := true }).link.formed = true := by decide +kernel
def win0 : LWin := { src := 2, unit := 0x10, base := 64, len := 2, seam := true, bulk := true, epoch := 3, from_ := 0 }
/-- Sixteen bytes at the end of a window of 16; one more is a violation; the epoch of the window and another one; a flit of
the expected SEQ and the next. -/
theorem test_message_windows :
    (let l := (withLink fun l => { l with windows := [(0, some win0)] }).link
     l.reach 9 1 2 0x10 0 0 16 = .within win0 ∧ l.reach 9 1 2 0x10 0 0 17 = .violation ∧ l.reach 9 2 2 0x10 0 1 8 = .within win0 ∧
       l.unitEpoch 0x10 win0 = 3) ∧ (0 = (s0.link.port 5).expSeq) ∧ 1 ≠ (s0.link.port 5).expSeq := by decide +kernel
theorem test_tick_flit_conditions :
    7 ∉ s0.link.seenTicks ∧ s0.link.master = 0 ∧ (let l := (withLink fun l => { l with seenTicks := [7], master := 4 }).link
      7 ∈ l.seenTicks ∧ 4 ≤ l.master) ∧
    (let r : Route := { dest := 5, prim := 5, alt := 0xFF, hops := 1, altHops := 0, ring := 0xFFFF }
     let s := withLink (fun l => { l with master := 3, strapped := [5], table := { id := 9, routes := [r] } })
        (withTick fun t => { t with follower := true, holdover := 4 })
     s.tick.follower = true ∧ 4 ≤ s.tick.holdover ∧ s.link.rerouted = false ∧ lowest (s.link.candidates (some s.link.master)) = 5) ∧
    (withLink fun l => { l with rerouted := true }).link.rerouted = true := by decide +kernel
/-- A sent step message and its run; a request that a member grants and one of more tillers than there are. -/
theorem test_reply_conditions :
    (let x : Sent := { id := 1, port := 5, what := .run 0, tick := 0 }
     let s := withLink (fun l => { l with sent := [x] }) (withTick (fun t => { t with count := 2 }) (withRun run0))
     (s.link.sent.find? fun y => y.id == 1) = some x ∧ s.core.run? 0 = some run0 ∧
       (s.link.sent.find? fun y => y.id == 1 && decide (y.tick + 1 < s.tick.count)).isSome = true) ∧
    ((withPart fun p => { p with lead := some (2, 1) }).takeGrant
      { id := 1, lead := 2, part := 1, tillers := 16, granary := 64, dram := 0 }).isSome = true ∧
    (withPart fun p => { p with lead := some (2, 1) }).takeGrant { id := 1, lead := 2, part := 1, tillers := 17, granary := 0, dram := 0 } = none ∧
    ((withPart fun p => { p with creating := some (cmd r0 [], [0]) }).core.part 0).creating = some (cmd r0 [], [0]) ∧
    (withPart fun p => { p with lead := some (2, 1) }).core.memberSlot 2 1 = some 0 := by decide +kernel
/-- Two steps that a lead places here (R270), the second on a tiller that its partition does not have: the first alone is planned, when
its seam is in. -/
theorem test_member_steps :
    (let s := withLink (fun l => { l with
        steps := [(2, 1, [{ eng := .vector 3, start := 5000, dur := 1000, seam := 6000 }, { eng := .vector 4, start := 0, dur := 9 }])] })
        (withPart fun p => { p with lead := some (2, 1), tillers := [3] })
     let x : Site := { s := s, b := {}, tick := 1, perio := 16666667, hemNs := 1000000, peff := 0, floor := 0 }
     (x.each 2 x.farJobs { c := s.core }).sheaf.slots.map fun q => (q.work, q.step.eng, q.start, q.stop)) =
      [(.far 0 1 0, .vector 3, 6000, 7000)] := by decide +kernel

/-! ### Firmware and management -/

/-- A notice with the digest of the VALID slot is good, one with another digest not. -/
theorem test_activation_conditions :
    (let s := withImage { state := .active } { state := .valid }
     (s.fw.refuses 4).isNone = true ∧ maskKinds 4 = [2] ∧ (s.fw.refuses 2).isNone = false) ∧
    (let a : Activate := { cmd := none, origin := 2, mask := 4, effTick := 9, window := 600, chain := true, accepted := [] }
     let f : Fw := { s0.fw with acts := [a] }
     (f.acts.find? fun x => x.origin == 2 && (2 : Nat) != 0 && x.mask == 4) = some a ∧
       ({ s0.fw with acts := [{ a with origin := 0, agreed := false }] } : Fw).asking = some { a with origin := 0, agreed := false }) ∧
    s0.fw.asking = none := by decide +kernel
theorem test_trial_conditions :
    (let i := (withImage { state := .fallback } { state := .trial }).fw.image 2
     i.left = 0 ∧ (i.slot true).state = .trial ∧ (i.slot false).state = .fallback ∧ i.inTrial = true) ∧
    cpuKind 0 = some 1 ∧ cpuKind 2 = some 2 ∧ (s0.fw.image 1).inTrial = false ∧ 60 ≤ 60 := by decide +kernel
/-- Each mailbox operation on kind 2 in RECOVERY, with a window block of zeros and its CRC-32C. -/
theorem test_recovery_conditions :
    (withM .recovery).core.mstate = .recovery ∧
    (let v : Word := 0x12000000; rcvOp v = 1 ∧ rcvKind v = 2) ∧ (let v : Word := 0x22000000; rcvOp v = 2 ∧ rcvKind v = 2 ∧
      rcvFirst v + rcvCount v ≤ slotBlocks 2) ∧ rcvOp 0x32000000 = 3 ∧ rcvOp 0x42000000 = 4 ∧
    ((withImage {} {}).fw.image 2).sched = none ∧ ((withImage {} { state := .staging }).fw.image 2).staging = some true ∧
    ({ state := .staging, factory := true } : ISlot).verify 2 0 [] = .good ∧
    ((withImage {} { state := .valid }).fw.image 2).find .valid = some true ∧ ((withImage {} {}).fw.image 2).find .valid = none := by
  decide +kernel
/-- A window block and its own CRC. -/
theorem test_recovery_window : ∃ f : Fw, ∀ x ∈ f.windowBlocks 1, crc32c x.1 = x.2 := by
  refine ⟨{ crcs := [(0, crc32c (Memory.read [] (4096 * 0) 4096))] }, ?_⟩
  intro x hx
  simp only [Fw.windowBlocks, List.range_succ, List.range_zero, List.nil_append, List.map_cons, List.map_nil,
    List.mem_singleton] at hx
  rw [hx]
  simp only [Tab.get, if_true]
/-- The check value of CRC-32C over the digits 1 to 9, and the first bytes of the SHA-256 digest of the empty message. -/
theorem test_hashes : crc32c ((List.range 9).map fun i => BitVec.ofNat 8 (0x31 + i)) = 0xE3069283 ∧
    (sha256 []).take 4 = [0xE3, 0xB0, 0xC4, 0x42] := by decide +kernel
theorem test_slots_in_force : State.reset.fw.oneInForce := test_reset_invariants.2.2.1
theorem test_management_conditions :
    s0.doeTakes 0 [] = true ∧ s0.doeTakes 1 (List.replicate 16 0) = true ∧
    (let s := withMod fun m => { m with doeBusy := true, doeObj := some (0, []) }; s.doeHolds 0 = true ∧ s.mod.doeBusy = true) ∧
    (withMod fun m => { m with doeBusy := true, doeObj := some (1, []) }).spdmUp .doe = true ∧ s0.spdmUp .vdm = true ∧
    (let m := (withMod fun m => { m with spdmVdm := { version := true, caps := true, algs := true } }).mod
     (m.spdm .vdm).version = true ∧ (m.spdm .vdm).caps = true ∧ (m.spdm .vdm).algs = true) := by decide +kernel
/-- QUIET entry with a run that drains later; CHAIN_FORM back to no chain; FW_STAGE BEGIN and ABORT. -/
theorem test_admin_conditions :
    admin 0x800B quiet [1] (withM .ready (withRun { run0 with admitted := true })) = true ∧
    (withRun { run0 with admitted := true }).drained = false ∧ s0.drained = true ∧ admin 0x800A chainForm [] s0 1 = true ∧
    admin 0x8003 fwStage [6] (withImage {} {}) = true ∧ admin 0x8003 fwStage [2] (withImage {} { state := .staging }) 3 = true ∧
    ((withImage {} {}).fw.image 2).inTrial = false := by decide +kernel

/-! ### Planned times that the spec works out -/

/-- The longest array step (R203): a quad-mode strip of 256 rows through 32 darned arrays takes 1,180 ac. -/
theorem test_longest_array_step : (chainOffs (fun _ => 1) 32 0 0).getLastD 0 + stripAc 3 256 false 1 = 1180 := by decide +kernel
/-- The transpose of R182: 655,360 bytes take 20.608 µs, in one step. -/
theorem test_transpose_time :
    ((moveSteps [0] 0 655360 128 32 []).map (·.dur)) = [20608] := by decide +kernel
/-- A granary port (R497): 32 loads of 32 bytes per ac share the ac, a 33rd waits until they have ended. -/
theorem test_port_full :
    portSlot (List.replicate 31 (0, 0, 32)) 0 32 0 = 0 ∧ portSlot (List.replicate 32 (0, 0, 32)) 0 32 0 = 32 := by decide +kernel

/-! ### Ill-formed commands, and words -/

/-- One ill-formed command for each check, refused. -/
theorem test_ill_formed :
    ([Instr.nop (cmd (.ring 4096) []), .nop (cmd (.inst (2 ^ 32) 0) []), .nop (cmd (.inst 0 65536) []),
      .nop { cmd i0 [] with rd := .timeout }, .doorbellSq 17 0 0, .doorbellSq 0 4096 0, .doorbellSq 1 128 0, .queueDrained 4096,
      .msixUnmask 0 2048, .msixUnmask 1 64, .hostReadCompletion 0 16384, .commandFetch 4096 .ok, .hostReadErrorCompletion 0 0 .ok,
      .hostReadErrorCompletion 0 0 .timeout, .vfFlr 0, .pfFlr, .registerWrite 0 1 0 4 0xF 0, .registerWrite 0 0 0 0 0 0,
      .registerWrite 0 0 0 4 16 0, .pcieRetrain 7 16, .perstDeassert 6 2].map Instr.wf) =
      List.replicate 15 false ++ [true] ++ List.replicate 5 false ∧
    ([Instr.streamFeed (cmd r1 []) { bad := some 2 }, .streamFeed (cmd r1 []) { ctus := 0 }, .stepStart 0 (.vector 16) 0,
      .stepStart 0 (.dec 8) 0, .stepStart 0 (.shp 4) 0, .stepStart 0 (.cle 2) 0, .stepStart 0 (.link 6) 0,
      .stepEnd (0, .hostDma) 0 0 (.stop 8 0) {}, .stepEnd (0, .hostDma) 0 0 (.dataLost .dram 256 none) {}, .stepEnd (0, .hostDma) 0 0 (.parity 0 66) {},
      .tickBoundary { planLost := [.vector 16] }, .tickBoundary { revoke := [256] },
      .tickBoundary { badMoves := [(.granary, { part := 17, buf := 1, copy := none, line := 0 })] }, .streamFeedResume 4096, .doeRequest 256 [], .doeDiscovery 256, .getCertificate .doe 16 0 0,
      .challenge .doe 0 [], .getMeasurements .doe 0 [0], .spdmSessionRequest .doe 256, .setEndpointId .vdm 256,
      .mctpControl .vdm 256, .recoveryDownloadMessage .vdm 0 (2 ^ 20) [0], .recoveryBegin 0, .recoveryCommit 0x47000000,
      .smbusArp 128].any Instr.wf) = false ∧
    ([Instr.dramRequestEntry 16 rd0, .dramRequestEntry 0 { rd0 with line := 2 ^ 31 }, .dramBankIssue 16 0 0,
      .dramReadReturn 0 0 0 .clean .clean (some { part := 17, buf := 0, copy := none, line := 0 }),
      .sramPatrolScrub (.scratchpad 16) 0 0 none, .arraySelfTest [33], .deferredActivityStart 10 0, .deferredActivityStart 0 0,
      .portTraining 6 true 0, .portTraining 0 true 256, .memberStepList 0 0 0 [], .memberStepList 0 1 16 [],
      .memberStepList 0 1 15 [{ eng := .dec 0, start := 0, dur := 1 }], .grantTimeout 16,
      .activateCancel 0 0xFFFF 0, .activateCancel 0 1 128, .trialWindowExpiry 7, .processorTrap 6, .moduleResetEnd { pwrSel := 4 } true,
      .controlWordReceive 0 [0] 0].any Instr.wf) = false := by decide +kernel
/-- And well-formed ones are taken. -/
theorem test_well_formed :
    ([Instr.nop (cmd r1 []), .doorbellSq 1 127 0, .registerWrite 0 0 0 8 0xFF 0, .pcieRetrain 6 16, .recoveryBegin 0x16000000,
      .dramRequestEntry 15 rd0, .portTraining 5 true 255, .trialWindowExpiry 6, .controlWordReceive 5 [0, 0, 0, 0] 0].all Instr.wf) = true := by
  decide +kernel
/-- The table gives no row any bits: no word spells a command, and the state is left as it is. -/
theorem test_no_word : decodeTableWord 0 0 = none ∧ decodeTableWord 32 0xFFFFFFFF = none := by decide

end Sys2Proof.Tests
end

section
/-! SUPPORT. Register accesses of the PF: which of them take effect (R377), where an access to a queue's entry or to a host
window entry goes, and what a register reads back after it was written (Tables 0-3, 4-4, 16-4, 16-6, 16-8). -/

namespace Sys2Proof.Machine

/-! ### Bits -/

theorem bitAt_eq_testBit (k n : Nat) : bitAt k n = n.testBit k := by
  rw [Nat.testBit_eq_decide_div_mod_eq, bitAt, Nat.shiftRight_eq_div_pow, beq_eq_decide]

/-- No bit borrows from the next one, so W1C shifts down with its operands. -/
theorem w1c_div_two (old v : Nat) : w1c old v / 2 = w1c (old / 2) (v / 2) := by
  have hdiv : (old &&& v) / 2 = old / 2 &&& v / 2 := Nat.and_div_two
  have hle : old / 2 &&& v / 2 ≤ old / 2 := Nat.and_le_left
  have hbit : (old &&& v) % 2 = 1 → old % 2 = 1 := fun h => (Nat.and_mod_two_eq_one.1 h).1
  unfold w1c
  omega

theorem w1c_mod_two (old v : Nat) : w1c old v % 2 = 1 ↔ old % 2 = 1 ∧ v % 2 ≠ 1 := by
  have hle : old &&& v ≤ old := Nat.and_le_left
  have hbit : (old &&& v) % 2 = 1 ↔ old % 2 = 1 ∧ v % 2 = 1 := Nat.and_mod_two_eq_one
  unfold w1c
  omega

/-- W1C bit by bit (Table 0-3): a bit stays set where the write holds 0. -/
theorem testBit_w1c (old v k : Nat) : (w1c old v).testBit k = (old.testBit k && !v.testBit k) := by
  induction k generalizing old v with
  | zero => simp only [Nat.testBit_zero, w1c_mod_two, Bool.decide_and, ne_eq, decide_not]
  | succ k ih => simp only [Nat.testBit_add_one, w1c_div_two, ih]

/-- A W1C register of `n` bits. -/
theorem bitAt_w1c_field {n k : Nat} (old v : Nat) (hk : k < n) :
    bitAt k (w1c old (v % 2 ^ n)) = (bitAt k old && !bitAt k v) := by
  simp [bitAt_eq_testBit, testBit_w1c, Nat.testBit_mod_two_pow, hk]

/-! ### The form of a write -/

/-- A form that R377 does not name is discarded. -/
theorem execRegisterWrite_ignored (fn bar off size be : Nat) (v : DWord) (s : State)
    (h : (size ≠ 4 ∧ size ≠ 8) ∨ (size = 4 ∧ (off % 4 ≠ 0 ∨ be % 16 ≠ 15)) ∨
      (size = 8 ∧ (off % 8 ≠ 0 ∨ (be % 16 ≠ 15 ∧ be / 16 % 16 ≠ 15)))) :
    execRegisterWrite fn bar off size be v s = .next s := by
  unfold execRegisterWrite
  rcases h with ⟨h4, h8⟩ | ⟨rfl, hoff | hbe⟩ | ⟨rfl, hoff | ⟨hlo, hhi⟩⟩
  · simp [h4, h8]
  · simp [hoff]
  · simp [hbe]
  · simp [hoff]
  · simp [hlo, hhi]

/-- An aligned write of one whole DWORD by the PF. -/
theorem exec_registerWrite_dword {bar off : Nat} {v : DWord} (s : State) (hoff : off % 4 = 0) (hv : v.toNat < 2 ^ 32) :
    exec (.registerWrite 0 bar off 4 0xF v) s = .next (s.write32 0 bar off v.toNat) := by
  have hlow : v.toNat % 2 ^ 32 = v.toNat := Nat.mod_eq_of_lt hv
  simp only [exec, execRegisterWrite, hoff, hlow]
  rfl

/-! ### The PF's BAR0 -/

/-- What `barOk` says of the PF (R373, R392). -/
theorem Core.barOk_pf {c : Core} (h : c.barOk 0 = true) :
    mlive c.mstate = true ∧ c.host.linkUp = true ∧ (c.fn 0).mse = true ∧ (c.fn 0).d3 = false := by
  simpa [Core.barOk, and_assoc] using h

/-- The PF owns a queue by its number only, through a BAR that answers (R77, R380). -/
theorem Core.ownQ_pf {c : Core} {slot q : Nat} (h : c.ownQ 0 slot = some q) :
    c.barOk 0 = true ∧ slot < 4096 ∧ q = slot := by
  obtain ⟨hslot, -⟩ := Option.filter_eq_some_iff.1 h
  cases hb : c.barOk 0 with
  | false => simp [Core.slotQ, hb] at hslot
  | true =>
    obtain ⟨hlt, rfl⟩ : slot < 4096 ∧ slot = q := by simpa [Core.slotQ, hb] using hslot
    exact ⟨rfl, hlt, rfl⟩

/-- Whether the BARs answer depends on these fields only. -/
theorem Core.barOk_congr {a b : Core} (hm : a.mstate = b.mstate) (hlink : a.host.linkUp = b.host.linkUp)
    (hfns : a.host.fns = b.host.fns) (hvf : a.host.vfEnable = b.host.vfEnable) (fn : Nat) : a.barOk fn = b.barOk fn := by
  simp only [Core.barOk, Core.fn, hm, hlink, hfns, hvf]

@[simp] theorem Core.barOk_updQ (c : Core) (q : Nat) (f : Queue → Queue) (fn : Nat) :
    (c.updQ q f).barOk fn = c.barOk fn :=
  Core.barOk_congr rfl rfl rfl rfl fn

@[simp] theorem Core.barOk_updHost_windows (c : Core) (w : HostIf → Tab Window) (fn : Nat) :
    (c.updHost fun h => { h with windows := w h }).barOk fn = c.barOk fn :=
  Core.barOk_congr rfl rfl rfl rfl fn

/-- Where a write of the PF goes while its BAR0 answers (Table 16-4). -/
theorem State.write32_pf {s : State} (h : s.core.barOk 0 = true) (off v : Nat) :
    s.write32 0 0 off v =
      if 0x100000 ≤ off ∧ off < 0x200000 then s.writeQueue 0 ((off - 0x100000) / 256) (off % 256) v
      else if 0x1000000 ≤ off ∧ off < 0x2000000 then s.writeDoorbell 0 ((off - 0x1000000) / 4096) (off % 4096) v
      else s.writePf off v := by
  obtain ⟨hlive, hlink, hmse, hd3⟩ := Core.barOk_pf h
  have hrec : s.core.mstate ≠ .recovery := fun e => by simp [e, mlive] at hlive
  simp [State.write32, hlink, hmse, hd3, hlive, hrec]

theorem State.read32_pf {s : State} (h : s.core.barOk 0 = true) (off : Nat) : s.read32 0 0 off = some (s.readPf off) := by
  obtain ⟨hlive, hlink, hmse, hd3⟩ := Core.barOk_pf h
  have hoff : s.core.mstate ≠ .off := fun e => by simp [e, mlive] at hlive
  simp [State.read32, hlink, hmse, hd3, hlive, hoff]

/-- Below the queue pages a write of the PF is one of the globals and windows. -/
theorem State.write32_pf_low {s : State} (h : s.core.barOk 0 = true) {off : Nat} (hoff : off < 0x100000) (v : Nat) :
    s.write32 0 0 off v = s.writePf off v := by
  rw [State.write32_pf h, if_neg (by omega), if_neg (by omega)]

/-! ### Queue entries -/

theorem State.write32_queue {s : State} (h : s.core.barOk 0 = true) {q r : Nat} (hq : q < 4096) (hr : r < 256) (v : Nat) :
    s.write32 0 0 (0x100000 + 256 * q + r) v = s.writeQueue 0 q r v := by
  have hdiv : (0x100000 + 256 * q + r - 0x100000) / 256 = q := by omega
  have hmod : (0x100000 + 256 * q + r) % 256 = r := by omega
  rw [State.write32_pf h, if_pos (by omega), hdiv, hmod]

/-- The queue pages of the PF's BAR0 (Table 16-4). -/
theorem State.readPf_queuePages (s : State) {off : Nat} (hlo : 0x100000 ≤ off) (hhi : off < 0x200000) :
    s.readPf off = (s.core.q ((off - 0x100000) / 256)).read true (off % 256) := by
  have habove : ∀ b ≤ 0x100000, ¬ off < b := fun b hb => by omega
  simp [State.readPf, habove, hlo, hhi]

theorem State.read32_queue {s : State} (h : s.core.barOk 0 = true) {q r : Nat} (hq : q < 4096) (hr : r < 256) :
    s.read32 0 0 (0x100000 + 256 * q + r) = some ((s.core.q q).read true r) := by
  have hdiv : (0x100000 + 256 * q + r - 0x100000) / 256 = q := by omega
  have hmod : (0x100000 + 256 * q + r) % 256 = r := by omega
  rw [State.read32_pf h, State.readPf_queuePages s (by omega) (by omega), hdiv, hmod]

/-- HIF_QSIZE reads back its three fields, the reserved bits as 0 (Table 4-4, R10). -/
theorem Queue.read_size_writeReg {e : Queue} (h : e.state = .disabled) (pf : Bool) (v : Nat) :
    (e.writeReg 4 v).read pf 4 = v / 2 ^ 24 % 16 * 2 ^ 24 + v / 2 ^ 16 % 32 * 2 ^ 16 + v % 32 := by
  simp [Queue.writeReg, Queue.read, regF, h]

/-- Outside DISABLED a queue's entry takes no write (R78). -/
theorem Queue.writeReg_of_not_disabled {e : Queue} (h : e.state ≠ .disabled) (r v : Nat) : e.writeReg r v = e := by
  simp [Queue.writeReg, h]

/-- The owner writes HIF_QSIZE: the entry of that queue changes as `writeReg` says, and nothing else. -/
theorem exec_registerWrite_qsize {q : Nat} {v : DWord} {s : State} (hown : s.core.ownQ 0 q = some q)
    (hv : v.toNat < 2 ^ 32) :
    exec (.registerWrite 0 0 (0x100000 + 256 * q + 4) 4 0xF v) s =
      .next { s with core := s.core.updQ q fun e => e.writeReg 4 v.toNat } := by
  obtain ⟨hbar, hq, -⟩ := Core.ownQ_pf hown
  rw [exec_registerWrite_dword s (by omega) hv, State.write32_queue hbar hq (by omega)]
  simp [State.writeQueue, hown]

/-! ### Globals and window entries -/

theorem State.writePf_intake (s : State) (v : Nat) :
    s.writePf 0x1004 v = if 4 ≤ v % 64 ∧ v % 64 ≤ 32 then
      { s with core := s.core.updHost fun h => { h with intake := v % 64 } } else s := by
  simp [State.writePf]

/-- HIF_ERR_CAUSE has five W1C bits (Table 16-6). -/
theorem State.writePf_errCause (s : State) (v : Nat) : s.writePf 0x1008 v =
    { s with core := s.core.updHost fun h => { h with errCause := w1c h.errCause (v % 2 ^ 5) } } := by
  simp [State.writePf]

/-- The host windows of the PF's BAR0 (Table 16-4). -/
theorem State.writePf_windows (s : State) {off : Nat} (hlo : 0x10000 ≤ off) (hhi : off < 0x12000) (v : Nat) :
    s.writePf off v = { s with core := s.core.updHost fun h =>
      { h with windows := Tab.upd {} h.windows ((off - 0x10000) / 32) fun w => w.put (off % 32) v } } := by
  have hne : ∀ g < 0x10000, off ≠ g := fun g hg => by omega
  simp [State.writePf, hne, hlo, hhi]

theorem State.readPf_windows (s : State) {off : Nat} (hlo : 0x10000 ≤ off) (hhi : off < 0x12000) :
    s.readPf off = (Tab.get {} s.core.host.windows ((off - 0x10000) / 32)).reg (off % 32) := by
  have habove : ∀ b ≤ 0x10000, ¬ off < b := fun b hb => by omega
  simp [State.readPf, habove, hlo, hhi]

/-- The low address word of a window entry reads back its page address (Table 16-8). -/
theorem Window.reg_put_base (w : Window) {v : Nat} (hv : v < 2 ^ 32) : (w.put 0 v).reg 0 = v / 4096 * 4096 := by
  simp only [Window.put, Window.reg, beq_self_eq_true, if_true]
  omega

/-- An aligned write below the queue pages. -/
theorem exec_registerWrite_pf {s : State} (h : s.core.barOk 0 = true) {off : Nat} {v : DWord} (h4 : off % 4 = 0)
    (hoff : off < 0x100000) (hv : v.toNat < 2 ^ 32) :
    exec (.registerWrite 0 0 off 4 0xF v) s = .next (s.writePf off v.toNat) := by
  rw [exec_registerWrite_dword s h4 hv, State.write32_pf_low h hoff]

theorem exec_registerWrite_windowBase {s : State} (h : s.core.barOk 0 = true) {k : Nat} (hk : k < 256) {v : DWord}
    (hv : v.toNat < 2 ^ 32) :
    exec (.registerWrite 0 0 (0x10000 + 32 * k) 4 0xF v) s = .next { s with core := s.core.updHost fun h =>
      { h with windows := Tab.upd {} h.windows k fun w => w.put 0 v.toNat } } := by
  have hdiv : (0x10000 + 32 * k - 0x10000) / 32 = k := by omega
  have hmod : (0x10000 + 32 * k) % 32 = 0 := by omega
  rw [exec_registerWrite_pf h (by omega) (by omega) hv, State.writePf_windows s (by omega) (by omega), hdiv, hmod]

theorem State.read32_windowBase {s : State} (h : s.core.barOk 0 = true) {k : Nat} (hk : k < 256) :
    s.read32 0 0 (0x10000 + 32 * k) = some ((Tab.get {} s.core.host.windows k).reg 0) := by
  have hdiv : (0x10000 + 32 * k - 0x10000) / 32 = k := by omega
  have hmod : (0x10000 + 32 * k) % 32 = 0 := by omega
  rw [State.read32_pf h, State.readPf_windows s (by omega) (by omega), hdiv, hmod]

end Sys2Proof.Machine

open Sys2Proof Sys2Proof.Machine

/-- Settles O26: each access goes to its register by the map of BAR0, and what the register then reads is a fact of its
fields. -/
theorem registerWritesReadBack : Obligations.RegisterWritesReadBack := by
  unfold Obligations.RegisterWritesReadBack
  refine ⟨execRegisterWrite_ignored, ?_, ?_⟩
  · intro q v s hown hv
    obtain ⟨hbar, hq, -⟩ := Core.ownQ_pf hown
    have hexec := exec_registerWrite_qsize hown hv
    refine ⟨fun hdis => ⟨_, hexec, ?_, fun j hj => Core.q_updQ_ne _ _ hj, rfl⟩, fun hrun => ⟨_, hexec, ?_⟩⟩
    · rw [State.read32_queue (by simpa using hbar) hq (by omega), Core.q_updQ_self, Queue.read_size_writeReg hdis]
    · rw [Core.q_updQ_self, Queue.writeReg_of_not_disabled hrun]
  · intro v s hbar hv
    have hcause := exec_registerWrite_pf hbar (off := 0x1008) rfl (by omega) hv
    rw [State.writePf_errCause] at hcause
    refine ⟨⟨_, hcause, fun b hb => bitAt_w1c_field _ _ hb, rfl⟩, fun hlo hhi => ?_, fun hout => ?_,
      fun k hk => ⟨_, exec_registerWrite_windowBase hbar hk hv, ?_, fun j hj => ?_⟩⟩
    · rw [exec_registerWrite_pf hbar rfl (by omega) hv, State.writePf_intake, if_pos ⟨hlo, hhi⟩]
    · rw [exec_registerWrite_pf hbar rfl (by omega) hv, State.writePf_intake, if_neg (by omega)]
    · rw [State.read32_windowBase (by simpa using hbar) hk]
      simp [Core.updHost, Window.reg_put_base _ hv]
    · simp [Core.updHost, Tab.get_upd, hj]

end

section
/-! SUPPORT. How a command that acts on the core or on the whole machine completes its start: it is finished, or no entry of
Control's is left for it (R21). -/

namespace Sys2Proof.Machine

/-- A command at hand is the command of the row that takes it. -/
theorem Core.atHand_op {c : Core} {now op : Nat} {cmd : Cmd} {past : Bool} {e : Env}
    (h : c.atHand now op cmd past = some e) : e.op = op := by
  unfold Core.atHand at h
  simp only at h
  repeat' split at h
  all_goals cases h <;> rfl

/-- A command that sees the whole machine and answers is finished, one that completes later where Control has an entry left for
it. -/
theorem State.command_finished {s t : State} {op : Nat} {c : Cmd} {f : State → Env → Except Stop (State × Option Run)}
    {e : Env} {r : Option Run} (h : Ready s op c e) (hf : f s e = .ok (t, r)) (hc : r = none → s.core.controlFull = false) :
    State.command op c f s = .next (t.finished t.core e r) := by
  obtain ⟨hhand, hgate⟩ := h
  have hbody : (do s.core.gate e; f s e) = .ok (t, r) := by rw [hgate]; exact hf
  unfold State.command
  cases r with
  | some r => simp only [hhand, hbody]; rfl
  | none => simp only [hhand, hbody, hc rfl]; rfl

/-- A command on the core that answers is finished, one that completes later where Control has an entry left for it. -/
theorem onCoreA_finished {s : State} {op : Nat} {c : Cmd} {f : Env → Core → Except Stop (Core × Option Run)} {e : Env}
    {k : Core} {r : Option Run} (h : Ready s op c e) (hf : f e s.core = .ok (k, r)) (hc : r = none → s.core.controlFull = false) :
    onCoreA (Core.command op c f) s = .next (s.finished k e r) := by
  obtain ⟨hhand, hgate⟩ := h
  cases r with
  | some r => exact onCoreA_run hhand hgate hf
  | none => exact onCoreA_later hhand hgate hf (by simp [hc rfl])

/-- With Control's entries all in use a command that would complete later stays where it is (R21). INVOKE, which holds none of
them, is no such command. -/
theorem onCoreA_full {s : State} {op : Nat} {c : Cmd} {f : Env → Core → Except Stop (Core × Option Run)} {e : Env}
    {k : Core} (h : Ready s op c e) (hop : op ≠ 0x000D) (hf : f e s.core = .ok (k, none)) (hc : s.core.controlFull = true) :
    onCoreA (Core.command op c f) s = .next s := by
  obtain ⟨hhand, hgate⟩ := h
  have hne : e.op ≠ 0x000D := Core.atHand_op hhand ▸ hop
  simp [Core.command, Core.commandOn, hhand, Core.judge, hgate, hf, hne, hc]

/-- The rows that act on the core run their body as the shared course of commands says, and none of them is INVOKE. -/
theorem exec_coreRow {row : CoreRow} (h : row ∈ coreRows) :
    row.op ≠ 0x000D ∧ ∀ (c : Cmd) (s : State), exec (row.row c) s = onCoreA (Core.command row.op c row.body) s := by
  simp only [coreRows, List.mem_cons, List.not_mem_nil, or_false] at h
  rcases h with rfl | rfl | rfl | rfl | rfl | rfl | rfl | rfl | rfl | rfl | rfl | rfl | rfl | rfl | rfl <;>
    exact ⟨by decide, fun _ _ => rfl⟩

/-- So do the rows that act on the whole machine. -/
theorem exec_stateRow {row : StateRow} (h : row ∈ stateRows) (c : Cmd) (s : State) :
    exec (row.row c) s = State.command row.op c row.body s := by
  simp only [stateRows, List.mem_cons, List.not_mem_nil, or_false] at h
  rcases h with rfl | rfl | rfl | rfl | rfl | rfl | rfl | rfl | rfl | rfl | rfl | rfl | rfl | rfl <;> rfl

end Sys2Proof.Machine

open Sys2Proof Sys2Proof.Machine

/-- Settles O41: a row is its body under the shared course of commands, which finishes what the body answers, or leaves it where
Control has no entry for it. -/
theorem commandsComplete : Obligations.CommandsComplete := by
  unfold Obligations.CommandsComplete
  refine ⟨fun row hrow c s e k r hready hbody hfull => ?_, fun row hrow c s t e r hready hbody hfull => ?_,
    fun row hrow c s e k hready hbody hfull => ?_⟩
  · rw [(exec_coreRow hrow).2 c s]
    exact onCoreA_finished hready hbody hfull
  · rw [exec_stateRow hrow c s]
    exact State.command_finished hready hbody hfull
  · obtain ⟨hop, hexec⟩ := exec_coreRow hrow
    rw [hexec c s]
    exact onCoreA_full hready hop hbody hfull

end

section
/-! SUPPORT. The end of a command: it thaws no queue and brings no run back to life (R40, R92, R104, R121). -/

namespace Sys2Proof.Machine

/-! ### Runs by their number -/

theorem Core.run?_eq_none {c : Core} {n : Nat} : c.run? n = none ↔ ∀ x ∈ c.runs, x.dead = false → x.id ≠ n := by
  simp only [Core.run?, List.find?_eq_none, Bool.and_eq_true, beq_iff_eq, Bool.not_eq_true', not_and]
  exact forall₂_congr fun x _ => ⟨fun h hd hn => h hn hd, fun h hn hd => h hd hn⟩

theorem Core.run?_id {c : Core} {n : Nat} {r : Run} (h : c.run? n = some r) : r.id = n := by
  have hp := List.find?_some h
  simp only [Bool.and_eq_true, beq_iff_eq] at hp
  exact hp.1

/-- Once it is over a run is dead, or gone (R40). -/
theorem Run.over_dead {r x : Run} (h : r.over = some x) : x.dead = true := by
  unfold Run.over at h
  split at h
  · cases h
  · cases h; rfl

/-- No number finds a run that was dropped under it. -/
theorem Core.dropRun_run? (c : Core) (n : Nat) : (c.dropRun n).run? n = none := by
  rw [Core.run?_eq_none]
  intro x hx hlive
  obtain ⟨y, -, hy⟩ := List.mem_filterMap.1 hx
  split at hy
  · rw [Run.over_dead hy] at hlive; cases hlive
  · next hne => cases hy; simpa using hne

/-! ### What an end keeps -/

/-- From `c` to `k` no frozen queue has thawed, and no run lives that did not before. -/
structure Core.StaysOver (c k : Core) : Prop where
  frozen : ∀ q, (c.q q).state = .frozen → (k.q q).state = .frozen
  live : ∀ x ∈ k.runs, x.dead = false → x ∈ c.runs

namespace Core.StaysOver

variable {c k l : Core}

theorem refl (c : Core) : c.StaysOver c := ⟨fun _ h => h, fun _ h _ => h⟩

theorem trans (h : c.StaysOver k) (h' : k.StaysOver l) : c.StaysOver l :=
  ⟨fun q hq => h'.frozen q (h.frozen q hq), fun x hx hd => h.live x (h'.live x hx hd) hd⟩

theorem run?_eq_none (h : c.StaysOver k) {n : Nat} (hn : c.run? n = none) : k.run? n = none :=
  Core.run?_eq_none.2 fun x hx hd => Core.run?_eq_none.1 hn x (h.live x hx hd) hd

/-- What leaves queues and runs alone. -/
theorem of_eq (h : c.StaysOver k) (hq : l.qs = k.qs) (hr : l.runs = k.runs) : c.StaysOver l :=
  h.trans ⟨fun q hf => by rw [Core.q_of_qs hq]; exact hf, fun x hx _ => hr ▸ hx⟩

/-- Runs that are dropped, or end as `over` says. -/
theorem filterMap (h : c.StaysOver k) {g : Run → Option Run} (hg : ∀ x y, g x = some y → y = x ∨ x.over = some y)
    (hq : l.qs = k.qs) (hr : l.runs = k.runs.filterMap g) : c.StaysOver l := by
  refine h.trans ⟨fun q hf => by rw [Core.q_of_qs hq]; exact hf, fun y hy hd => ?_⟩
  rw [hr] at hy
  obtain ⟨x, hx, hxy⟩ := List.mem_filterMap.1 hy
  rcases hg x y hxy with rfl | hover
  · exact hx
  · rw [Run.over_dead hover] at hd; cases hd

theorem health (h : c.StaysOver k) (p : Nat) (f : Health → Health) : c.StaysOver (k.health p f) := h.of_eq rfl rfl

/-- Whichever way a choice goes. -/
theorem ite {p : Prop} [Decidable p] (hk : c.StaysOver k) (hl : c.StaysOver l) : c.StaysOver (if p then k else l) := by
  split
  · exact hk
  · exact hl

theorem updQ (h : c.StaysOver k) {q : Nat} {f : Queue → Queue} (hf : ∀ y, y.state = .frozen → (f y).state = .frozen) :
    c.StaysOver (k.updQ q f) := by
  refine h.trans ⟨fun j hj => ?_, fun x hx _ => hx⟩
  rw [Core.q_updQ]
  split
  · next heq => subst heq; exact hf _ hj
  · exact hj

/-! ### Queues, completions, records -/

theorem freezeQ (h : c.StaysOver k) (now q kind value opidx : Nat) : c.StaysOver (k.freezeQ now q kind value opidx) := by
  unfold Core.freezeQ
  refine .of_eq (.updQ h fun y hy => ?_) (Core.logFreeze_qs ..) (Core.logFreeze_runs ..)
  split
  · exact hy
  · rfl

theorem msg (h : c.StaysOver k) (f v : Nat) : c.StaysOver (k.msg f v) := h.of_eq (Core.msg_qs ..) (Core.msg_runs ..)

theorem dropPost (h : c.StaysOver k) (q : Option Nat) : c.StaysOver (k.dropPost q) := by
  unfold Core.dropPost
  split
  · exact h.updQ fun _ hy => hy
  · exact h.of_eq rfl rfl

theorem post (h : c.StaysOver k) (f mq addr : Nat) (data : List Byte) (q : Option Nat) :
    c.StaysOver (k.post f mq addr data q) := by
  unfold Core.post
  split_ifs
  · exact h.of_eq rfl rfl
  · exact h.of_eq rfl rfl
  · exact (h.of_eq (Core.errBit_qs k 4) (Core.errBit_runs k 4)).dropPost q

theorem putCpl (h : c.StaysOver k) (q : Nat) (x : Cpl) : c.StaysOver (k.putCpl q x) := by
  unfold Core.putCpl
  simp only
  split
  · refine .freezeQ ?_ ..
    exact h.updQ fun _ hy => hy
  · refine .ite (.msg (.post ?_ ..) ..) (.post ?_ ..)
    all_goals exact h.updQ fun _ hy => hy

theorem complete (h : c.StaysOver k) (q : Nat) (want : Bool) (x : Cpl) : c.StaysOver (k.complete q want x) := by
  have hslot : c.StaysOver (k.updQ q fun y => { y with reserved := y.reserved - 1 }) := h.updQ fun _ hy => hy
  unfold Core.complete
  simp only
  exact .ite h (.ite (hslot.putCpl q x) hslot)

theorem completeLate (h : c.StaysOver k) (q op : Nat) (want : Bool) (x : Cpl) : c.StaysOver (k.completeLate q op want x) := by
  unfold Core.completeLate
  refine .ite (.complete ?_ ..) h
  exact h.updQ fun _ hy => hy

theorem completeBound (h : c.StaysOver k) (q : Nat) (x : Cpl) : c.StaysOver (k.completeBound q x) := by
  unfold Core.completeBound
  simp only
  refine .ite h (.ite (h.putCpl q x) ?_)
  exact h.updQ fun _ hy => hy

theorem putRec (h : c.StaysOver k) (q : Nat) (note : Bool) (r : Rec) : c.StaysOver (k.putRec q note r) := by
  have hseq : c.StaysOver (k.updQ q fun y => { y with rseq := y.rseq + 1 }) := h.updQ fun _ hy => hy
  unfold Core.putRec
  simp only
  refine .ite h (.ite (hseq.of_eq rfl rfl) ?_)
  split
  · exact hseq.freezeQ ..
  · refine .ite (.msg (.post (.ite (.post ?_ ..) ?_) ..) ..) (.post (.ite (.post ?_ ..) ?_) ..)
    all_goals exact h.updQ fun _ hy => hy

/-! ### Clips and instances -/

theorem endClip (h : c.StaysOver k) (now reason : Nat) (x : Clip) : c.StaysOver (k.endClip now reason x) := by
  have hclips : c.StaysOver { k.draw.2 with clips := k.draw.2.clips.filter (·.binding != x.binding) } := h.of_eq rfl rfl
  unfold Core.endClip
  simp only
  refine .ite ?_ (.putRec ?_ ..)
  all_goals
    refine .ite hclips ?_
    split
    · exact hclips.freezeQ ..
    · exact hclips.post ..

theorem dropClipRuns (h : c.StaysOver k) (binding : Nat) : c.StaysOver (k.dropClipRuns binding) := by
  refine h.filterMap (fun x y hxy => ?_) rfl rfl
  split at hxy
  · split at hxy
    · exact .inr hxy
    · cases hxy; exact .inl rfl
  · cases hxy; exact .inl rfl

theorem missClip (h : c.StaysOver k) (now binding pic : Nat) : c.StaysOver (k.missClip now binding pic) := by
  unfold Core.missClip
  simp only
  split
  · exact h
  refine .ite h (.ite (.endClip ?_ ..) ?_)
  all_goals exact .of_eq (.ite (h.dropClipRuns binding) h) rfl rfl

theorem dropInst (h : c.StaysOver k) (i : Inst) : c.StaysOver (k.dropInst i) := by
  refine h.filterMap (fun x y hxy => ?_) rfl rfl
  split at hxy
  · exact .inr hxy
  · cases hxy; exact .inl rfl

theorem endInst (h : c.StaysOver k) (now : Nat) (i : Inst) (st : Status) (detail : Nat) :
    c.StaysOver (k.endInst now i st detail) := by
  unfold Core.endInst
  simp only
  generalize k.withRuns i = j
  have hcost : c.StaysOver (if st == .ok || st == .late then k else k.damagePuts j) := .ite h (h.of_eq rfl rfl)
  generalize (if st == .ok || st == .late then k else k.damagePuts j) = d at hcost ⊢
  have hmiss : c.StaysOver (match j.binding, j.pic with
      | some b, some p => d.missClip now b p.2
      | _, _ => d) := by
    split
    · exact hcost.missClip ..
    · exact hcost
  have hdrop := hmiss.dropInst j
  generalize Core.dropInst _ j = m at hdrop ⊢
  split
  · exact .completeBound (.ite (hdrop.health ..) hdrop) ..
  · exact .completeLate (.ite (hdrop.health ..) hdrop) ..

theorem settle (h : c.StaysOver k) (now id : Nat) : c.StaysOver (k.settle now id) := by
  unfold Core.settle
  split
  · exact h
  split
  · exact h
  split <;> exact h.endInst ..

theorem proceed (h : c.StaysOver k) (now id : Nat) : c.StaysOver (k.proceed now id) := by
  unfold Core.proceed
  split
  · exact h
  split
  · exact h.settle now id
  · refine .settle (.of_eq h ?_ ?_) now id <;> rfl

/-! ### Commands -/

theorem failRing (h : c.StaysOver k) (now q : Nat) (bufs : List Nat) (l : List Fetched) :
    c.StaysOver (k.failRing now q bufs l) := by
  induction l generalizing k bufs with
  | nil => exact h
  | cons f l ih =>
    have hgone : c.StaysOver (k.updQ q fun y => { y with fetched := y.fetched.filter fun g => g.n != f.n }) :=
      h.updQ fun _ hy => hy
    unfold Core.failRing
    simp only
    exact .ite (ih h _) (.ite (ih (hgone.complete ..) _) (.ite (ih (hgone.complete ..) _) (ih h _)))

theorem endCmd (h : c.StaysOver k) (now : Nat) (r : Run) (st : Status) (detail : Nat) :
    c.StaysOver (k.endCmd now r st detail) := by
  unfold Core.endCmd
  simp only
  split
  · split
    · exact h
    split
    · exact h.complete ..
    · exact .failRing (h.complete ..) ..
  · split <;> (refine .proceed (.of_eq h ?_ ?_) .. <;> rfl)

theorem undo (h : c.StaysOver k) (r : Run) : c.StaysOver (k.undo r) := by
  unfold Core.undo
  split
  · exact h.of_eq rfl rfl
  · exact h

theorem dropRun (h : c.StaysOver k) (n : Nat) : c.StaysOver (k.dropRun n) := by
  refine h.filterMap (fun x y hxy => ?_) rfl rfl
  split at hxy
  · exact .inr hxy
  · cases hxy; exact .inl rfl

end Core.StaysOver

/-! ### The end of a command that does not commit -/

section
variable (c : Core)

/-- A freeze leaves a queue frozen that was not DISABLED (R121). -/
theorem Core.freezeQ_frozen (now q kind value opidx : Nat) (h : (c.q q).state ≠ .disabled) :
    ((c.freezeQ now q kind value opidx).q q).state = .frozen := by
  unfold Core.freezeQ
  rw [Core.q_of_qs (Core.logFreeze_qs ..), Core.q_updQ_self, if_neg (by simpa using h)]

/-- What the steps that run have drawn is counted for the run, and concerns nothing else (R492). -/
theorem Core.drawn_cases (r : Run) : ∃ n m, c.drawn r = ({ c with free := n }, { r with measured := m }) := by
  unfold Core.drawn
  split <;> exact ⟨_, _, rfl⟩

/-- A command that does not commit ends: its run is over, and nothing that was frozen thaws. -/
theorem Core.failRun_over (now : Nat) (r : Run) {st : Status} (h : commits st = false) :
    c.StaysOver (c.failRun now r st) ∧ (c.failRun now r st).run? r.id = none := by
  obtain ⟨n, m, hdrawn⟩ := c.drawn_cases { r with status := st, detail := 0 }
  have hend : (({ c with free := n } : Core).dropRun r.id).StaysOver (c.failRun now r st) := by
    unfold Core.failRun Core.endRun
    rw [hdrawn]
    simp only [h]
    exact .endCmd (.undo (.refl _) _) ..
  have hfree : c.StaysOver { c with free := n } := .of_eq (.refl c) rfl rfl
  exact ⟨.trans (.dropRun hfree r.id) hend, hend.run?_eq_none (Core.dropRun_run? _ _)⟩

end

end Sys2Proof.Machine
end

section
/-! SUPPORT. The start of a step: what it leaves of the run that starts it, and of everything else (R18, R40, R68, R385). -/

namespace Sys2Proof.Machine

/-! ### A run under an update -/

section
variable {c : Core} {n k : Nat} {f : Run → Run}

/-- An update of runs that keeps their numbers and lives is one of the run that a number finds. -/
theorem Core.run?_updRun (hf : ∀ x, (f x).id = x.id ∧ (f x).dead = x.dead) :
    (c.updRun k f).run? n = (c.run? n).map fun x => if x.id == k then f x else x := by
  have hp : ((fun x : Run => x.id == n && !x.dead) ∘ fun x => if x.id == k then f x else x) =
      fun x => x.id == n && !x.dead := by
    funext x
    obtain ⟨hid, hdead⟩ := hf x
    simp only [Function.comp]
    split
    · rw [hid, hdead]
    · rfl
  simp only [Core.run?, Core.updRun, listSet, List.find?_map, hp]

theorem Core.run?_updRun_self {y : Run} (h : c.run? n = some y) (hf : ∀ x, (f x).id = x.id ∧ (f x).dead = x.dead) :
    (c.updRun n f).run? n = some (f y) := by
  rw [Core.run?_updRun hf, h, Option.map_some, if_pos (by simpa using Core.run?_id h)]

theorem Core.run?_updRun_ne (hk : n ≠ k) (hf : ∀ x, (f x).id = x.id ∧ (f x).dead = x.dead) :
    (c.updRun k f).run? n = c.run? n := by
  rw [Core.run?_updRun hf]
  cases h : c.run? n with
  | none => rfl
  | some y => rw [Option.map_some, if_neg (by simpa [Core.run?_id h] using hk)]

end

theorem Core.run?_of_runs {c k : Core} (h : k.runs = c.runs) (n : Nat) : k.run? n = c.run? n := by
  simp only [Core.run?, h]

/-! ### What the parts of a start leave -/

section
variable (c : Core) (r : Run)

/-- A charge changes grains, of whatever the step counts for. -/
theorem Core.charge_eq (planned measured : Nat) :
    ∃ i l x, c.charge r planned measured = { c with insts := i, clips := l, runs := x } := by
  unfold Core.charge
  simp only
  repeat' split
  all_goals exact ⟨_, _, _, rfl⟩

/-- A run after a charge: only its grains may differ. -/
theorem Core.charge_run? (planned measured : Nat) {n : Nat} {y : Run} (h : c.run? n = some y) :
    ∃ a b, (c.charge r planned measured).run? n = some { y with planned := a, measured := b } := by
  have hupd (k : Nat) : ∃ a b, (c.updRun k fun x =>
      { x with planned := x.planned + planned, measured := x.measured + measured }).run? n =
        some { y with planned := a, measured := b } := by
    by_cases hk : n = k
    · subst hk
      exact ⟨_, _, Core.run?_updRun_self h fun _ => ⟨rfl, rfl⟩⟩
    · refine ⟨_, _, (Core.run?_updRun_ne hk ?_).trans h⟩
      exact fun _ => ⟨rfl, rfl⟩
  unfold Core.charge
  simp only
  split
  · split <;> exact ⟨_, _, h⟩
  · exact ⟨_, _, h⟩
  · split
    · exact hupd _
    · exact ⟨_, _, h⟩
  · exact ⟨_, _, h⟩
  · exact ⟨_, _, h⟩
  · exact hupd _

/-- Operations that write registers of engines and draw free values do so one after the other. -/
theorem Core.foldl_registers {α : Type} {c d : Core} {l : List α} {g : Core → α → Core}
    (hd : ∃ x y z, d = { c with cells := x, vregs := y, free := z })
    (hg : ∀ d a, (∃ x y z, d = { c with cells := x, vregs := y, free := z }) →
      ∃ x y z, g d a = { c with cells := x, vregs := y, free := z }) :
    ∃ x y z, l.foldl g d = { c with cells := x, vregs := y, free := z } :=
  List.foldlRecOn l g hd fun d hd a _ => hg d a hd

/-- A step writes registers of its units, and draws free values. -/
theorem Core.putRegs_eq (now : Nat) (slots : List PSlot) (p : PStep) :
    ∃ x y z, c.putRegs now slots r p = { c with cells := x, vregs := y, free := z } := by
  unfold Core.putRegs
  split
  · refine Core.foldl_registers ⟨_, _, _, rfl⟩ fun d j hd => ?_
    split
    · exact hd
    · refine Core.foldl_registers hd fun d u hd => ?_
      obtain ⟨x, y, z, rfl⟩ := hd
      exact ⟨_, _, _, rfl⟩
  · exact ⟨_, _, _, rfl⟩
  · exact ⟨_, _, _, rfl⟩

/-- The first decode step of a picture changes its context. -/
theorem Core.openPic_eq : ∃ x, c.openPic r = { c with ctxs := x } := by
  unfold Core.openPic
  simp only
  repeat' split
  all_goals exact ⟨_, rfl⟩

section
variable (planned measured now : Nat) (slots : List PSlot) (p : PStep)

@[simp] theorem Core.charge_qs : (c.charge r planned measured).qs = c.qs := by
  obtain ⟨i, l, x, h⟩ := c.charge_eq r planned measured; rw [h]
@[simp] theorem Core.charge_copies : (c.charge r planned measured).copies = c.copies := by
  obtain ⟨i, l, x, h⟩ := c.charge_eq r planned measured; rw [h]
@[simp] theorem Core.charge_host : (c.charge r planned measured).host = c.host := by
  obtain ⟨i, l, x, h⟩ := c.charge_eq r planned measured; rw [h]

@[simp] theorem Core.putRegs_qs : (c.putRegs now slots r p).qs = c.qs := by
  obtain ⟨x, y, z, h⟩ := c.putRegs_eq r now slots p; rw [h]
@[simp] theorem Core.putRegs_copies : (c.putRegs now slots r p).copies = c.copies := by
  obtain ⟨x, y, z, h⟩ := c.putRegs_eq r now slots p; rw [h]
@[simp] theorem Core.putRegs_host : (c.putRegs now slots r p).host = c.host := by
  obtain ⟨x, y, z, h⟩ := c.putRegs_eq r now slots p; rw [h]
@[simp] theorem Core.putRegs_runs : (c.putRegs now slots r p).runs = c.runs := by
  obtain ⟨x, y, z, h⟩ := c.putRegs_eq r now slots p; rw [h]

@[simp] theorem Core.openPic_qs : (c.openPic r).qs = c.qs := by obtain ⟨x, h⟩ := c.openPic_eq r; rw [h]
@[simp] theorem Core.openPic_copies : (c.openPic r).copies = c.copies := by obtain ⟨x, h⟩ := c.openPic_eq r; rw [h]
@[simp] theorem Core.openPic_host : (c.openPic r).host = c.host := by obtain ⟨x, h⟩ := c.openPic_eq r; rw [h]
@[simp] theorem Core.openPic_runs : (c.openPic r).runs = c.runs := by obtain ⟨x, h⟩ := c.openPic_eq r; rw [h]

end

/-- Requests that are issued take tags of the function and stand in the list of reads; of the run they are counted (R385). -/
theorem Core.issueReqs_eq (f run k : Nat) :
    ∃ x y z, c.issueReqs f run k = { c with host := { c.host with fns := x, reads := y }, runs := z } := by
  induction k generalizing c with
  | zero => exact ⟨_, _, _, rfl⟩
  | succ k ih =>
    unfold Core.issueReqs
    split
    · exact ⟨_, _, _, rfl⟩
    · obtain ⟨x, y, z, hxyz⟩ := ih _
      exact ⟨x, y, z, hxyz⟩

/-- A run after some requests: what it waits for may differ. -/
theorem Core.issueReqs_run? (f run k : Nat) {n : Nat} {y : Run} (h : c.run? n = some y) :
    ∃ a, (c.issueReqs f run k).run? n = some { y with reads := a } := by
  induction k generalizing c y with
  | zero => exact ⟨_, h⟩
  | succ k ih =>
    unfold Core.issueReqs
    split
    · exact ⟨_, h⟩
    · by_cases hk : n = run
      · subst hk
        refine ih (y := { y with reads := y.reads + 1 }) _ (Core.run?_updRun_self h ?_)
        exact fun _ => ⟨rfl, rfl⟩
      · refine ih (y := y) _ ((Core.run?_updRun_ne hk ?_).trans h)
        exact fun _ => ⟨rfl, rfl⟩

theorem Core.issueRead_eq (k : Nat) :
    ∃ x y z, c.issueRead r k = { c with host := { c.host with fns := x, reads := y }, runs := z } := by
  unfold Core.issueRead
  simp only
  split
  · exact ⟨_, _, _, rfl⟩
  · obtain ⟨x, y, z, h⟩ := c.issueReqs_eq (c.q r.queue).func r.id k
    rw [h]
    exact ⟨_, _, _, rfl⟩

/-- A run after the requests of a step: what it has read, and what it waits for, may differ. -/
theorem Core.issueRead_run? (k : Nat) {n : Nat} {y : Run} (h : c.run? n = some y) :
    ∃ a b, (c.issueRead r k).run? n = some { y with reads := a, readPos := b } := by
  unfold Core.issueRead
  simp only
  split
  · exact ⟨_, _, h⟩
  · obtain ⟨a, ha⟩ := c.issueReqs_run? (c.q r.queue).func r.id k h
    by_cases hk : n = r.id
    · subst hk
      refine ⟨_, _, (Core.run?_updRun_self ha ?_).trans rfl⟩
      exact fun _ => ⟨rfl, rfl⟩
    · refine ⟨_, _, (Core.run?_updRun_ne hk ?_).trans ha⟩
      exact fun _ => ⟨rfl, rfl⟩

end

/-! ### The start -/

/-- A health note that is made or not. -/
theorem Core.ite_health_eq (c : Core) (b : Prop) [Decidable b] (p : Nat) (f : Health → Health) :
    ∃ x, (if b then c else c.health p f) = { c with parts := x } := by
  split <;> exact ⟨_, rfl⟩

/-- A run with a step of it that starts: of a read with requests left the last step stays (R385). -/
def Run.begins (e : Engine) (p : PStep) (a : Active) (y : Run) : Run :=
  { y with
    active := y.active ++ [a], admitted := true, begun := true
    steps := if e == .hostDma && y.moreReads && decide ((y.steps.filter (·.eng == .hostDma)).length ≤ 1) then y.steps
      else y.steps.filter (·.id != p.id) }

section
variable (s : State) (r : Run) (e : Engine) (t : Nat) (p : PStep) (slot : Option PSlot)

/-- A seam message leaves the core, a draw apart, and all but the links. -/
theorem State.sendSeam_eq (k : Nat) : ∃ n l, s.sendSeam r k = { s with core := { s.core with free := n }, link := l } := by
  unfold State.sendSeam
  simp only
  split <;> exact ⟨_, _, rfl⟩

/-- The core after a start: its run begins the step, which is charged, sets its registers and opens its picture; the partition may
note that a seam was late. -/
theorem State.begin_core : ∃ (a : Active) (slots : List PSlot), (∃ x, (s.begin r e t p slot).core =
      { ((((s.core.updRun r.id (Run.begins e p a)).charge r (s.amb.plan p.costs) 0).putRegs s.tick.count slots r p).openPic r) with
        parts := x }) ∧ a.eng = e ∧ a.start = (t : Int) ∧ a.step = p := by
  unfold State.begin
  cases e with
  | link k => exact ⟨_, _, Core.ite_health_eq .., rfl, rfl, rfl⟩
  | _ => exact ⟨_, _, ⟨_, rfl⟩, rfl, rfl, rfl⟩

/-- A step that runs from `t`: its run has it on the engine, and no longer among the steps left, a read with requests left apart. -/
theorem State.begin_run? {y : Run} (h : s.core.run? r.id = some y) :
    ∃ x a, (s.begin r e t p slot).core.run? r.id = some x ∧ x.active = y.active ++ [a] ∧ a.eng = e ∧ a.start = (t : Int) ∧
      a.step = p ∧ x.begun = true ∧ x.outs = y.outs ∧
      ((e ≠ .hostDma ∨ y.moreReads = false) → x.steps = y.steps.filter (·.id != p.id)) := by
  obtain ⟨a, slots, ⟨parts, hcore⟩, heng, hstart, hstep⟩ := s.begin_core r e t p slot
  have hupd : (s.core.updRun r.id (Run.begins e p a)).run? r.id = some (y.begins e p a) :=
    Core.run?_updRun_self h fun _ => ⟨rfl, rfl⟩
  obtain ⟨m, n, hrun⟩ := Core.charge_run? _ r (s.amb.plan p.costs) 0 hupd
  have hruns : (s.begin r e t p slot).core.runs =
      ((s.core.updRun r.id (Run.begins e p a)).charge r (s.amb.plan p.costs) 0).runs := by
    rw [hcore]
    exact (Core.openPic_runs ..).trans (Core.putRegs_runs ..)
  refine ⟨_, a, (Core.run?_of_runs hruns r.id).trans hrun, rfl, heng, hstart, hstep, rfl, rfl, fun hlast => ?_⟩
  rcases hlast with he | hm
  · simp [Run.begins, he]
  · simp [Run.begins, hm]

/-- A start leaves the queues, the copies and the host interface as they are. -/
theorem State.begin_keeps : (s.begin r e t p slot).core.qs = s.core.qs ∧ (s.begin r e t p slot).core.copies = s.core.copies ∧
    (s.begin r e t p slot).core.host = s.core.host := by
  obtain ⟨a, slots, ⟨parts, hcore⟩, -⟩ := s.begin_core r e t p slot
  rw [hcore]
  simp

/-! ### The start with what it reads of the host -/

/-- A step that touches no host memory, or that has nothing left to read: it runs, and a step of a link sends its message. -/
theorem State.launchStep_free (h : e ≠ .hostDma ∨ s.core.access r = .free) :
    ∃ n l, s.launchStep r e t p slot = { s.begin r e t p slot with
      core := { (s.begin r e t p slot).core with free := n }, link := l } := by
  have hfree : (if e == .hostDma then s.core.access r else .free) = .free := by
    rcases h with he | ha
    · simp [he]
    · simp [ha]
  unfold State.launchStep
  simp only [hfree]
  split
  · exact State.sendSeam_eq ..
  · exact ⟨_, _, rfl⟩

variable {s r}

/-- A step of host DMA with requests to issue runs once they are issued (R385). -/
theorem State.launchStep_read {k : Nat} (h : s.core.access r = .read k) :
    s.launchStep r .hostDma t p slot = ({ s with core := s.core.issueRead r k } : State).begin r .hostDma t p slot := by
  simp [State.launchStep, h]

/-- A step whose function does not master the bus waits (R389). -/
theorem State.launchStep_wait (h : s.core.access r = .wait) : s.launchStep r .hostDma t p slot = s := by
  simp [State.launchStep, h]

/-- A step whose host range has left its windows freezes its queue and ends its run (R120, R382). -/
theorem State.launchStep_violation {a : Nat} (h : s.core.access r = .violation a) (hq : (s.core.q r.queue).state ≠ .disabled) :
    ((s.launchStep r .hostDma t p slot).core.q r.queue).state = .frozen ∧
      (s.launchStep r .hostDma t p slot).core.run? r.id = none := by
  simp only [State.launchStep, h, beq_self_eq_true, if_true]
  obtain ⟨hstays, hgone⟩ := Core.failRun_over (s.core.freezeQ s.tick.count r.queue 2 a
    (r.op * 65536 + (match r.src with
      | .inst _ k => k
      | .ring _ => 0xFFFF))) s.tick.count r (st := .violation) rfl
  exact ⟨hstays.frozen _ (Core.freezeQ_frozen _ _ _ _ _ _ hq), hgone⟩

/-- A host access with nothing to issue leaves no request to come. -/
theorem Run.moreReads_of_access_free {c : Core} (h : c.access r = .free) : r.moreReads = false := by
  unfold Core.access at h
  unfold Run.moreReads
  simp only at h
  split at h
  · next hr => rw [hr]
  · next wr a n hr =>
    rw [hr]
    cases wr with
    | true => rfl
    | false =>
      simp only [Bool.false_eq_true, if_false] at h
      split at h
      · cases h
      split at h
      · next hdone => simpa using hdone
      split at h
      · cases h
      split at h <;> cases h

end

/-! ### The row -/

/-- Operands that nobody has written since are not read anew (R111). -/
theorem Core.freshen_eq_self {c : Core} {a : Amb} {r : Run} (h : ∀ x ∈ c.firsts r, c.stale a.tick x = false) :
    c.freshen a r = c := by
  unfold Core.freshen
  refine List.foldlRecOn (motive := fun d => d = c) _ _ rfl fun d hd x hx => ?_
  rw [hd, h x hx]
  rfl

/-- A step that the sheaf in force has, and that nothing keeps, starts with its operands as they are now. -/
theorem execStepStart_starts {run t : Nat} {e : Engine} {s0 s : State} {r0 r x : Run} {p : PStep} {slot : Option PSlot}
    (hr0 : s0.core.run? run = some r0) (hs : s0.shareStart r0 = s) (hr : s.core.run? run = some r)
    (hpick : s.pick r e t = some (p, slot)) (hmay : s.mayBegin r e t p slot = true)
    (hx : (s.core.freshen s.amb r).run? run = some x) :
    execStepStart run e t s0 = .next (({ s with core := s.core.freshen s.amb r } : State).launchStep x e t p slot) := by
  simp [execStepStart, hr0, hs, hr, hpick, hmay, hx]

end Sys2Proof.Machine

open Sys2Proof Sys2Proof.Machine

/-- Settles O39: the start by what the step does with the host: nothing, a read, a wait, or a violation. -/
theorem stepStartRunsOneStep : Obligations.StepStartRunsOneStep := by
  unfold Obligations.StepStartRunsOneStep
  refine ⟨fun s r h => State.shareStart_other h, fun run t e s0 r0 r p slot hr0 => ?_⟩
  simp only
  generalize hs : s0.shareStart r0 = s
  intro hr hpick hmay
  refine ⟨fun x hx => execStepStart_starts hr0 hs hr hpick hmay hx, fun hfresh => ?_⟩
  have hcore : s.core.freshen s.amb r = s.core := Core.freshen_eq_self hfresh
  have hstart : exec (.stepStart run e t) s0 = .next (s.launchStep r e t p slot) := by
    have h := execStepStart_starts hr0 hs hr hpick hmay (hcore ▸ hr)
    rwa [hcore] at h
  obtain rfl : r.id = run := Core.run?_id hr
  refine ⟨fun hhost => ?_, fun he hwait => ?_, fun a he hout hq => ?_⟩
  · by_cases hfree : e ≠ .hostDma ∨ s.core.access r = .free
    · obtain ⟨n, l, hlaunch⟩ := s.launchStep_free r e t p slot hfree
      obtain ⟨x, a, hrun, hactive, heng, hat, hstep, hbegun, houts, hsteps⟩ := s.begin_run? r e t p slot hr
      obtain ⟨hqs, hcopies, hhostIf⟩ := s.begin_keeps r e t p slot
      rw [hlaunch] at hstart
      exact ⟨_, x, a, hstart, hrun, hactive, heng, hat, hstep, hbegun, houts,
        fun hlast => hsteps (hlast.imp_right Run.moreReads_of_access_free), hcopies, congrArg _ hhostIf, hqs,
        rfl, rfl, rfl, rfl, rfl⟩
    · obtain ⟨k, hread⟩ := (hhost.resolve_left (hfree ∘ .inl)).resolve_left (hfree ∘ .inr)
      obtain rfl : e = .hostDma := not_not.1 (hfree ∘ .inl)
      obtain ⟨m, n, hissued⟩ := s.core.issueRead_run? r k hr
      obtain ⟨x, a, hrun, hactive, heng, hat, hstep, hbegun, houts, -⟩ :=
        ({ s with core := s.core.issueRead r k } : State).begin_run? r .hostDma t p slot hissued
      obtain ⟨hqs, hcopies, hhostIf⟩ := ({ s with core := s.core.issueRead r k } : State).begin_keeps r .hostDma t p slot
      obtain ⟨fns, reads, runs, hissue⟩ := s.core.issueRead_eq r k
      rw [State.launchStep_read t p slot hread] at hstart
      refine ⟨_, x, a, hstart, hrun, hactive, heng, hat, hstep, hbegun, houts, fun hlast => absurd hlast hfree,
        ?_, ?_, ?_, rfl, rfl, rfl, rfl, rfl⟩
      · rw [hcopies, hissue]
      · rw [hhostIf, hissue]
      · rw [hqs, hissue]
  · subst he
    rw [hstart, State.launchStep_wait t p slot hwait]
  · subst he
    exact ⟨_, hstart, State.launchStep_violation t p slot hout hq⟩

end

section
/-! SUPPORT. What a row can do to the ledger. Each operation of the machine leaves the strap, the contract, the coefficients
and the governor's level as they were, or is a chain of the moves named here; every invariant of the ledger is then one case
per move (R53, R63 to R70). -/

namespace Sys2Proof.Machine

/-! ### The moves -/

/-- What the rules bound of a ledger: strap, contract and scheduled contract (R53, R69), coefficients with their image (R64), the
governor's levels (R66). -/
def Ledger.bounded (l : Ledger) : (Nat × Nat × Option (Nat × Nat)) × (Tab (Option (Nat × Nat)) × Nat) × Nat × Nat :=
  ((l.strap, l.contract, l.pending), (l.coef, l.img), l.level, l.levelMax)

theorem Ledger.bounded_eq {l m : Ledger} : m.bounded = l.bounded ↔
    (m.strap = l.strap ∧ m.contract = l.contract ∧ m.pending = l.pending) ∧ (m.coef = l.coef ∧ m.img = l.img) ∧
      m.level = l.level ∧ m.levelMax = l.levelMax := by
  simp [Ledger.bounded]

/-- The straps as a module reset samples them (R53, R479). -/
def Ledger.sampled (l : Ledger) (sel : Nat) : Ledger :=
  { l with strap := sel % 4, contract := strapW (sel % 4), pending := none }

/-- A contract is scheduled (R69, R70). -/
def Ledger.scheduled (l : Ledger) (x : Nat × Nat) : Ledger := { l with pending := some x }

/-- A LEDGERTAB image gives the coefficients afresh (R64). -/
def Ledger.switched (l : Ledger) (img : Nat) : Ledger := { l with img := img, coef := [] }

/-- The governor's level one up (R66). -/
def Ledger.raised (l : Ledger) : Ledger :=
  { l with level := min 4 (l.level + 1), levelMax := max l.levelMax (min 4 (l.level + 1)) }

/-- The governor's level one down (R66). -/
def Ledger.lowered (l : Ledger) : Ledger := { l with level := l.level - 1 }

/-- The largest level of a tick that begins (R68). -/
def Ledger.rested (l : Ledger) : Ledger := { l with levelMax := l.level }

/-- One thing that happens to what the rules bound of a ledger, while the module runs; the last case is everything else. -/
inductive Ledger.Move (l : Ledger) : Ledger → Prop
  | schedule (x : Nat × Nat) (hlo : 40 ≤ x.1) (hhi : x.1 ≤ strapW l.strap) : Move l (l.scheduled x)
  | change (tick : Nat) : Move l (l.changeAt tick)
  | calibrate (draw : Nat) : Move l (l.calibrated draw)
  | switch (img : Nat) : Move l (l.switched img)
  | raise : Move l l.raised
  | lower : Move l l.lowered
  | rest : Move l l.rested
  | other {m : Ledger} (h : m.bounded = l.bounded) : Move l m

/-- A chain of moves. -/
abbrev Ledger.Moves : Ledger → Ledger → Prop := Relation.ReflTransGen Ledger.Move

namespace Ledger.Moves

variable {l m n : Ledger}

theorem other (h : m.bounded = l.bounded) : l.Moves m := .single (.other h)

theorem of_eq (h : m = l) : l.Moves m := h ▸ .refl

/-- What each move keeps, a chain of moves keeps. -/
theorem keeps {P : Ledger → Prop} (hP : ∀ {l m : Ledger}, l.Move m → P l → P m) (h : l.Moves m) (hl : P l) : P m := by
  induction h with
  | refl => exact hl
  | tail _ hmove ih => exact hP hmove ih

end Ledger.Moves

/-! ### Readings of the meter and the figures of a tick -/

section
variable (l : Ledger)

/-- The figures of a new tick are fresh; its largest level starts at the level (R68). -/
theorem Ledger.nextCore_eq (period : Nat) : ∃ b, l.nextCore period = { l.rested with
    budget := b, floorEst := l.nextFloor, vbNow := l.nextVb, sheafPlan := l.nextPlan, floorShort := l.nextShort
    coefNow := l.nextCoef, imgNow := l.nextImg, ran := [], metered := 0 } := ⟨_, rfl⟩

theorem Ledger.first_eq (draw period vb : Nat) : ∃ b p d, l.first draw period vb = { l.rested with
    vbNow := vb, vbBoot := vb, budget := b, floorEst := l.floorOf, sheafPlan := p, floorShort := d } := ⟨_, _, _, rfl⟩

@[simp] theorem Ledger.mark_bounded (es : List Nat) : (l.mark es).bounded = l.bounded := rfl

theorem Ledger.foldl_bounded {α : Type} (xs : List α) {f : Ledger → α → Ledger} (h : ∀ m x, (f m x).bounded = m.bounded) :
    (xs.foldl f l).bounded = l.bounded :=
  List.foldlRecOn (motive := fun m : Ledger => m.bounded = l.bounded) xs f rfl fun m hm x _ => (h m x).trans hm

theorem Ledger.mended1_bounded (x : Metered) : (l.mended1 x).bounded = l.bounded := by
  have hran (p g n : Nat) : ({ l.addRan x.entry p g with metered := n } : Ledger).bounded = l.bounded := rfl
  unfold Ledger.mended1
  simp only
  split
  · exact (Ledger.mark_bounded ..).trans (hran ..)
  · exact hran ..

theorem Ledger.mended_bounded (on : List Metered) : (l.mended on).bounded = l.bounded :=
  l.foldl_bounded on Ledger.mended1_bounded

theorem Ledger.step_bounded (draw grains : Nat) (plan : List (Nat × Nat)) : (l.step draw grains plan).bounded = l.bounded :=
  Ledger.foldl_bounded _ _ fun _ _ => rfl

theorem Ledger.next_moves (period : Nat) (running : List Nat) : l.Moves (l.next period running) := by
  have hcore : (l.nextCore period).bounded = l.rested.bounded := by
    obtain ⟨b, h⟩ := l.nextCore_eq period
    rw [h]
    rfl
  refine .tail (.single .rest) (.other ?_)
  unfold Ledger.next
  simp only
  split
  · exact hcore
  · exact (Ledger.mark_bounded ..).trans hcore

theorem Ledger.first_moves (draw period vb : Nat) : l.Moves (l.first draw period vb) := by
  obtain ⟨b, p, d, h⟩ := l.first_eq draw period vb
  rw [h]
  exact .tail (.single .rest) (.other rfl)

end

/-! ### Outcomes -/

/-- What an outcome says of the ledger, where the row answers. -/
def LedgerTo (P : Ledger → Prop) : Host.Outcome State Fault Refusal → Prop
  | .next t => P t.led
  | _ => True

theorem LedgerTo.mono {P Q : Ledger → Prop} {o : Host.Outcome State Fault Refusal} (h : LedgerTo P o) (hPQ : ∀ l, P l → Q l) :
    LedgerTo Q o := by
  cases o with
  | next t => exact hPQ _ h
  | fault | refused => trivial

/-- A row with one condition. -/
theorem LedgerTo.ite {P : Ledger → Prop} {p : Prop} [Decidable p] {a b : State} (ha : P a.led) (hb : P b.led) :
    LedgerTo P (.next (if p then a else b)) := by
  unfold LedgerTo
  simp only
  split
  · exact ha
  · exact hb

theorem LedgerTo.moves {l : Ledger} {o : Host.Outcome State Fault Refusal} (h : LedgerTo (· = l) o) : LedgerTo l.Moves o :=
  h.mono fun _ => Ledger.Moves.of_eq

/-- Whichever way a choice goes, the ledger is the same. -/
theorem State.led_ite {p : Prop} [Decidable p] {a b : State} {l : Ledger} (ha : a.led = l) (hb : b.led = l) :
    (if p then a else b).led = l := by
  split
  · exact ha
  · exact hb

/-- Operations that follow one another on the machine, each of which leaves the ledger alone. -/
theorem State.foldl_led {α : Type} (l : List α) {f : State → α → State} (h : ∀ (s : State) x, (f s x).led = s.led) (s : State) :
    (l.foldl f s).led = s.led :=
  List.foldlRecOn (motive := fun t : State => t.led = s.led) l f rfl fun t ht x _ => (h t x).trans ht

/-- Operations that follow one another, each a chain of moves of the ledger. -/
theorem State.foldl_moves {α : Type} {l : Ledger} (xs : List α) {f : State → α → State} {s : State} (hs : l.Moves s.led)
    (h : ∀ (s : State) x, s.led.Moves (f s x).led) : l.Moves (xs.foldl f s).led :=
  List.foldlRecOn (motive := fun t : State => l.Moves t.led) xs f hs fun t ht x _ => ht.trans (h t x)

end Sys2Proof.Machine
end

section
/-! SUPPORT. Commands over the whole machine, links, partitions and mending leave the ledger as it was. -/

namespace Sys2Proof.Machine

/-! ### Commands over the whole machine -/

/-- What a command's body says of the ledger, where it answers. -/
def Answers (P : Ledger → Prop) (x : Except Stop (State × Option Run)) : Prop := ∀ t r, x = .ok (t, r) → P t.led

namespace Answers

variable {P : Ledger → Prop}

theorem error (x : Stop) : Answers P (.error x) := fun _ _ h => nomatch h

theorem ok {t : State} {r : Option Run} (h : P t.led) : Answers P (.ok (t, r)) := by
  rintro _ _ ⟨⟩
  exact h

theorem bind {α : Type} {x : Except Stop α} {f : α → Except Stop (State × Option Run)} (h : ∀ a, Answers P (f a)) :
    Answers P (x >>= f) := by
  cases x with
  | error e => exact error e
  | ok a => exact h a

end Answers

/-- A command changes the ledger as its body does, or not at all. -/
theorem State.command_led {P : Ledger → Prop} {s : State} {op : Nat} {c : Cmd}
    {f : State → Env → Except Stop (State × Option Run)} (hs : P s.led)
    (hf : ∀ e, s.core.atHand s.tick.count op c = some e → Answers P (f s e)) : LedgerTo P (State.command op c f s) := by
  unfold State.command
  split
  · exact hs
  · next e he =>
    have hbody : Answers P (do s.core.gate e; f s e) := .bind fun _ => hf e he
    split
    · exact hs
    · exact hs
    · exact hs
    · next t r h =>
      have ht := hbody t r h
      split
      · exact ht
      · simp only [LedgerTo]
        split
        · exact hs
        · exact ht

theorem State.command_moves {s : State} {op : Nat} {c : Cmd} {f : State → Env → Except Stop (State × Option Run)}
    (hf : ∀ e, Answers (· = s.led) (f s e)) : LedgerTo s.led.Moves (State.command op c f s) :=
  (State.command_led (P := (· = s.led)) rfl fun e _ => hf e).moves

/-! ### Links -/

section
variable (s : State)

@[simp] theorem State.sendMgmt_led (dest unit : Nat) (what : SentFor) : (s.sendMgmt dest unit what).led = s.led := by
  unfold State.sendMgmt
  split <;> rfl

@[simp] theorem State.sendHeld_led : s.sendHeld.led = s.led :=
  State.foldl_led _ (fun s _ => s.sendMgmt_led ..) _

@[simp] theorem State.tellMembers_led : s.tellMembers.led = s.led :=
  State.foldl_led _ (fun s _ => s.sendMgmt_led ..) _

@[simp] theorem State.reply_led (dest id : Nat) (r : Reply) : (s.reply dest id r).led = s.led := rfl
@[simp] theorem State.updLink_led (f : Link → Link) : (s.updLink f).led = s.led := rfl
@[simp] theorem State.updPort_led (p : Nat) (f : Port → Port) : (s.updPort p f).led = s.led := rfl

@[simp] theorem State.portDown_led (p : Nat) : (s.portDown p).led = s.led := by
  unfold State.portDown
  simp only
  split <;> rfl

@[simp] theorem State.deliver_led (p cls : Nat) (m : Msg) : (s.deliver p cls m).led = s.led := by
  unfold State.deliver
  split
  · rfl
  · rfl
  · split <;> rfl

@[simp] theorem State.deliverFlit_led (p : Nat) (f : Flit) : (s.deliverFlit p f).led = s.led := by
  unfold State.deliverFlit
  repeat' split
  all_goals rfl

@[simp] theorem State.routeFlit_led (p : Nat) (f : Flit) : (s.routeFlit p f).led = s.led := by
  unfold State.routeFlit
  simp only
  repeat' split
  all_goals simp

@[simp] theorem State.dropSent_led (id : Nat) : (s.dropSent id).led = s.led := State.sendHeld_led _

@[simp] theorem State.grantWindow_led (src unit : Nat) (seam bulk : Bool) : (s.grantWindow src unit seam bulk).led = s.led := rfl

theorem State.takeGrant_led {s t : State} {g : GrantReq} (h : s.takeGrant g = some t) : t.led = s.led := by
  unfold State.takeGrant at h
  simp only at h
  repeat' split at h
  all_goals cases h
  all_goals rfl

@[simp] theorem State.chooseMaster_led (lost : Option Nat) : (s.chooseMaster lost).led = s.led := rfl
@[simp] theorem State.sendTick_led (from_ : Option Nat) (k : TickPay) : (s.sendTick from_ k).led = s.led := by
  simp [State.sendTick]

/-! ### Partitions -/

@[simp] theorem State.askMembers_led (k : Nat) (g : Grants) : (s.askMembers k g).led = s.led :=
  State.foldl_led _ (fun s _ => s.sendMgmt_led ..) _

theorem partCreate_led (e : Env) : Answers (· = s.led) (partCreate s e) := by
  unfold partCreate
  repeat' refine .bind fun _ => ?_
  split
  · exact .error _
  · split
    · exact .ok rfl
    · exact .ok (State.askMembers_led ..)

theorem partLimits_led (e : Env) : Answers (· = s.led) (partLimits s e) := by
  unfold partLimits
  repeat' refine .bind fun _ => ?_
  split
  · exact .error _
  · exact .ok (State.askMembers_led ..)

theorem partDestroyAll_led (e : Env) : Answers (· = s.led) (partDestroyAll s e) :=
  .bind fun _ => .ok (State.tellMembers_led _)

/-! ### Mending -/

@[simp] theorem State.mendBit_led (b : Nat) : (s.mendBit b).led = s.led := by
  unfold State.mendBit
  split <;> rfl

@[simp] theorem State.mendLog_led (e : LogEntry) : (s.mendLog e).led = s.led := by
  unfold State.mendLog
  simp only [State.mendBit_led]
  split
  · exact State.mendBit_led ..
  · rfl

@[simp] theorem State.logError_led (tier unit : Nat) (w : Option ErrAt) : (s.logError tier unit w).led = s.led := by
  unfold State.logError
  split
  · exact State.mendLog_led ..
  · simp only
    repeat' split
    all_goals simp

@[simp] theorem State.darnWhole_led (t p : Nat) : (s.darnWhole t p).led = s.led := by
  unfold State.darnWhole
  simp only
  repeat' split
  all_goals simp

@[simp] theorem State.darn_led (t p : Nat) : (s.darn t p).led = s.led := by
  unfold State.darn
  simp only
  repeat' split
  all_goals simp

@[simp] theorem State.darnings_led : s.darnings.led = s.led := by
  refine State.foldl_led _ (fun s e => ?_) s
  split
  · rfl
  · exact State.darn_led ..

@[simp] theorem State.retirements_led (moved : List Nat) (lost : List ErrAt) : (s.retirements moved lost).led = s.led := by
  unfold State.retirements
  simp only
  split
  · exact State.foldl_led _ (fun _ _ => by simp) s
  · exact (State.foldl_led _ (fun _ _ => by simp) _).trans (State.foldl_led _ (fun _ _ => by simp) s)

@[simp] theorem State.cancelKind_led (kind : Nat) : (s.cancelKind kind).led = s.led := by
  unfold State.cancelKind
  split <;> rfl

@[simp] theorem State.startActs_led : s.startActs.led = s.led := by
  refine State.foldl_led _ (fun s x => ?_) s
  simp only
  repeat' split
  all_goals rfl

theorem mendStart_led (e : Env) : Answers (· = s.led) (mendStart s e) := by
  unfold mendStart
  split
  · exact .error _
  · repeat' refine .bind fun _ => ?_
    split <;> exact .ok rfl

theorem mendStatus_led (e : Env) : Answers (· = s.led) (mendStatus s e) := .bind fun _ => .ok rfl

end

end Sys2Proof.Machine
end

section
/-! SUPPORT. What firmware, administration, queues, the host interface, DRAM and management leave of the ledger: of these a
LEDGERTAB image that comes into force is the one thing that touches it (R64, R466, R469). -/

namespace Sys2Proof.Machine

section
variable (s : State)

/-! ### Firmware -/

theorem fwStage_led (e : Env) : Answers (· = s.led) (fwStage s e) := by
  refine .bind fun _ => ?_
  simp only
  split
  · exact .ok rfl
  · exact .bind fun _ => .bind fun _ => .ok rfl
  · exact .ok rfl
  · exact .ok rfl

theorem fwActivate_led (e : Env) : Answers (· = s.led) (fwActivate s e) := by
  unfold fwActivate
  split
  · exact .error _
  · split
    · exact .error _
    · exact .ok (State.foldl_led _ (fun s _ => s.sendMgmt_led ..) _)

@[simp] theorem State.activateAccept_led (m mask : Nat) : (s.activateAccept m mask).led = s.led := by
  unfold State.activateAccept
  split <;> rfl

@[simp] theorem State.activateFail_led (o : Option Activate) (id : Nat) : (s.activateFail o id).led = s.led := by
  unfold State.activateFail
  split
  · rfl
  · simp only
    split <;> rfl

@[simp] theorem State.fwBit_led (b : Nat) : (s.fwBit b).led = s.led := by
  unfold State.fwBit
  split <;> rfl

theorem State.switchKind_moves (k window : Nat) : s.led.Moves (s.switchKind k window).led := by
  unfold State.switchKind
  simp only
  split
  · exact .refl
  · split
    · exact .refl
    · split
      · exact .single (.switch _)
      · split <;> exact .refl

theorem State.switches_moves (tick : Nat) : s.led.Moves (s.switches tick).led := by
  refine State.foldl_moves _ .refl fun s a => ?_
  have hkinds : s.led.Moves ((maskKinds a.mask).foldl (fun s k => s.switchKind k a.window) s).led :=
    State.foldl_moves _ .refl fun s k => s.switchKind_moves k a.window
  simp only
  split <;> exact hkinds

theorem State.failTrial_moves (k : Nat) : s.led.Moves (s.failTrial k).led := by
  unfold State.failTrial
  simp only
  split
  · exact .refl
  · split
    · exact .refl
    · rw [State.fwBit_led]
      split
      · exact .single (.switch _)
      · exact .refl

theorem State.countTrials_moves (summary : Bool) : s.led.Moves (s.countTrials summary).led := by
  unfold State.countTrials
  simp only
  refine State.foldl_moves _ .refl fun s k => ?_
  split
  · exact .refl
  · split
    · exact s.failTrial_moves k
    · split <;> exact .refl

theorem fwConfirm_led (e : Env) : Answers (· = s.led) (fwConfirm s e) := by
  refine .bind fun _ => ?_
  split
  · exact .error _
  · refine .ok ?_
    split
    · rfl
    · exact State.fwBit_led ..

theorem attest_led (e : Env) : Answers (· = s.led) (attest s e) := by
  unfold attest
  simp only
  split
  · exact .bind fun _ => .bind fun _ => .ok rfl
  · exact .bind fun _ => .bind fun _ => .ok rfl

@[simp] theorem State.rcvRun_led (op : Nat) (v : Word) (f : Fw → Fw × Status × Nat) : (s.rcvRun op v f).led = s.led := by
  unfold State.rcvRun
  split <;> rfl

/-! ### Administration -/

theorem thaw_led (e : Env) : Answers (· = s.led) (thaw s e) := by
  unfold thaw
  simp only
  split
  · exact .bind fun _ => .bind fun _ => .ok rfl
  · exact .bind fun _ => .bind fun _ => .ok rfl

theorem tickSet_led (e : Env) : Answers (· = s.led) (tickSet s e) :=
  .bind fun _ => .bind fun _ => .bind fun _ => .ok rfl

theorem chainForm_led (e : Env) : Answers (· = s.led) (chainForm s e) := by
  unfold chainForm
  simp only
  split
  · refine .bind fun _ => ?_
    split <;> exact .bind fun _ => .bind fun _ => .bind fun _ => .ok rfl
  · exact .bind fun _ => .bind fun _ => .bind fun _ => .ok rfl

theorem quiet_led (e : Env) : Answers (· = s.led) (quiet s e) := by
  unfold quiet
  split
  · refine .bind fun _ => ?_
    simp only
    split <;> exact .ok rfl
  · exact .bind fun _ => .bind fun _ => .ok rfl

@[simp] theorem State.quietDone_led : s.quietDone.led = s.led := by
  unfold State.quietDone
  split
  · rfl
  · split <;> rfl

/-! ### Queues, resets of functions, register writes -/

@[simp] theorem State.qctl_led (q v : Nat) : (s.qctl q v).led = s.led := by
  unfold State.qctl
  simp only
  split <;> rfl

@[simp] theorem State.pfReset_led : s.pfReset.led = s.led := by
  simp [State.pfReset, State.dropActs]

@[simp] theorem State.linkGone_led : s.linkGone.led = s.led := by
  unfold State.linkGone
  simp only
  split
  · exact State.pfReset_led _
  · rfl

@[simp] theorem State.writeQueue_led (fn slot r v : Nat) : (s.writeQueue fn slot r v).led = s.led := by
  unfold State.writeQueue
  split
  · split <;> rfl
  · split
    · rfl
    · split
      · exact State.qctl_led ..
      · rfl

@[simp] theorem State.writeDoorbell_led (fn slot r v : Nat) : (s.writeDoorbell fn slot r v).led = s.led := by
  unfold State.writeDoorbell
  simp only [execDoorbellSq, execDoorbellCq, execDoorbellRr, onCoreT_eq]
  repeat' split
  all_goals rfl

@[simp] theorem State.writePf_led (off v : Nat) : (s.writePf off v).led = s.led := by
  unfold State.writePf
  simp only
  repeat' refine State.led_ite ?_ ?_
  all_goals rfl

@[simp] theorem State.writeMailbox_led (off v : Nat) : (s.writeMailbox off v).led = s.led := by
  unfold State.writeMailbox
  simp only [execRecoveryBegin, execRecoveryWrite, execRecoveryVerify, execRecoveryCommit]
  split
  · repeat' split
    all_goals exact State.rcvRun_led ..
  · repeat' split
    all_goals rfl

@[simp] theorem State.writeMsix_led (fn off v : Nat) : (s.writeMsix fn off v).led = s.led := by
  unfold State.writeMsix
  simp only
  repeat' refine State.led_ite ?_ ?_
  all_goals rfl

@[simp] theorem State.writeConfig_led (fn off v : Nat) : (s.writeConfig fn off v).led = s.led := by
  unfold State.writeConfig
  simp only
  repeat' refine State.led_ite ?_ ?_
  all_goals rfl

@[simp] theorem State.write32_led (fn bar off v : Nat) : (s.write32 fn bar off v).led = s.led := by
  unfold State.write32
  refine State.led_ite (State.led_ite ?_ rfl) (State.led_ite rfl (State.led_ite ?_ (State.led_ite rfl (State.led_ite
    (State.led_ite ?_ rfl) (State.led_ite rfl (State.led_ite (State.led_ite ?_ (State.led_ite ?_ ?_))
      (State.led_ite ?_ (State.led_ite ?_ rfl))))))))
  · exact State.writeConfig_led ..
  · exact State.writeMsix_led ..
  · exact State.writeMailbox_led ..
  · exact State.writeQueue_led ..
  · exact State.writeDoorbell_led ..
  · exact State.writePf_led ..
  · exact State.writeQueue_led ..
  · exact State.writeDoorbell_led ..

/-! ### Commands that fail at a step -/

@[simp] theorem State.moveFails_led (run n : Nat) : (s.moveFails run n).led = s.led := by
  unfold State.moveFails
  simp only
  split
  · rfl
  · split
    · rfl
    · exact State.mendLog_led ..

@[simp] theorem State.failAt_led (run : Nat) (st : Status) (which : Run → Bool) : (s.failAt run st which).led = s.led := by
  unfold State.failAt
  simp only
  split
  · rfl
  · split
    · rfl
    · exact State.moveFails_led ..
    · rfl
    · rfl
    · split <;> rfl

@[simp] theorem State.failSent_led (r : Nat) (st : Status) : (s.failSent r st).led = s.led := State.failAt_led ..

@[simp] theorem State.lostAt_led (r : Run) (dram : Bool) (w : Option ErrAt) : (s.lostAt r dram w).led = s.led := by
  unfold State.lostAt
  simp only
  split
  · rfl
  · rfl
  · split
    · exact State.failAt_led ..
    · split
      · exact State.failAt_led ..
      · split <;> exact State.failAt_led ..

/-! ### Management -/

@[simp] theorem State.answer_led (b : Bus) (l : List Byte) : (s.answer b l).led = s.led := by
  cases b <;> rfl

end

end Sys2Proof.Machine
end

section
/-! SUPPORT. What the build, the seal, the steps and the tick boundary do to the ledger: they read the meter and plan the
next tick; the boundary calibrates, switches images and takes up a contract (R55 to R57, R63, R64, R68, R70). -/

namespace Sys2Proof.Machine

section
variable (s : State)

/-! ### The build and the seal -/

/-- The figures of a build are those of the next tick. -/
theorem State.budgetFor_bounded (vb : Nat) : (s.budgetFor vb).bounded = s.led.bounded := by
  have h (v b f : Nat) (c : Tab (Option (Nat × Nat))) (i : Nat) : ({ s.led with
    nextVb := v, nextBudget := b, nextFloor := f, nextCoef := c, nextImg := i } : Ledger).bounded = s.led.bounded := rfl
  exact h ..

@[simp] theorem State.sendSteps_led (h : Sheaf) : (s.sendSteps h).led = s.led :=
  State.foldl_led _ (fun _ _ => State.foldl_led _ (fun s _ => s.sendMgmt_led ..) _) _

theorem State.passes_eq (b : Build) (insts runs : Nat) : ∃ c t x, s.passes b insts runs =
    { s with core := c, tick := t, led := { s.led with nextShort := x } } := ⟨_, _, _, rfl⟩

theorem State.passes_bounded (b : Build) (insts runs : Nat) : (s.passes b insts runs).led.bounded = s.led.bounded := by
  obtain ⟨c, t, x, h⟩ := s.passes_eq b insts runs
  rw [h]
  rfl

theorem State.sealSheaf_bounded (done : Nat) : (s.sealSheaf done).led.bounded = s.led.bounded := by
  have hplan (l : Ledger) (n : Nat) : ({ l with nextPlan := n } : Ledger).bounded = l.bounded := rfl
  have hshort (l : Ledger) (x : Bool) : ({ l with nextShort := x } : Ledger).bounded = l.bounded := rfl
  unfold State.sealSheaf
  simp only
  refine (hplan _ _).trans ?_
  split
  · rfl
  · exact (hshort _ _).trans (s.budgetFor_bounded _)

/-! ### Steps -/

@[simp] theorem State.sendSeam_led (r : Run) (p : Nat) : (s.sendSeam r p).led = s.led := by
  obtain ⟨n, l, h⟩ := s.sendSeam_eq r p
  rw [h]

theorem State.begin_bounded (r : Run) (e : Engine) (t : Nat) (p : PStep) (slot : Option PSlot) :
    (s.begin r e t p slot).led.bounded = s.led.bounded := by
  unfold State.begin
  simp only
  split
  · exact Ledger.mark_bounded ..
  · rfl

theorem State.launchStep_bounded (r : Run) (e : Engine) (t : Nat) (p : PStep) (slot : Option PSlot) :
    (s.launchStep r e t p slot).led.bounded = s.led.bounded := by
  unfold State.launchStep
  simp only
  split
  · split
    · exact (congrArg _ (State.sendSeam_led ..)).trans (State.begin_bounded ..)
    · exact State.begin_bounded ..
  · split
    · exact (congrArg _ (State.sendSeam_led ..)).trans (State.begin_bounded ..)
    · exact State.begin_bounded ..
  · rfl
  · rfl

@[simp] theorem State.shareStart_led (r : Run) : (s.shareStart r).led = s.led := by
  unfold State.shareStart
  split
  · split <;> rfl
  · rfl

@[simp] theorem State.overrun_led (r : Run) (a : Active) (t : Nat) : (s.overrun r a t).led = s.led := by
  unfold State.overrun
  split
  · split <;> rfl
  · rfl

theorem State.meter_bounded (r : Run) (a : Active) (t grains : Nat) : (s.meter r a t grains).led.bounded = s.led.bounded := by
  unfold State.meter
  simp only [State.overrun_led]
  exact Ledger.step_bounded ..

@[simp] theorem State.stepEnds_led (r : Run) (a : Active) (t : Nat) (how : StepHow) : (s.stepEnds r a t how).led = s.led := by
  unfold State.stepEnds
  simp only
  repeat' split
  all_goals simp

/-! ### Records of a tick -/

@[simp] theorem State.healthRec_led (moves : List Nat) (k : Nat) (p : Part) : (s.healthRec moves k p).led = s.led := by
  unfold State.healthRec
  split <;> rfl

@[simp] theorem State.healthRecs_led (moves : List Nat) (gone : Nat → Bool) : (s.healthRecs moves gone).led = s.led :=
  State.foldl_led _ (fun _ _ => State.healthRec_led ..) s

@[simp] theorem State.streamRec_led (next k : Nat) (x : Ctx) : (s.streamRec next k x).led = s.led := by
  unfold State.streamRec
  split <;> rfl

@[simp] theorem State.streamRecs_led (next : Nat) : (s.streamRecs next).led = s.led :=
  State.foldl_led s.core.ctxs (f := fun s e => s.streamRec next e.1 e.2) (fun _ _ => State.streamRec_led ..) s

@[simp] theorem State.boundaryRecs_led (next floor : Nat) (m : Boundary) (moves : List Nat) (gone : Nat → Bool) :
    (s.boundaryRecs next floor m moves gone).1.led = s.led := by
  simp [State.boundaryRecs]

/-! ### The tick that ends -/

/-- A tick that ends is calibrated, but not where a LEDGERTAB image switches (R63, Table 19-5). -/
theorem State.closeLedger_moves (next floor : Nat) (m : Boundary) : s.led.Moves (s.closeLedger next floor m).led := by
  have hcal : s.led.Moves (if s.fw.tabSwitch next then s.led else s.led.calibrated s.core.free) := by
    split
    · exact .refl
    · exact .single (.calibrate _)
  have hrest (l : Ledger) (f : List Nat) (v : Option Nat) (b p e n : Nat) : ({ l with
    floors := f, vbLast := v, vb := b, planned := p, measured := e, throttles := n } : Ledger).bounded = l.bounded := rfl
  exact hcal.tail (.other (hrest ..))

@[simp] theorem State.decideMoves_led (next : Nat) (m : Boundary) : (s.decideMoves next m).1.led = s.led := by
  unfold State.decideMoves
  rfl

theorem State.tickEnds_moves (next : Nat) (m : Boundary) : s.led.Moves (s.tickEnds next m).1.led := by
  unfold State.tickEnds
  simp only
  refine .trans ?_ (State.countTrials_moves ..)
  refine .trans ?_ (State.closeLedger_moves ..)
  rw [State.boundaryRecs_led, State.decideMoves_led, State.foldl_led _ (fun _ _ => by simp)]
  exact Ledger.Moves.other (Ledger.mended_bounded ..)

/-! ### The boundary -/

@[simp] theorem State.formAt_led (next : Nat) : (s.formAt next).led = s.led := by
  unfold State.formAt
  split
  · rfl
  · split
    · rfl
    · simp only
      split <;> rfl

@[simp] theorem State.remaster_led : s.remaster.led = s.led := by
  unfold State.remaster
  simp only
  split <;> rfl

@[simp] theorem State.adopt_led (next : Nat) : (s.adopt next).1.led = s.led := by
  unfold State.adopt
  split
  · rfl
  · split <;> rfl

@[simp] theorem State.holdOver_led : s.holdOver.led = s.led := by
  unfold State.holdOver
  split
  · rfl
  · split <;> rfl

@[simp] theorem State.agePorts_led : s.agePorts.led = s.led := by
  refine State.foldl_led _ (fun s p => ?_) s
  exact State.led_ite rfl (State.led_ite rfl rfl)

@[simp] theorem State.tillerEpochs_led (old : Nat → List (Nat × Nat × Nat)) : (s.tillerEpochs old).led = s.led := rfl

theorem State.boundaryActs_moves (next : Nat) (m : Boundary) (streams : List (Nat × Nat)) (old : Nat → List (Nat × Nat × Nat)) :
    s.led.Moves (s.boundaryActs next m streams old).led := by
  have hchange : s.led.Moves (((s.switches next).formAt next).led.changeAt next) := by
    rw [State.formAt_led]
    exact (s.switches_moves next).tail (.change next)
  unfold State.boundaryActs
  simp only [State.tellMembers_led, State.quietDone_led, State.agePorts_led, State.tillerEpochs_led, State.startActs_led,
    State.retirements_led, State.darnings_led]
  split <;> exact hchange

theorem State.tickBegins_moves (next len : Nat) : s.led.Moves (s.tickBegins next len).led := by
  have hnext := s.led.next_moves s.tick.period s.core.activeEntries
  unfold State.tickBegins
  simp only
  split
  · exact hnext
  · exact hnext

/-- A boundary seals the sheaf where nothing has, closes the tick, carries out what is due, and begins the next tick (R40). -/
theorem execTickBoundary_moves (m : Boundary) : LedgerTo s.led.Moves (execTickBoundary m s) := by
  unfold execTickBoundary
  simp only [LedgerTo]
  split
  · exact .refl
  · have hsealed : s.led.Moves (if s.tick.sealed then s else s.sealSheaf 0).led := by
      split
      · exact .refl
      · exact Ledger.Moves.other (s.sealSheaf_bounded 0)
    refine .trans hsealed (.trans ?_ (State.tickBegins_moves ..))
    refine .trans ?_ (State.boundaryActs_moves ..)
    refine .trans (Ledger.Moves.of_eq ?_) (State.tickEnds_moves ..)
    rw [State.adopt_led, State.remaster_led, State.holdOver_led]

end

end Sys2Proof.Machine
end

section
/-! SUPPORT. The rows of more than one condition, one by one: each leaves the ledger as it was, or moves it along. -/

namespace Sys2Proof.Machine

section
variable (s : State)

/-! ### Mending -/

theorem execArraySelfTest_moves (rows : List Nat) (on : List Metered) : LedgerTo s.led.Moves (execArraySelfTest rows s on) := by
  unfold execArraySelfTest LedgerTo
  simp only
  split
  · exact .refl
  · rw [State.foldl_led _ (fun _ _ => State.mendLog_led ..)]
    refine Ledger.Moves.other (Eq.trans ?_ (s.led.mended_bounded on))
    split <;> rfl

theorem execSramPatrolScrub_moves (st : Store) (corrected bad : Nat) (w : Option ErrAt) (on : List Metered) :
    LedgerTo s.led.Moves (execSramPatrolScrub st corrected bad w s on) := by
  have hon : s.led.Moves (s.led.mended on) := .other (s.led.mended_bounded on)
  unfold execSramPatrolScrub LedgerTo
  simp only
  split
  · split
    · exact .refl
    · split
      · exact hon
      · rwa [State.logError_led]
  · split
    · exact hon
    · rwa [State.logError_led]
  · split
    · exact hon
    · rwa [State.logError_led]

theorem execDramPatrolScrub_moves (ch : Nat) (e : Ecc) (w : Option ErrAt) (on : List Metered) :
    LedgerTo s.led.Moves (execDramPatrolScrub ch e w s on) := by
  have hon : s.led.Moves (s.led.mended on) := .other (s.led.mended_bounded on)
  refine .ite .refl ?_
  simp only
  split
  · rwa [State.logError_led]
  · exact hon

theorem execFlashReadVerify_led (ok : Bool) : LedgerTo (· = s.led) (execFlashReadVerify ok s) := by
  refine .ite rfl ?_
  split
  · exact State.mendLog_led ..
  · refine State.led_ite rfl (State.led_ite ?_ ?_)
    · exact State.mendLog_led ..
    · simp

theorem execDeferredActivityStart_led (code target : Nat) : LedgerTo (· = s.led) (execDeferredActivityStart code target s) := by
  unfold execDeferredActivityStart LedgerTo
  simp only
  split
  · rfl
  · exact State.led_ite rfl (State.led_ite rfl rfl)

/-! ### Firmware -/

theorem execActivateNotice_led (p : Nat) (n : ActNotice) : LedgerTo (· = s.led) (execActivateNotice p n s) :=
  .ite rfl (State.led_ite rfl rfl)

theorem execActivateCancel_led (p origin mask : Nat) : LedgerTo (· = s.led) (execActivateCancel p origin mask s) := by
  refine .ite rfl ?_
  split <;> rfl

theorem execTrialWindowExpiry_moves (kind : Nat) : LedgerTo s.led.Moves (execTrialWindowExpiry kind s) :=
  .ite (s.failTrial_moves kind) .refl

theorem execProcessorTrap_led (cpu : Nat) : LedgerTo (· = s.led) (execProcessorTrap cpu s) := by
  unfold execProcessorTrap LedgerTo
  simp only
  split
  · rfl
  · exact State.led_ite rfl (State.led_ite rfl (State.led_ite rfl rfl))

theorem execWatchdogExpiry_led (cpu : Nat) : LedgerTo (· = s.led) (execWatchdogExpiry cpu s) := by
  unfold execWatchdogExpiry LedgerTo
  simp only
  split
  · rfl
  · exact State.led_ite rfl rfl

theorem execRecoveryDownloadMessage_led (b : Bus) (v : Word) (off : Nat) (data : List Byte) :
    LedgerTo (· = s.led) (execRecoveryDownloadMessage b v off data s) := by
  refine .ite rfl ?_
  simp only
  split
  · exact State.rcvRun_led ..
  · exact State.led_ite (State.rcvRun_led ..) rfl
  · exact State.rcvRun_led ..
  · exact State.rcvRun_led ..

/-! ### The host interface -/

theorem execQueueEnable_led (fn slot : Nat) (v : Word) : LedgerTo (· = s.led) (execQueueEnable fn slot v s) := by
  unfold execQueueEnable LedgerTo
  simp only
  split
  · rfl
  · exact State.led_ite (State.qctl_led ..) rfl

theorem execQueueDisable_led (fn slot : Nat) (v : Word) : LedgerTo (· = s.led) (execQueueDisable fn slot v s) := by
  unfold execQueueDisable LedgerTo
  simp only
  split
  · rfl
  · exact State.led_ite rfl (State.qctl_led ..)

theorem execRegisterWrite_led (fn bar off size be : Nat) (v : DWord) :
    LedgerTo (· = s.led) (execRegisterWrite fn bar off size be v s) := by
  have hlow : (if be % 16 == 0xF then s.write32 fn bar off (v.toNat % 2 ^ 32) else s).led = s.led :=
    State.led_ite (State.write32_led ..) rfl
  exact .ite rfl (State.led_ite hlow (State.led_ite (State.led_ite ((State.write32_led ..).trans hlow) hlow) rfl))

/-! ### DRAM -/

theorem execDramUrgencyRise_led (ch id t : Nat) : LedgerTo (· = s.led) (execDramUrgencyRise ch id t s) := by
  unfold execDramUrgencyRise LedgerTo
  simp only
  split <;> rfl

theorem execDramReadReturn_led (ch id t : Nat) (e0 e1 : Ecc) (w : Option ErrAt) :
    LedgerTo (· = s.led) (execDramReadReturn ch id t e0 e1 w s) := by
  unfold execDramReadReturn LedgerTo
  simp only
  split
  · rfl
  · refine State.led_ite rfl ?_
    split
    · exact State.logError_led ..
    · split
      · exact State.logError_led ..
      · exact (State.lostAt_led ..).trans (State.logError_led ..)

/-! ### Links -/

theorem execHello_led (p : Nat) (h : Hello) : LedgerTo (· = s.led) (execHello p h s) := by
  refine .ite rfl ?_
  simp only [State.updPort_led]
  exact State.led_ite rfl rfl

theorem execFlitReceive_led (p : Nat) (f : Flit) (crcOk : Bool) (fec : Nat) :
    LedgerTo (· = s.led) (execFlitReceive p f crcOk fec s) :=
  .ite rfl (State.led_ite rfl (State.led_ite rfl (State.routeFlit_led ..)))

theorem execMgmtReply_led (id : Nat) (r : Reply) : LedgerTo (· = s.led) (execMgmtReply id r s) := by
  refine .ite rfl ?_
  split
  · rfl
  · simp only
    split <;> simp

theorem execReplyTimeout_led (id : Nat) : LedgerTo (· = s.led) (execReplyTimeout id s) := by
  refine .ite rfl ?_
  split
  · rfl
  · split <;> simp

theorem execGrantTimeout_led (part : Nat) : LedgerTo (· = s.led) (execGrantTimeout part s) := by
  unfold execGrantTimeout LedgerTo
  simp only
  split <;> simp

theorem execGrantRequest_led (p : Nat) (g : GrantReq) : LedgerTo (· = s.led) (execGrantRequest p g s) := by
  refine .ite rfl ?_
  split
  · next t h => simp [State.takeGrant_led h]
  · rfl

theorem execMasterLost_led : LedgerTo (· = s.led) (execMasterLost s) := .ite rfl (State.led_ite rfl rfl)

theorem execTickFlit_led (p : Nat) (k : TickPay) (t : Nat) : LedgerTo (· = s.led) (execTickFlit p k t s) :=
  .ite rfl (State.led_ite rfl (State.sendTick_led ..))

/-! ### Build, seal and steps -/

theorem execCutOff_moves (b : Build) : LedgerTo s.led.Moves (execCutOff b s) := by
  have hvb (l : Ledger) (n : Nat) : ({ l with vb := n } : Ledger).bounded = l.bounded := rfl
  unfold execCutOff LedgerTo
  simp only
  split
  · exact .refl
  · rw [State.sendSteps_led]
    refine .other ((State.passes_bounded ..).trans ?_)
    exact (hvb (s.budgetFor b.vbMv) _).trans (s.budgetFor_bounded _)

theorem execMemberStepList_moves (p lead part : Nat) (steps : List MemberStep) :
    LedgerTo s.led.Moves (execMemberStepList p lead part steps s) := by
  refine .ite .refl ?_
  split
  · exact .refl
  · simp only
    split
    · split
      · exact .refl
      · exact .other (State.passes_bounded ..)
    · exact .refl

theorem execSealDeadline_moves (done : Nat) : LedgerTo s.led.Moves (execSealDeadline done s) :=
  .ite (.other (s.sealSheaf_bounded done)) .refl

theorem execStepStart_moves (run : Nat) (e : Engine) (t : Nat) : LedgerTo s.led.Moves (execStepStart run e t s) := by
  unfold execStepStart LedgerTo
  simp only
  split
  · exact .refl
  · next r _ =>
    have hshare : s.led.Moves (s.shareStart r).led := .of_eq (s.shareStart_led r)
    split
    · exact hshare
    · split
      · exact hshare
      · split
        · exact hshare
        · split
          · exact hshare
          · exact hshare.tail (.other (State.launchStep_bounded ..))

theorem execStepEnd_moves (run : Nat × Engine) (t grains : Nat) (how : StepHow) (fix : Fixed) :
    LedgerTo s.led.Moves (execStepEnd run t grains how fix s) := by
  unfold execStepEnd LedgerTo
  simp only
  split
  · exact .refl
  · next r _ =>
    split
    · exact .refl
    · next a _ =>
      have hmeter : s.led.Moves (s.meter r a t grains).led := .other (s.meter_bounded r a t grains)
      split
      · exact .refl
      · split
        · exact hmeter
        · rwa [State.stepEnds_led]

theorem execStepCut_moves (run : Nat × Engine) : LedgerTo s.led.Moves (execStepCut run s) := by
  unfold execStepCut LedgerTo
  simp only
  split
  · exact .refl
  · split
    · exact .refl
    · exact .refl
    · split
      · exact .refl
      · split
        · exact .other (State.meter_bounded ..)
        · split
          · exact .other (State.meter_bounded ..)
          · exact .other (State.meter_bounded ..)
          · rw [State.failAt_led]
            exact .other (State.meter_bounded ..)

end

end Sys2Proof.Machine
end

section
/-! SUPPORT. The rows against the ledger, all of them, and what follows for an invariant: it holds of a ledger that starts
afresh, and every move keeps it. -/

namespace Sys2Proof.Machine

/-! ### The governor and LEDGER_SET -/

theorem execGovernorRaise_moves (s : State) (ms1 us10 : Nat) : LedgerTo s.led.Moves (execGovernorRaise s ms1 us10) :=
  .ite .refl (.tail (.single .raise) (.other rfl))

theorem execGovernorLower_moves (s : State) (ms1 us10 : Nat) : LedgerTo s.led.Moves (execGovernorLower s ms1 us10) :=
  .ite .refl (.single .lower)

/-- A condition that a command needs holds where the command answers. -/
theorem Answers.need {P : Ledger → Prop} {b : Bool} {x : Stop} {f : Unit → Except Stop (State × Option Run)}
    (h : b = true → Answers P (f ())) : Answers P (need b x >>= f) := by
  cases b with
  | false => exact .error x
  | true => exact h rfl

theorem ledgerSet_moves (s : State) (e : Env) : Answers s.led.Moves (ledgerSet s e) := by
  refine .need fun hrange => .ok (.single (.schedule (_, _) ?_ ?_))
  all_goals
    simp only [Bool.and_eq_true, decide_eq_true_eq] at hrange
    obtain ⟨hlo, hhi⟩ := hrange
    assumption

/-! ### Every row -/

/-- The rows that start the ledger afresh: a module reset, and its end, which samples the straps (R53, R479, R483). -/
def renewsLedger : Instr → Bool
  | .undervoltage | .resetNAssert _ | .thermalTrip | .moduleResetEnd _ _ => true
  | _ => false

theorem exec_moves {i : Instr} (hi : renewsLedger i = false) (s : State) : LedgerTo s.led.Moves (exec i s) := by
  cases i with
  | undervoltage | resetNAssert | thermalTrip | moduleResetEnd => cases hi
  -- rows that reach what the rules bound
  | ledgerSet c => exact State.command_led .refl fun e _ => ledgerSet_moves s e
  | tickBoundary m => exact execTickBoundary_moves s m
  | governorRaise a b => exact execGovernorRaise_moves s a b
  | governorLower a b => exact execGovernorLower_moves s a b
  | trialWindowExpiry kind => exact execTrialWindowExpiry_moves s kind
  | bootEnd v => exact .ite .refl (s.led.first_moves ..)
  -- rows that read the meter or plan
  | cutOff b => exact execCutOff_moves s b
  | sealDeadline n => exact execSealDeadline_moves s n
  | memberStepList p lead part steps => exact execMemberStepList_moves s p lead part steps
  | stepStart run e t => exact execStepStart_moves s run e t
  | stepEnd run t grains how fix => exact execStepEnd_moves s run t grains how fix
  | stepCut run => exact execStepCut_moves s run
  | arraySelfTest rows on => exact execArraySelfTest_moves s rows on
  | sramPatrolScrub st corrected bad w on => exact execSramPatrolScrub_moves s st corrected bad w on
  | dramPatrolScrub ch e w on => exact execDramPatrolScrub_moves s ch e w on
  | telemetryRequest b vin iin tj tdram => exact .ite .refl (.other rfl)
  -- commands that see the whole machine
  | partCreate c => exact State.command_moves (partCreate_led s)
  | partDestroy c => exact State.command_moves (partDestroyAll_led s)
  | partLimits c => exact State.command_moves (partLimits_led s)
  | mendStart c => exact State.command_moves (mendStart_led s)
  | mendStatus c => exact State.command_moves (mendStatus_led s)
  | fwStage c => exact State.command_moves (fwStage_led s)
  | fwActivate c => exact State.command_moves (fwActivate_led s)
  | fwConfirm c => exact State.command_moves (fwConfirm_led s)
  | attest c => exact State.command_moves (attest_led s)
  | thaw c => exact State.command_moves (thaw_led s)
  | tickSet c => exact State.command_moves (tickSet_led s)
  | chainForm c => exact State.command_moves (chainForm_led s)
  | quiet c => exact State.command_moves (quiet_led s)
  -- mending and firmware
  | flashReadVerify ok => exact (execFlashReadVerify_led s ok).moves
  | deferredActivityStart code target => exact (execDeferredActivityStart_led s code target).moves
  | activateNotice p n => exact (execActivateNotice_led s p n).moves
  | activateCancel p origin mask => exact (execActivateCancel_led s p origin mask).moves
  | activateTimeout => exact .ite .refl (.of_eq (State.activateFail_led ..))
  | processorTrap cpu => exact (execProcessorTrap_led s cpu).moves
  | watchdogExpiry cpu => exact (execWatchdogExpiry_led s cpu).moves
  | recoveryBegin v => exact .of_eq (State.rcvRun_led ..)
  | recoveryWrite v => exact .of_eq (State.rcvRun_led ..)
  | recoveryVerify v => exact .of_eq (State.rcvRun_led ..)
  | recoveryCommit v => exact .of_eq (State.rcvRun_led ..)
  | recoveryDownloadMessage b v off data => exact (execRecoveryDownloadMessage_led s b v off data).moves
  -- the host interface
  | queueEnable fn slot v => exact (execQueueEnable_led s fn slot v).moves
  | queueDisable fn slot v => exact (execQueueDisable_led s fn slot v).moves
  | registerWrite fn bar off size be v => exact (execRegisterWrite_led s fn bar off size be v).moves
  | pfFlr => exact .ite (.of_eq s.pfReset_led) .refl
  | hotReset => exact .ite (.of_eq s.pfReset_led) .refl
  | perstAssert => exact .of_eq (State.linkGone_led _)
  | pcieLinkDown => exact .of_eq (State.linkGone_led _)
  -- DRAM
  | dramUrgencyRise ch id t => exact (execDramUrgencyRise_led s ch id t).moves
  | dramReadReturn ch id t e0 e1 w => exact (execDramReadReturn_led s ch id t e0 e1 w).moves
  -- links
  | hello p h => exact (execHello_led s p h).moves
  | flitReceive p f crcOk fec => exact (execFlitReceive_led s p f crcOk fec).moves
  | tickFlit p k t => exact (execTickFlit_led s p k t).moves
  | seamMessage p m => exact .ite (.of_eq (State.deliver_led ..)) .refl
  | bulkMessage p m => exact .ite (.of_eq (State.deliver_led ..)) .refl
  | mgmtReply id r => exact (execMgmtReply_led s id r).moves
  | grantRequest p g => exact (execGrantRequest_led s p g).moves
  | laneLockLoss p => exact .ite (.of_eq (State.portDown_led ..)) .refl
  | replayLimit p => exact .ite (.of_eq (State.portDown_led ..)) .refl
  | controlWordTimeout p => exact .ite (.of_eq (State.portDown_led ..)) .refl
  | replyTimeout id => exact (execReplyTimeout_led s id).moves
  | grantTimeout part => exact (execGrantTimeout_led s part).moves
  | masterLost => exact (execMasterLost_led s).moves
  -- management
  | getVersion | getCapabilities | negotiateAlgorithms | getDigests | getCertificate | challenge | getMeasurements =>
    exact .ite .refl (.of_eq (State.answer_led ..))
  | spdmSessionRequest => exact .ite (.of_eq (State.answer_led ..)) .refl
  -- one condition, and parts of the machine that are not the ledger
  | tckCountLoRead | tickInWindowExpiry | tickInRelock | dramRequestEntry | dramBankIssue | refreshWindowStart |
    controlWordReceive | linkDownNotice | linkUpNotice | vinRise | pwrgdRelease | doeRequest | doeDiscovery | setEndpointId |
    mctpControl | smbusArp | alertResponse | temperatureReading | thermtripRelease => exact .ite .refl .refl
  | portTraining => exact .ite .refl (.of_eq (State.led_ite rfl rfl))
  | tickInEdge =>
    exact .ite .refl (.of_eq (State.led_ite (State.led_ite rfl (State.led_ite rfl rfl)) rfl))
  -- rows that act on the core alone, or without a condition
  | _ => exact Relation.ReflTransGen.refl

/-- The end of a module reset samples the straps; a start that succeeds takes up the LEDGERTAB image (R53, R64, R462, R479). -/
theorem execModuleResetEnd_ledger (st : Straps) (ok : Bool) (s : State) :
    LedgerTo (fun l => l = s.led ∨ (s.led.sampled st.pwrSel).Moves l) (execModuleResetEnd st ok s) := by
  refine .ite (.inl rfl) (.inr ?_)
  simp only
  split
  · exact .refl
  · split
    · exact .refl
    · split
      · exact .refl
      · split
        · exact .refl
        · exact .single (.switch _)

/-- An invariant of the ledger: it holds of a ledger that is cleared or has just sampled the straps, and every move keeps it. -/
structure Ledger.Invariant (P : Ledger → Prop) : Prop where
  cleared : P {}
  sampled : ∀ l sel, P l → P (l.sampled sel)
  move : ∀ {l m : Ledger}, l.Move m → P l → P m

namespace Ledger.Invariant

variable {P : Ledger → Prop} (hP : Ledger.Invariant P)
include hP

theorem exec_keeps (i : Instr) {s : State} (hs : P s.led) : LedgerTo P (exec i s) := by
  have hmoves {l m : Ledger} (h : l.Moves m) (hl : P l) : P m := h.keeps hP.move hl
  cases hi : renewsLedger i with
  | false => exact (exec_moves hi s).mono fun _ h => hmoves h hs
  | true =>
    cases i with
    | undervoltage => exact .ite hs hP.cleared
    | thermalTrip => exact .ite hs hP.cleared
    | resetNAssert ns =>
      refine .ite hs ?_
      split
      · exact hs
      · exact hP.cleared
    | moduleResetEnd st ok =>
      refine (execModuleResetEnd_ledger st ok s).mono fun l h => ?_
      rcases h with rfl | h
      · exact hs
      · exact hmoves h (hP.sampled _ _ hs)
    | _ => cases hi

/-- A step keeps it. -/
theorem step_keeps {s t : State} (hs : P s.led) (h : Machine.step s = .next t) : P t.led := by
  unfold Machine.step at h
  split at h
  · cases h
    exact hs
  · next i rest _ =>
    have hexec := hP.exec_keeps i (s := { s with pending := rest }) hs
    rwa [h] at hexec

end Ledger.Invariant

end Sys2Proof.Machine
end

section
/-! SUPPORT. The invariants of the ledger, move by move: the contract (R53, R69), the coefficients (R64), the levels
(R66). -/

namespace Sys2Proof.Machine

/-! ### The contract -/

/-- No strap goes below the lowest contract (R53). -/
theorem le_strapW (code : Nat) : 40 ≤ strapW code := by
  unfold strapW
  split
  · omega
  · split <;> omega

theorem Ledger.contractOk_of_bounded {l m : Ledger} (h : m.bounded = l.bounded) (hl : l.contractOk) : m.contractOk := by
  obtain ⟨⟨hstrap, hcontract, hpending⟩, -⟩ := Ledger.bounded_eq.1 h
  unfold Ledger.contractOk
  rwa [hstrap, hcontract, hpending]

/-- A scheduled contract that takes effect was in range when it was scheduled (R70). -/
theorem Ledger.contractOk_changeAt {l : Ledger} (hl : l.contractOk) (tick : Nat) : (l.changeAt tick).contractOk := by
  obtain ⟨-, -, hpending⟩ := id hl
  unfold Ledger.changeAt
  split
  · next w eff h =>
    split
    · obtain ⟨hlo, hhi⟩ := hpending _ h
      exact ⟨hlo, hhi, nofun⟩
    · exact hl
  · exact hl

theorem Ledger.contractOk_invariant : Ledger.Invariant Ledger.contractOk where
  cleared := ⟨by decide, by decide, nofun⟩
  sampled _ sel _ := ⟨le_strapW (sel % 4), le_rfl, nofun⟩
  move {l m} hmove hl := by
    obtain ⟨hlo, hhi, -⟩ := id hl
    cases hmove with
    | schedule x hxlo hxhi => exact ⟨hlo, hhi, by rintro _ ⟨⟩; exact ⟨hxlo, hxhi⟩⟩
    | change tick => exact Ledger.contractOk_changeAt hl tick
    | calibrate | switch | raise | lower | rest => exact hl
    | other h => exact Ledger.contractOk_of_bounded h hl

/-! ### The coefficients -/

/-- What is cut to the range of R64 lies in it. -/
theorem inRange64_bound64 (v x : Nat) : inRange64 v (bound64 v x) := by
  unfold inRange64 bound64
  omega

/-- A coefficient that is calibrated stays in its range: what R63 and R68 give is cut to it. -/
theorem inRange64_calibrate {v c : Nat} (hc : inRange64 v c) (draw p g : Nat) (throttled : Bool) :
    inRange64 v (calibrate draw v c p g throttled) := by
  unfold calibrate
  simp only
  split
  · exact inRange64_bound64 ..
  · split
    · split
      · exact hc
      · exact inRange64_bound64 ..
    · exact inRange64_bound64 ..

/-- The image value lies in its own range. -/
theorem inRange64_self (v : Nat) : inRange64 v v := by
  unfold inRange64
  omega

/-- The coefficients of an entry lie in the ranges around its image values. -/
def pairInRange (img k : Nat) (x : Nat × Nat) : Prop := inRange64 (imageCost img k).1 x.1 ∧ inRange64 (imageCost img k).2 x.2

theorem pairInRange_getD {l : Ledger} (hl : l.coefOk) (k : Nat) :
    pairInRange l.img k ((Tab.get none l.coef k).getD (imageCost l.img k)) := by
  cases h : Tab.get none l.coef k with
  | none => exact ⟨inRange64_self _, inRange64_self _⟩
  | some x => exact hl k x h

/-- Calibration sets coefficients of the entries that ran, from what they were before it, in their ranges (R63, R64, R68). -/
theorem Ledger.coefOk_calibrated {l : Ledger} (hl : l.coefOk) (draw : Nat) : (l.calibrated draw).coefOk := by
  refine List.foldlRecOn (motive := fun t : Tab (Option (Nat × Nat)) => ∀ k x, Tab.get none t k = some x → pairInRange l.img k x)
    l.ran _ hl fun t ht e _ k x hx => ?_
  rw [Tab.get_set] at hx
  split at hx
  · next hk =>
    subst hk
    cases hx
    obtain ⟨hfixed, hunit⟩ := pairInRange_getD hl e.1
    exact ⟨inRange64_calibrate hfixed .., inRange64_calibrate hunit ..⟩
  · exact ht k x hx

theorem Ledger.coefOk_of_eq {l m : Ledger} (hcoef : m.coef = l.coef) (himg : m.img = l.img) (hl : l.coefOk) : m.coefOk := by
  unfold Ledger.coefOk
  rwa [hcoef, himg]

theorem Ledger.coefOk_changeAt {l : Ledger} (hl : l.coefOk) (tick : Nat) : (l.changeAt tick).coefOk := by
  unfold Ledger.changeAt
  split
  · split
    · exact hl
    · exact hl
  · exact hl

theorem Ledger.coefOk_invariant : Ledger.Invariant Ledger.coefOk where
  cleared := nofun
  sampled _ _ hl := hl
  move {l m} hmove hl := by
    cases hmove with
    | schedule | raise | lower | rest => exact hl
    | change tick => exact Ledger.coefOk_changeAt hl tick
    | calibrate draw => exact Ledger.coefOk_calibrated hl draw
    | switch => exact nofun
    | other h =>
      obtain ⟨-, ⟨hcoef, himg⟩, -⟩ := Ledger.bounded_eq.1 h
      exact Ledger.coefOk_of_eq hcoef himg hl

/-! ### The governor -/

/-- The governor's levels are those of Table 3-3. -/
def Ledger.levelOk (l : Ledger) : Prop := l.level ≤ 4 ∧ l.levelMax ≤ 4

theorem Ledger.levelOk_changeAt {l : Ledger} (hl : l.levelOk) (tick : Nat) : (l.changeAt tick).levelOk := by
  unfold Ledger.changeAt
  split
  · split
    · exact hl
    · exact hl
  · exact hl

theorem Ledger.levelOk_invariant : Ledger.Invariant Ledger.levelOk where
  cleared := ⟨by decide, by decide⟩
  sampled _ _ hl := hl
  move {l m} hmove hl := by
    obtain ⟨hlevel, hmax⟩ := id hl
    cases hmove with
    | schedule | calibrate | switch => exact hl
    | change tick => exact Ledger.levelOk_changeAt hl tick
    | raise => exact ⟨min_le_left .., max_le hmax (min_le_left ..)⟩
    | lower => exact ⟨(Nat.sub_le ..).trans hlevel, hmax⟩
    | rest => exact ⟨hlevel, hlevel⟩
    | other h =>
      obtain ⟨-, -, hlevel', hmax'⟩ := Ledger.bounded_eq.1 h
      exact ⟨hlevel'.trans_le hlevel, hmax'.trans_le hmax⟩

/-- The row of the governor while a limit is exceeded (R66, R68). -/
theorem execGovernorRaise_exceeded {s : State} {ms1 us10 : Nat} (hoff : s.core.mstate ≠ .off)
    (h : s.led.exceeded ms1 us10 = true) :
    execGovernorRaise s ms1 us10 = .next ({ s with led := s.led.raised } : State).throttle := by
  simp [execGovernorRaise, hoff, h, Ledger.raised]

theorem execGovernorLower_calm {s : State} {ms1 us10 : Nat} (hoff : s.core.mstate ≠ .off)
    (h : s.led.calm ms1 us10 = true) : execGovernorLower s ms1 us10 = .next { s with led := s.led.lowered } := by
  simp [execGovernorLower, hoff, h, Ledger.lowered]

/-- The steps that run are marked as lengthened (R68). -/
theorem State.throttle_stalled (s : State) : ∀ r ∈ s.throttle.core.runs, ∀ a ∈ r.active, a.stalled = true := by
  intro r hr a ha
  obtain ⟨r', -, rfl⟩ := List.mem_map.1 hr
  obtain ⟨a', -, rfl⟩ := List.mem_map.1 ha
  rfl

/-- The two limits of R65, over 1 ms and, 1.25 times it, over 10 µs. -/
theorem Ledger.exceeded_iff (l : Ledger) (ms1 us10 : Nat) :
    l.exceeded ms1 us10 = true ↔ l.ceiling < ms1 ∨ 5 * l.ceiling < 4 * us10 := by
  simp [Ledger.exceeded]

/-- The ceilings of Table 3-1. -/
theorem Ledger.ceiling_eq (l : Ledger) : l.ceiling = if l.strap = 1 then 12500 else if l.strap = 2 then 20833 else 6250 := by
  simp [Ledger.ceiling]

/-! ### LEDGER_SET -/

/-- The contract that a LEDGER_SET names (R69). -/
def Env.watts (e : Env) (l : Ledger) : Nat := if e.sub == 0 then e.word 0 else strapW l.strap

/-- LEDGER_SET in range schedules its contract, at least two ticks ahead (R69, R70). -/
theorem ledgerSet_ok {s : State} {e : Env} (hlo : 40 ≤ e.watts s.led) (hhi : e.watts s.led ≤ strapW s.led.strap) :
    ledgerSet s e = .ok ({ s with led := s.led.scheduled (e.watts s.led, max (e.long 1) (e.now + 2)) },
      some (quick (max (e.long 1) (e.now + 2) % 2 ^ 32))) := by
  have hneed : need (decide (40 ≤ e.watts s.led) && decide (e.watts s.led ≤ strapW s.led.strap)) .malformed = .ok () := by
    simp [need, hlo, hhi]
  unfold ledgerSet
  simp only
  unfold Env.watts at hneed
  rw [hneed]
  rfl

/-- Out of range it is refused (R69). -/
theorem ledgerSet_error {s : State} {e : Env} (h : ¬ (40 ≤ e.watts s.led ∧ e.watts s.led ≤ strapW s.led.strap)) :
    ledgerSet s e = .error .malformed := by
  have hneed : need (decide (40 ≤ e.watts s.led) && decide (e.watts s.led ≤ strapW s.led.strap)) .malformed =
      .error .malformed := by
    simp only [need, Bool.and_eq_true, decide_eq_true_eq, if_neg h]
  unfold ledgerSet
  simp only
  unfold Env.watts at hneed
  rw [hneed]
  rfl

end Sys2Proof.Machine

open Sys2Proof Sys2Proof.Machine

/-- Settles O31: the contract is an invariant of the ledger, which LEDGER_SET, the straps and the boundary alone move. -/
theorem contractStaysUnderTheStrap : Obligations.ContractStaysUnderTheStrap :=
  fun _ _ => Ledger.contractOk_invariant.step_keeps

/-- Settles O33: the range of coefficients is an invariant of the ledger; calibration cuts to it, and an image starts afresh. -/
theorem coefficientsStayInRange : Obligations.CoefficientsStayInRange :=
  fun _ _ => Ledger.coefOk_invariant.step_keeps

/-- Settles O34: the two rows of the governor, the limits of the strap, and the levels as an invariant of the ledger. -/
theorem governorLevels : Obligations.GovernorLevels := by
  unfold Obligations.GovernorLevels
  refine ⟨fun ms1 us10 s hoff => ⟨fun h => ?_, execGovernorLower_calm hoff⟩, fun ms1 us10 l => ?_, fun s t hlevel hmax =>
    Ledger.levelOk_invariant.step_keeps ⟨hlevel, hmax⟩⟩
  · exact ⟨_, execGovernorRaise_exceeded hoff h, rfl, rfl, State.throttle_stalled _, rfl⟩
  · rw [Ledger.exceeded_iff, Ledger.ceiling_eq]

/-- Settles O30: the contract that the command names is in range, and the shared course of commands launches it, or is refused. -/
theorem ledgerSetSchedules : Obligations.LedgerSetSchedules := by
  unfold Obligations.LedgerSetSchedules
  intro c s e hready
  have hset (hlo : 40 ≤ e.watts s.led) (hhi : e.watts s.led ≤ strapW s.led.strap) :=
    State.command_finished (c := c) hready (ledgerSet_ok hlo hhi) nofun
  refine ⟨fun hsub hlo hhi => ?_, fun hsub => ?_, fun hsub hout => ?_⟩
  · have hw : e.watts s.led = e.word 0 := by simp [Env.watts, hsub]
    have h := hset (hw ▸ hlo) (hw ▸ hhi)
    rw [hw] at h
    exact h
  · have hw : e.watts s.led = strapW s.led.strap := by simp [Env.watts, hsub]
    have h := hset (hw ▸ le_strapW _) hw.le
    rw [hw] at h
    exact h
  · have hw : e.watts s.led = e.word 0 := by simp [Env.watts, hsub]
    have herror : ledgerSet s e = .error .malformed := ledgerSet_error (by omega)
    have hled : LedgerTo (· = s.led) (exec (.ledgerSet c) s) := by
      refine State.command_led rfl fun e' he' => ?_
      obtain ⟨hhand, -⟩ := hready
      obtain rfl : e = e' := Option.some.inj (hhand.symm.trans he')
      rw [herror]
      exact .error _
    intro t ht
    rwa [ht] at hled

end

section
/-! SUPPORT. Rows of a tensor as bytes: a row is one little-endian number with its codes as digits, every row takes as many
bytes, and the bits of an element lie within those of its row (R7, R127). -/

namespace Sys2Proof.Machine

/-! ### Bytes of a number -/

theorem getD_leBytes {n i : Nat} (v : Nat) (h : i < n) : (leBytes n v).getD i 0 = BitVec.ofNat 8 (v / 256 ^ i) := by
  induction n generalizing v i with
  | zero => omega
  | succ n ih =>
    cases i with
    | zero => simp [leBytes]
    | succ i =>
      rw [leBytes, List.getD_cons_succ, ih _ (by omega), Nat.div_div_eq_div_mul, ← Nat.pow_succ']

/-- Bytes of a memory, from one of those that hold a number onward. -/
theorem Memory.read_of_byte {m : Memory} {a n v k c : Nat}
    (h : ∀ i, i < n → m.byte (a + i) = BitVec.ofNat 8 (v / 256 ^ i)) (hc : k + c ≤ n) :
    m.read (a + k) c = leBytes c (v / 256 ^ k) := by
  refine List.ext_getElem (by simp [Memory.read, leBytes_length]) fun i hi hi' => ?_
  rw [leBytes_length] at hi'
  rw [← List.getD_eq_getElem _ 0, ← List.getD_eq_getElem _ 0, getD_leBytes _ hi', Nat.div_div_eq_div_mul, ← Nat.pow_add,
    ← h (k + i) (by omega)]
  simp [Memory.read, hi', Nat.add_assoc]

theorem two_hundred_fifty_six_pow (n : Nat) : 256 ^ n = 2 ^ (8 * n) := by rw [Nat.pow_mul]

/-- Cutting off high bits changes no bits that lie below the cut. -/
theorem mod_two_pow_div_mod {r n c : Nat} (x : Nat) (h : r + n ≤ c) :
    x % 2 ^ c / 2 ^ r % 2 ^ n = x / 2 ^ r % 2 ^ n := by
  obtain ⟨k, rfl⟩ := Nat.exists_eq_add_of_le h
  rw [Nat.add_assoc, Nat.pow_add, Nat.mod_mul_right_div_self, Nat.mod_mod_of_dvd _ (Nat.pow_dvd_pow 2 (by omega))]

/-- Bits read of bytes that hold a number are the number's. -/
theorem readBits_of_byte {m : Memory} {a R v pos n : Nat}
    (h : ∀ i, i < R → m.byte (a + i) = BitVec.ofNat 8 (v / 256 ^ i)) (hfit : pos + n ≤ 8 * R) :
    readBits m a pos n = v / 2 ^ pos % 2 ^ n := by
  have hpos : v / 2 ^ (8 * (pos / 8)) / 2 ^ (pos % 8) = v / 2 ^ pos := by
    rw [Nat.div_div_eq_div_mul, ← Nat.pow_add, Nat.div_add_mod]
  rw [readBits, Memory.read_of_byte h (by omega), leNat_leBytes, two_hundred_fifty_six_pow, two_hundred_fifty_six_pow,
    mod_two_pow_div_mod _ (by omega), hpos]

/-! ### Rows -/

theorem bitsOf_cases (t : Nat) :
    bitsOf t = 4 ∨ bitsOf t = 6 ∨ bitsOf t = 8 ∨ bitsOf t = 16 ∨ bitsOf t = 32 := by
  unfold bitsOf
  repeat' split
  all_goals simp

/-- The bytes of a row hold its elements. -/
theorem mul_bitsOf_le_rowBytes (t d0 : Nat) : d0 * bitsOf t ≤ 8 * rowBytes t d0 := by
  unfold rowBytes
  rcases bitsOf_cases t with h | h | h | h | h <;> simp [h] <;> omega

theorem packRow_eq_leBytes (t : Nat) (codes : List Nat) :
    packRow t codes = leBytes (rowBytes t codes.length) (Nat.ofDigits (2 ^ bitsOf t) codes) := by
  simp only [packRow, Nat.ofDigits_eq_foldr, Nat.cast_id, Nat.mul_comm]

theorem packRow_length (t : Nat) (codes : List Nat) : (packRow t codes).length = rowBytes t codes.length := leBytes_length _ _

/-- A digit of the number that a list of digits makes. -/
theorem ofDigits_div_pow_mod {b j : Nat} {l : List Nat} (hl : ∀ x ∈ l, x < b) (hj : j < l.length) :
    Nat.ofDigits b l / b ^ j % b = l.getD j 0 := by
  have hx : l[j] < b := hl _ (List.getElem_mem hj)
  rw [Nat.ofDigits_div_pow_eq_ofDigits_drop j (by omega) l hl, List.drop_eq_getElem_cons hj, Nat.ofDigits_cons,
    Nat.add_mul_mod_self_left, List.getD_eq_getElem _ _ hj]
  exact Nat.mod_eq_of_lt hx

variable {t d0 : Nat} {rows : List (List Nat)}

theorem packRows_length (hrows : ∀ r ∈ rows, r.length = d0) : (packRows t rows).length = rows.length * rowBytes t d0 := by
  induction rows with
  | nil => simp [packRows]
  | cons r rows ih =>
    obtain ⟨hr, hrows⟩ := List.forall_mem_cons.1 hrows
    have ih := ih hrows
    rw [packRows] at ih ⊢
    rw [List.flatMap_cons, List.length_append, packRow_length, hr, ih, List.length_cons, Nat.succ_mul, Nat.add_comm]

/-- Row `k` of a tensor starts at the `k`-th multiple of the bytes of a row. -/
theorem getD_packRows {k i : Nat} (hrows : ∀ r ∈ rows, r.length = d0) (hk : k < rows.length) (hi : i < rowBytes t d0) :
    (packRows t rows).getD (k * rowBytes t d0 + i) 0 = (packRow t (rows.getD k [])).getD i 0 := by
  induction rows generalizing k with
  | nil => simp at hk
  | cons r rows ih =>
    obtain ⟨hr, hrows⟩ := List.forall_mem_cons.1 hrows
    have hlen : (packRow t r).length = rowBytes t d0 := by rw [packRow_length, hr]
    rw [packRows, List.flatMap_cons]
    cases k with
    | zero => rw [List.getD_append _ _ _ _ (by omega), List.getD_cons_zero, Nat.zero_mul, Nat.zero_add]
    | succ k =>
      have hoff : (k + 1) * rowBytes t d0 + i - (packRow t r).length = k * rowBytes t d0 + i := by
        rw [hlen, Nat.succ_mul]; omega
      rw [List.getD_append_right _ _ _ _ (by rw [hlen, Nat.succ_mul]; omega), hoff, List.getD_cons_succ]
      exact ih hrows (by simpa using hk)

/-- An element of a stored row reads as it was packed, with the bytes of the row as stored. -/
theorem View.codeAt_packRows {v : View} {k j : Nat} (hrows : ∀ r ∈ rows, r.length = d0 ∧ ∀ x ∈ r, x < 2 ^ bitsOf v.dtype)
    (hdata : v.data = Memory.write [] 0 (packRows v.dtype rows)) (hk : k < rows.length) (hj : j < d0) :
    v.codeAt d0 k j = (rows.getD k []).getD j 0 := by
  have hlens : ∀ r ∈ rows, r.length = d0 := fun r hr => (hrows r hr).1
  have hmem : rows.getD k [] ∈ rows := by rw [List.getD_eq_getElem _ _ hk]; exact List.getElem_mem hk
  obtain ⟨hlen, hcodes⟩ := hrows _ hmem
  have hfit : j * bitsOf v.dtype + bitsOf v.dtype ≤ 8 * rowBytes v.dtype d0 :=
    calc j * bitsOf v.dtype + bitsOf v.dtype = (j + 1) * bitsOf v.dtype := (Nat.succ_mul _ _).symm
      _ ≤ d0 * bitsOf v.dtype := Nat.mul_le_mul_right _ hj
      _ ≤ 8 * rowBytes v.dtype d0 := mul_bitsOf_le_rowBytes _ _
  have hbytes : ∀ i, i < rowBytes v.dtype d0 → v.data.byte (k * rowBytes v.dtype d0 + i) =
      BitVec.ofNat 8 (Nat.ofDigits (2 ^ bitsOf v.dtype) (rows.getD k []) / 256 ^ i) := by
    intro i hi
    have hin : k * rowBytes v.dtype d0 + i < rows.length * rowBytes v.dtype d0 :=
      calc k * rowBytes v.dtype d0 + i < (k + 1) * rowBytes v.dtype d0 := by rw [Nat.succ_mul]; omega
        _ ≤ rows.length * rowBytes v.dtype d0 := Nat.mul_le_mul_right _ hk
    rw [hdata, Memory.byte_write, packRows_length hlens, if_pos ⟨Nat.zero_le _, by omega⟩, Nat.sub_zero,
      getD_packRows hlens hk hi, packRow_eq_leBytes, hlen, getD_leBytes _ hi]
  rw [View.codeAt, readBits_of_byte hbytes hfit, Nat.mul_comm, Nat.pow_mul, ofDigits_div_pow_mod hcodes (by omega)]

end Sys2Proof.Machine

open Sys2Proof Sys2Proof.Machine

/-- Settles O12: a stored row reads back code by code, and a TRANSPOSED tensor reads the rows that its dimension 1 is long. -/
theorem rowsReadBackAsPacked : Obligations.RowsReadBackAsPacked := by
  unfold Obligations.RowsReadBackAsPacked
  rintro t d0 rows v - - hrows rfl hdata
  refine ⟨packRows_length fun r hr => (hrows r hr).1, ?_, ?_⟩
  · rintro htrans hd0 r j hr hj
    rw [View.code, htrans, if_neg (by simp), hd0]
    exact View.codeAt_packRows hrows hdata hr hj
  · rintro htrans hd1 hpos r j - hrow
    rw [View.code, htrans, if_pos rfl]
    simp only [hd1]
    exact View.codeAt_packRows hrows hdata hrow (Nat.mod_lt _ hpos)

end

section
/-! SUPPORT. The codes of a floating format: a code is its sign, exponent and mantissa, the value that it holds is in the form
that rounding leaves as it is, and writing that value gives the code (R123, R124, R146, Table 5-2). -/

namespace Sys2Proof.Machine

/-! ### Fields of a code -/

def Fmt.manOf (f : Fmt) (code : Nat) : Nat := code % 2 ^ f.mb
def Fmt.expOf (f : Fmt) (code : Nat) : Nat := code / 2 ^ f.mb % 2 ^ f.eb
def Fmt.signOf (f : Fmt) (code : Nat) : Bool := code / 2 ^ (f.mb + f.eb) % 2 == 1

theorem Fmt.manOf_lt (f : Fmt) (code : Nat) : f.manOf code < 2 ^ f.mb := Nat.mod_lt _ (Nat.two_pow_pos _)
theorem Fmt.expOf_lt (f : Fmt) (code : Nat) : f.expOf code < 2 ^ f.eb := Nat.mod_lt _ (Nat.two_pow_pos _)

/-- A code that fits its format is made of its fields. -/
theorem Fmt.code_eq_fields {f : Fmt} {code : Nat} (h : code < 2 ^ (1 + f.eb + f.mb)) :
    (if f.signOf code then 2 ^ (f.mb + f.eb) else 0) + (f.expOf code * 2 ^ f.mb + f.manOf code) = code := by
  have hlow : f.expOf code * 2 ^ f.mb + f.manOf code = code % 2 ^ (f.mb + f.eb) := by
    rw [Nat.pow_add, Nat.mod_mul, expOf, manOf, Nat.mul_comm, Nat.add_comm]
  have hbit : code / 2 ^ (f.mb + f.eb) < 2 :=
    Nat.div_lt_of_lt_mul (by rwa [← Nat.pow_succ, show (f.mb + f.eb).succ = 1 + f.eb + f.mb by omega])
  have hsign : (if f.signOf code then 2 ^ (f.mb + f.eb) else 0) = 2 ^ (f.mb + f.eb) * (code / 2 ^ (f.mb + f.eb)) := by
    rw [signOf, Nat.mod_eq_of_lt hbit]
    rcases Nat.lt_succ_iff_lt_or_eq.1 hbit with h0 | h1
    · simp [Nat.lt_one_iff.1 h0]
    · simp [h1]
  rw [hlow, hsign, Nat.div_add_mod]

/-! ### Values of a format -/

/-- m · 2^e is as a format's codes hold it: its lowest bit no lower than a subnormal's, the hidden bit present above that, and
none beyond the largest finite. -/
structure Fmt.Holds (f : Fmt) (m : Nat) (e : Int) : Prop where
  lt : m < 2 ^ (f.mb + 1)
  low : f.sub ≤ e
  hidden : e = f.sub ∨ 2 ^ f.mb ≤ m
  within : f.over m e = false

variable {f : Fmt} {m : Nat} {e : Int}

/-- The exponent of the lowest bit that rounding and encoding choose is the value's own. -/
theorem Fmt.Holds.max_log2 (h : f.Holds m e) (hm : m ≠ 0) : max ((Nat.log2 m : Int) + e - f.mb) f.sub = e := by
  obtain ⟨hlt, hlow, hhidden, -⟩ := h
  have hle : Nat.log2 m < f.mb + 1 := (Nat.log2_lt hm).2 hlt
  rcases hhidden with rfl | hge
  · omega
  · have : f.mb ≤ Nat.log2 m := (Nat.le_log2 hm).2 hge
    omega

theorem log2Q_one {m : Nat} (hm : m ≠ 0) : log2Q m 1 = Nat.log2 m := by
  have : 2 ^ Nat.log2 m ≤ m := Nat.log2_self_le hm
  simp [log2Q, scaleQ, show Nat.log2 1 = 0 from rfl, Nat.not_lt.2 this]

theorem rndDiv_one (mode : Bool) (n : Nat) : rndDiv mode n 1 = n := by simp [rndDiv, Nat.mod_one]

/-- A value of the format rounds to itself. -/
theorem Fmt.Holds.rnd_eq (h : f.Holds m e) (mode neg : Bool) : f.rnd mode neg m 1 e = .fin neg m e := by
  by_cases hm : m = 0
  · obtain rfl : e = f.sub := h.hidden.resolve_right (by simp [hm])
    simp [rnd, hm]
  · rw [rnd, if_neg (by simpa using hm)]
    simp [log2Q_one hm, h.max_log2 hm, scaleQ, rndDiv_one]

/-- The code of a value of the format: the binades from the first one up follow each other, the hidden bit counting as one. -/
theorem Fmt.Holds.encode_eq (h : f.Holds m e) (neg : Bool) :
    f.encode neg m e = (if neg then 2 ^ (f.mb + f.eb) else 0) +
      if m < 2 ^ f.mb then m else (e - f.sub).toNat * 2 ^ f.mb + m := by
  by_cases hm : m = 0
  · simp [encode, hm]
  · rw [encode, if_neg (by simpa using hm)]
    simp only [h.max_log2 hm, Int.sub_self, Int.toNat_zero, Nat.pow_zero, Nat.mul_one, Nat.div_one]
    split <;> omega

/-- A value of the format is written as its code and is not too large. -/
theorem Fmt.Holds.conv_eq (h : f.Holds m e) (mode neg : Bool) : f.conv mode (.fin neg m e) = (f.encode neg m e, false) := by
  simp [conv, convQ, h.rnd_eq, h.within]

/-! ### What a code holds -/

/-- The formats of Table 5-2 have a mantissa, and exponents besides the lowest and the top one. -/
def Fmt.Regular (f : Fmt) : Prop := 1 ≤ f.mb ∧ 2 ≤ f.eb

theorem Fmt.Regular.two_pow_le_maxM (hf : f.Regular) : 2 ^ f.mb ≤ f.maxM := by
  have h2 : 2 ^ 1 ≤ 2 ^ f.mb := Nat.pow_le_pow_right (by omega) hf.1
  unfold maxM
  split <;> rw [Nat.pow_succ] <;> omega

/-- In a binade below the top one every significand is within the largest finite. -/
theorem Fmt.Regular.within_of_lt (hf : f.Regular) (hm : m < 2 ^ (f.mb + 1)) (he : e < f.maxE) : f.over m e = false := by
  have hmax : 2 ^ (f.mb + 1) ≤ f.maxM * 2 ^ (f.maxE - e).toNat :=
    calc 2 ^ (f.mb + 1) = 2 ^ f.mb * 2 ^ 1 := Nat.pow_succ ..
      _ ≤ f.maxM * 2 ^ (f.maxE - e).toNat :=
        Nat.mul_le_mul hf.two_pow_le_maxM (Nat.pow_le_pow_right (by omega) (by omega))
  simp [Fmt.over, min_eq_left he.le]
  omega

/-- In the top binade the significand decides. -/
theorem Fmt.within_of_le_maxM (hm : m ≤ f.maxM) : f.over m f.maxE = false := by simpa [Fmt.over] using hm

/-- A subnormal, or a zero, is a value of the format. -/
theorem Fmt.Regular.holds_subnormal (hf : f.Regular) (hm : m < 2 ^ f.mb) : f.Holds m f.sub := by
  have hlt : m < 2 ^ (f.mb + 1) := by rw [Nat.pow_succ]; omega
  have htop : 2 ^ 2 ≤ 2 ^ f.eb := Nat.pow_le_pow_right (by omega) hf.2
  refine ⟨hlt, le_rfl, .inl rfl, hf.within_of_lt hlt ?_⟩
  unfold sub maxE
  split <;> omega

/-- So is a normal number, unless its exponent and mantissa are those of an infinity or a NaN. -/
theorem Fmt.Regular.holds_normal (hf : f.Regular) {x : Nat} (hm : m < 2 ^ f.mb) (hpos : 0 < x) (hx : x < 2 ^ f.eb)
    (hinf : ¬ (f.kind = 2 ∧ x = 2 ^ f.eb - 1)) (hnan : ¬ (f.kind = 1 ∧ x = 2 ^ f.eb - 1 ∧ m = 2 ^ f.mb - 1)) :
    f.Holds (m + 2 ^ f.mb) ((x : Int) - f.bias - f.mb) := by
  have hlt : m + 2 ^ f.mb < 2 ^ (f.mb + 1) := by rw [Nat.pow_succ]; omega
  refine ⟨hlt, by unfold sub; omega, .inr (by omega), ?_⟩
  have hle : (x : Int) - f.bias - f.mb ≤ f.maxE := by
    simp only [maxE, beq_iff_eq]
    split <;> omega
  rcases hle.lt_or_eq with hbelow | htop
  · exact hf.within_of_lt hlt hbelow
  · rw [htop]
    refine within_of_le_maxM ?_
    simp only [maxE, maxM, beq_iff_eq] at htop ⊢
    split at htop <;> split <;> omega

/-- What a code holds: a NaN, an infinity, a subnormal or zero, or a normal number. -/
theorem Fmt.decode_cases (f : Fmt) (code : Nat) :
    f.decode code = .nan ∨
    (f.kind = 2 ∧ f.expOf code = 2 ^ f.eb - 1 ∧ f.manOf code = 0 ∧ f.decode code = .inf (f.signOf code)) ∨
    (f.expOf code = 0 ∧ f.decode code = .fin (f.signOf code) (f.manOf code) f.sub) ∨
    (0 < f.expOf code ∧ ¬ (f.kind = 2 ∧ f.expOf code = 2 ^ f.eb - 1) ∧
      ¬ (f.kind = 1 ∧ f.expOf code = 2 ^ f.eb - 1 ∧ f.manOf code = 2 ^ f.mb - 1) ∧
      f.decode code = .fin (f.signOf code) (f.manOf code + 2 ^ f.mb) ((f.expOf code : Int) - f.bias - f.mb)) := by
  unfold decode
  simp only [← manOf.eq_def, ← expOf.eq_def, ← signOf.eq_def, Bool.and_eq_true, beq_iff_eq, and_assoc]
  split
  next hinf =>
    split
    next hman => exact .inr (.inl ⟨hinf.1, hinf.2, hman, rfl⟩)
    next => exact .inl rfl
  next hinf =>
    split
    next => exact .inl rfl
    next hnan =>
      split
      next hexp => exact .inr (.inr (.inl ⟨hexp, rfl⟩))
      next hexp => exact .inr (.inr (.inr ⟨Nat.pos_of_ne_zero hexp, hinf, hnan, rfl⟩))

/-- What a code holds, written again, is the code. -/
theorem Fmt.Regular.conv_decode (hf : f.Regular) (mode : Bool) {code : Nat} (hcode : code < 2 ^ (1 + f.eb + f.mb))
    (hnum : f.decode code ≠ .nan) : f.conv mode (f.decode code) = (code, false) := by
  have hfields := code_eq_fields hcode
  have hman := f.manOf_lt code
  rcases f.decode_cases code with hnan | ⟨hkind, hexp, hzero, hinf⟩ | ⟨hexp, hsub⟩ | ⟨hpos, hinf, hnan, hnorm⟩
  · exact absurd hnan hnum
  · rw [hexp, hzero] at hfields
    simpa [hinf, conv, hkind, infCode] using hfields
  · have hholds := hf.holds_subnormal hman
    rw [hsub, hholds.conv_eq, hholds.encode_eq, if_pos hman]
    simpa [hexp] using hfields
  · have hholds := hf.holds_normal hman hpos (f.expOf_lt code) hinf hnan
    have hbinade : (f.expOf code - f.bias - f.mb - f.sub : Int).toNat = f.expOf code - 1 := by unfold sub; omega
    have hhidden : (f.expOf code - 1) * 2 ^ f.mb + (f.manOf code + 2 ^ f.mb) = f.expOf code * 2 ^ f.mb + f.manOf code := by
      have := Nat.le_mul_of_pos_left (2 ^ f.mb) hpos
      rw [Nat.sub_one_mul]
      omega
    rw [hnorm, hholds.conv_eq, hholds.encode_eq, if_neg (Nat.not_lt.2 (Nat.le_add_left ..)), hbinade, hhidden, hfields]

end Sys2Proof.Machine

open Sys2Proof Sys2Proof.Machine

/-- Settles O10: a code's value is a value of its format, and those are rounded and encoded as they are. -/
theorem formatsHoldTheirOwnValues : Obligations.FormatsHoldTheirOwnValues := by
  unfold Obligations.FormatsHoldTheirOwnValues
  intro f hf mode code hcode hnum
  have hregular : ∀ f ∈ [fE4M3, fE5M2, fE3M2, fE2M3, fE2M1, fBF16, fFP16, fFP32], 1 ≤ f.mb ∧ 2 ≤ f.eb := by decide
  exact Fmt.Regular.conv_decode (hregular f hf) mode hcode hnum

end

section
/-! SUPPORT. Integers of a conversion: the quotient that rounding takes is the only nearest one in its mode, saturation keeps an
integer to its range, and two's complement codes give back what lies in theirs (R145, R148). -/

namespace Sys2Proof.Machine

/-! ### Rounding -/

/-- A quotient rounds to the integer nearest to it, a tie as the mode has it. -/
theorem rndDiv_eq_of_nearest {mode : Bool} {p d k : Nat} (hd : 0 < d) (hup : 2 * p ≤ 2 * (k * d) + d)
    (hdown : 2 * (k * d) ≤ 2 * p + d) (htieUp : 2 * p = 2 * (k * d) + d → mode = false ∧ k % 2 = 0)
    (htieDown : 2 * (k * d) = 2 * p + d → mode = true ∨ k % 2 = 0) : rndDiv mode p d = k := by
  have hdiv : p / d * d + p % d = p := by rw [Nat.mul_comm]; exact Nat.div_add_mod p d
  have hmod : p % d < d := Nat.mod_lt _ hd
  have hk : k = p / d ∨ k = p / d + 1 := by
    rcases Nat.lt_or_ge k (p / d) with hlt | hge
    · have := Nat.mul_le_mul_right d (Nat.succ_le_of_lt hlt)
      rw [Nat.succ_mul] at this
      omega
    · rcases Nat.lt_or_ge (p / d + 1) k with hgt | hle
      · have := Nat.mul_le_mul_right d (Nat.succ_le_of_lt hgt)
        rw [Nat.succ_mul, Nat.succ_mul] at this
        omega
      · omega
  simp only [rndDiv]
  generalize p / d = q at *
  generalize p % d = r at *
  rcases hk with rfl | rfl
  · rcases (show 2 * r ≤ d by omega).lt_or_eq with hbelow | htie
    · rw [if_pos hbelow]
    · obtain ⟨rfl, heven⟩ := htieUp (by omega)
      simp [htie, heven]
  · rw [Nat.succ_mul q] at hdown htieDown
    rcases (show d ≤ 2 * r by omega).lt_or_eq with habove | htie
    · rw [if_neg (by omega), if_pos habove]
    · rcases htieDown (by omega) with rfl | heven
      · simp [← htie]
      · have hodd : q % 2 = 1 := by omega
        simp [← htie, hodd]

theorem FVal.toInt_of_roundsTo {mode neg : Bool} {m : Nat} {e n : Int} (h : RoundsTo mode neg m e n) :
    (FVal.fin neg m e).toInt mode = some n := by
  obtain ⟨k, rfl, hup, hdown, htieUp, htieDown⟩ := h
  have hk := rndDiv_eq_of_nearest (Nat.two_pow_pos _) hup hdown htieUp htieDown
  simp [toInt, scaleQ, hk]

/-! ### Saturation -/

theorem clampI_fst {lo hi : Int} (h : lo ≤ hi) (v : Int) : (clampI lo hi v).1 = max lo (min hi v) := by
  unfold clampI
  repeat' split
  all_goals simp only
  all_goals omega

/-- A rounded value in a range is its integer, saturated. -/
theorem toRange_of_roundsTo {mode neg : Bool} {m : Nat} {e n lo hi : Int} (h : RoundsTo mode neg m e n) (hle : lo ≤ hi)
    (nanv : Int) : ((FVal.fin neg m e).toRange mode lo hi nanv).1 = max lo (min hi n) := by
  simp only [FVal.toRange, FVal.toInt_of_roundsTo h, Option.getD_some, clampI_fst hle]

theorem FVal.toRange_mem {lo hi nanv : Int} (hlo : lo ≤ nanv) (hhi : nanv ≤ hi) (mode : Bool) (x : FVal) :
    lo ≤ (toRange mode lo hi nanv x).1 ∧ (toRange mode lo hi nanv x).1 ≤ hi := by
  cases x with
  | nan => exact ⟨hlo, hhi⟩
  | inf neg => cases neg <;> simp [toRange] <;> omega
  | fin neg m e =>
    simp only [toRange, clampI_fst (hlo.trans hhi)]
    omega

/-- Two's complement gives back what lies in its range. -/
theorem signed_unsigned {b : Nat} {v : Int} (hb : 0 < b) (hlo : -(2 ^ (b - 1) : Int) ≤ v) (hhi : v ≤ 2 ^ (b - 1) - 1) :
    signed b (unsigned b v) = v := by
  obtain ⟨b, rfl⟩ := Nat.exists_eq_add_of_lt hb
  simp only [Nat.zero_add, Nat.add_sub_cancel] at *
  have hpow : (2 : Int) ^ (b + 1) = 2 * 2 ^ b := by ring
  have hcast : ((2 ^ (b + 1) : Nat) : Int) = 2 * 2 ^ b := by push_cast; exact hpow
  have hnat : ((2 ^ b : Nat) : Int) = 2 ^ b := by push_cast; rfl
  simp only [signed, unsigned, Nat.add_sub_cancel, hcast, hpow]
  rcases lt_or_ge v 0 with hneg | hpos
  · rw [show v % (2 * 2 ^ b) = v + 2 * 2 ^ b by
      rw [← Int.add_emod_right]; exact Int.emod_eq_of_lt (by omega) (by omega)]
    split <;> omega
  · rw [Int.emod_eq_of_lt hpos (by omega)]
    split <;> omega

/-! ### Codes of integers -/

variable {v : View} {r j : Nat} {mode : Bool}

theorem bitsOf_of_isI {t : Nat} (h : isI t = true) : 0 < bitsOf t ∧ isU t = false := by
  simp only [isI, Bool.or_eq_true, beq_iff_eq] at h
  rcases h with rfl | rfl <;> decide

theorem encElem_of_isI (h : isI v.dtype = true) (x : FVal) :
    (encElem v mode r j x).1 = unsigned (bitsOf v.dtype)
      (x.toRange mode (-(2 ^ (bitsOf v.dtype - 1))) (2 ^ (bitsOf v.dtype - 1) - 1) 0).1 := by
  simp only [encElem, (bitsOf_of_isI h).2, h, if_true, Bool.false_eq_true, if_false]

/-- An element of INT16 or INT32 reads as the value in the range of its type (R148). -/
theorem signed_encElem_of_isI (h : isI v.dtype = true) (x : FVal) :
    signed (bitsOf v.dtype) (encElem v mode r j x).1 =
      (x.toRange mode (-(2 ^ (bitsOf v.dtype - 1))) (2 ^ (bitsOf v.dtype - 1) - 1) 0).1 := by
  have hpos : (0 : Int) < 2 ^ (bitsOf v.dtype - 1) := by positivity
  obtain ⟨hlo, hhi⟩ := FVal.toRange_mem (lo := -(2 ^ (bitsOf v.dtype - 1))) (hi := 2 ^ (bitsOf v.dtype - 1) - 1)
    (nanv := 0) (by omega) (by omega) mode x
  rw [encElem_of_isI h, signed_unsigned (bitsOf_of_isI h).1 hlo hhi]

theorem encElem_of_isU (h : isU v.dtype = true) (x : FVal) :
    (encElem v mode r j x).1 = quantCode v.dtype mode (v.scaleAt r j).1 (v.scaleAt r j).2 x := by
  simp only [encElem, h, if_true]

theorem topOf_toNat (t : Nat) : (topOf t).toNat = 2 ^ bitsOf t - 1 := by
  have hcast : ((2 ^ bitsOf t : Nat) : Int) = 2 ^ bitsOf t := by push_cast; rfl
  unfold topOf
  omega

/-- The code of a finite quotient: its integer from the zero point, saturated (R149, R153). -/
theorem quantCode_of_roundsTo {t z m m' : Nat} {s : FVal} {neg neg' : Bool} {e e' n : Int}
    (hdiv : div32 mode (.fin neg m e) s = .fin neg' m' e') (hn : RoundsTo mode neg' m' e' n) :
    (quantCode t mode s z (.fin neg m e) : Int) = max 0 (min (2 ^ bitsOf t - 1) (n + z)) := by
  have htop : 0 ≤ topOf t := by
    have : (0 : Int) < 2 ^ bitsOf t := by positivity
    unfold topOf
    omega
  simp only [quantCode, hdiv, FVal.toInt_of_roundsTo hn, Option.getD_some, clampI_fst htop]
  rw [Int.toNat_of_nonneg (le_max_left ..), topOf]

end Sys2Proof.Machine

open Sys2Proof Sys2Proof.Machine

/-- Settles O11: the integer that a mode names is the one that the model rounds to, and saturation keeps it to the range, which
two's complement or the UINT code then holds. -/
theorem integerConversionsRoundAndSaturate : Obligations.IntegerConversionsRoundAndSaturate := by
  unfold Obligations.IntegerConversionsRoundAndSaturate
  refine fun v mode r j => ⟨fun hI => ⟨?_, fun neg => ?_, fun neg m e n hn => ?_⟩, fun hU => ⟨?_, fun neg => ?_,
    fun neg m e neg' m' e' n hdiv hn => ?_⟩⟩
  · simp [encElem_of_isI hI, FVal.toRange, unsigned]
  · simp only [signed_encElem_of_isI hI, FVal.toRange]
  · have hpos : (0 : Int) < 2 ^ (bitsOf v.dtype - 1) := by positivity
    have hle : -(2 ^ (bitsOf v.dtype - 1) : Int) ≤ 2 ^ (bitsOf v.dtype - 1) - 1 := by omega
    rw [signed_encElem_of_isI hI, toRange_of_roundsTo hn hle]
  · rw [encElem_of_isU hU, quantCode]
  · rw [encElem_of_isU hU, quantCode, topOf_toNat]
  · rw [encElem_of_isU hU, quantCode_of_roundsTo hdiv hn]

end

section
/-! SUPPORT. What FILL, COPY and integer VEW write: a run's first output replaces the rows of its operand's copy by rows of
codes, those codes read back as they were packed whatever the copy held before, and an exact integer is written as itself,
saturated (R127, R148, R180, R181, R215, Table 8-3). -/

namespace Sys2Proof.Machine

/-! ### Codes of a copy that is written over -/

/-- Bits of a row are those of its bytes alone. -/
theorem readBits_congr {m m' : Memory} {a R pos n : Nat} (h : ∀ i, i < R → m.byte (a + i) = m'.byte (a + i))
    (hfit : pos + n ≤ 8 * R) : readBits m a pos n = readBits m' a pos n := by
  have hread : m.read (a + pos / 8) ((pos % 8 + n + 7) / 8) = m'.read (a + pos / 8) ((pos % 8 + n + 7) / 8) := by
    refine List.map_congr_left fun i hi => ?_
    rw [List.mem_range] at hi
    rw [Nat.add_assoc]
    exact h _ (by omega)
  rw [readBits, readBits, hread]

/-- The bits of an element lie within its row. -/
theorem element_le_rowBytes {d0 j : Nat} (t : Nat) (hj : j < d0) : j * bitsOf t + bitsOf t ≤ 8 * rowBytes t d0 :=
  calc j * bitsOf t + bitsOf t = (j + 1) * bitsOf t := (Nat.succ_mul _ _).symm
    _ ≤ d0 * bitsOf t := Nat.mul_le_mul_right _ hj
    _ ≤ 8 * rowBytes t d0 := mul_bitsOf_le_rowBytes _ _

/-- What a copy held before does not matter to the elements of a row that is written over. -/
theorem View.codeAt_write (v : View) (m : Memory) {l : List Byte} {d0 row j : Nat} (hj : j < d0)
    (hrow : (row + 1) * rowBytes v.dtype d0 ≤ l.length) :
    ({ v with data := Memory.write m 0 l } : View).codeAt d0 row j =
      ({ v with data := Memory.write [] 0 l } : View).codeAt d0 row j := by
  rw [Nat.succ_mul] at hrow
  refine readBits_congr (fun k hk => ?_) (element_le_rowBytes v.dtype hj)
  have hin : 0 ≤ row * rowBytes v.dtype d0 + k ∧ row * rowBytes v.dtype d0 + k < 0 + l.length := by omega
  simp only [Memory.byte_write, if_pos hin]

theorem View.code_lt (v : View) (i j : Nat) : v.code i j < 2 ^ bitsOf v.dtype := by
  unfold View.code
  split <;> exact Nat.mod_lt _ (Nat.two_pow_pos _)

/-- The codes `f` of a tensor, row by row. -/
def View.rowsOfCodes (v : View) (f : Nat → Nat → Nat) : List (List Nat) :=
  (List.range v.rows).map fun i => (List.range v.d0).map (f i)

section
variable {v : View} {f : Nat → Nat → Nat} {i j : Nat}

theorem View.rowsOfCodes_length : (v.rowsOfCodes f).length = v.rows := by simp [View.rowsOfCodes]

theorem View.getD_rowsOfCodes (hi : i < v.rows) (hj : j < v.d0) : ((v.rowsOfCodes f).getD i []).getD j 0 = f i j := by
  simp [View.rowsOfCodes, hi, hj]

theorem View.mem_rowsOfCodes (hf : ∀ i j, f i j < 2 ^ bitsOf v.dtype) :
    ∀ r ∈ v.rowsOfCodes f, r.length = v.d0 ∧ ∀ x ∈ r, x < 2 ^ bitsOf v.dtype := by
  intro r hr
  obtain ⟨i, -, rfl⟩ := List.mem_map.1 hr
  refine ⟨by simp, fun x hx => ?_⟩
  obtain ⟨j, -, rfl⟩ := List.mem_map.1 hx
  exact hf i j

/-- Rows of codes written over a tensor's contents are what its elements read as then. -/
theorem View.code_write_rowsOfCodes (htrans : v.trans = false) (hf : ∀ i j, f i j < 2 ^ bitsOf v.dtype) (hi : i < v.rows)
    (hj : j < v.d0) :
    ({ v with data := Memory.write v.data 0 (packRows v.dtype (v.rowsOfCodes f)) } : View).code i j = f i j := by
  have hrows := View.mem_rowsOfCodes hf
  have hrow : (i + 1) * rowBytes v.dtype v.d0 ≤ (packRows v.dtype (v.rowsOfCodes f)).length := by
    rw [packRows_length fun r hr => (hrows r hr).1, View.rowsOfCodes_length]
    exact Nat.mul_le_mul_right _ hi
  have hpacked := View.codeAt_packRows
    (v := { v with data := Memory.write [] 0 (packRows v.dtype (v.rowsOfCodes f)) }) hrows rfl
    (View.rowsOfCodes_length.symm ▸ hi) hj
  rw [View.code, if_neg (by simp [htrans])]
  exact (View.codeAt_write v v.data hj hrow).trans (hpacked.trans (View.getD_rowsOfCodes hi hj))

end

/-! ### The first output of a run -/

/-- The first output of a run is the operand's copy with the codes `f` for its elements. -/
def Run.WritesCodes (r : Run) (b : Arg) (f : Nat → Nat → Nat) : Prop :=
  ∃ o, r.outs.head? = some o ∧ o.part = b.buf.part ∧ o.buf = b.buf.num ∧ o.key = b.key ∧
    o.data = Memory.write b.view.data 0 (packRows b.view.dtype (b.view.rowsOfCodes f))

theorem Run.WritesCodes.reads {r : Run} {b : Arg} {f : Nat → Nat → Nat} (h : r.WritesCodes b f) (htrans : b.view.trans = false)
    (hf : ∀ i j, f i j < 2 ^ bitsOf b.view.dtype) :
    ∃ o, r.outs.head? = some o ∧ o.part = b.buf.part ∧ o.buf = b.buf.num ∧ o.key = b.key ∧
      ∀ i j, i < b.view.rows → j < b.view.d0 → ({ b.view with data := o.data } : View).code i j = f i j := by
  obtain ⟨o, hhead, hpart, hbuf, hkey, hdata⟩ := h
  refine ⟨o, hhead, hpart, hbuf, hkey, fun i j hi hj => ?_⟩
  rw [hdata]
  exact View.code_write_rowsOfCodes htrans hf hi hj

@[simp] theorem Run.reading_outs (r : Run) (args : List Arg) (badTag : Bool) : (r.reading args badTag).outs = r.outs := by
  unfold Run.reading
  split
  · rfl
  · split <;> rfl

@[simp] theorem Run.mover_outs (r : Run) (bytes per extra entry : Nat) : (r.mover bytes per extra entry).outs = r.outs := rfl
@[simp] theorem Run.vector_outs (r : Run) (v : VecTime) : (r.vector v).outs = r.outs := rfl

/-- The contents of an operand come first among its outputs, before its scales. -/
theorem Env.outs_head? (e : Env) (c : Core) (b : Arg) (w : Written) : (e.outs c b w).head? = some (b.whole w.data) := rfl

/-! ### Bodies of commands, one action at a time -/

section
variable {α β : Type} {x : Except Stop α} {f : α → Except Stop β} {a : α} {b : β}

/-- A body that answers goes on with what each of its actions answers. -/
theorem bind_eq_ok : (x >>= f) = .ok b ↔ ∃ a, x = .ok a ∧ f a = .ok b := by
  cases x with
  | error s => exact ⟨nofun, nofun⟩
  | ok a => exact ⟨fun h => ⟨a, rfl, h⟩, fun ⟨_, ha, h⟩ => Except.ok.inj ha ▸ h⟩

theorem eq_ok_of_bind (hx : x = .ok a) (h : (x >>= f) = .ok b) : f a = .ok b := by
  obtain ⟨a', ha', h⟩ := bind_eq_ok.1 h
  obtain rfl : a = a' := Except.ok.inj (hx.symm.trans ha')
  exact h

end

theorem need_eq_ok {p : Bool} {s : Stop} {u : Unit} : need p s = .ok u ↔ p = true := by
  cases p <;> simp [need]

theorem Env.optArg_absent (e : Env) (c : Core) (k : Nat) : e.optArg c false k = .ok none := rfl

theorem Env.optArg_present {e : Env} {c : Core} {k : Nat} {a : Arg} (h : e.arg c k = .ok a) :
    e.optArg c true k = .ok (some a) := by
  rw [Env.optArg, if_pos rfl, h]
  rfl

variable {e : Env} {c : Core} {r : Run}

/-! ### FILL -/

/-- Contents of a tensor of which the rows `p` are written: the codes of those, and for the others their own. -/
theorem assembleOver_data {v : View} {p : Nat → Bool} {row : Nat → RowImg} {f : Nat → Nat → Nat}
    (hin : ∀ i, i < v.rows → p i = true → (row i).codes = (List.range v.d0).map (f i))
    (hout : ∀ i, i < v.rows → p i = false → f i = v.code i) :
    (assembleOver v p ((List.range v.rows).map fun i => if p i then row i else v.rowImg i)).data =
      packRows v.dtype (v.rowsOfCodes f) := by
  refine congrArg (packRows v.dtype) ?_
  rw [List.map_map]
  refine List.map_congr_left fun i hi => ?_
  rw [List.mem_range] at hi
  cases hp : p i with
  | true => simpa [hp] using hin i hi hp
  | false => simp [hp, View.rowImg, hout i hi hp]

/-- The code that FILL gives an element of an integer, UINT or BYTES type (R181). -/
def View.fillCode (v : View) (x : DWord) : Nat :=
  if isI v.dtype = true then
    unsigned (bitsOf v.dtype) (max (-(2 ^ (bitsOf v.dtype - 1) : Int)) (min (2 ^ (bitsOf v.dtype - 1) - 1) x.toInt))
  else x.toNat % 2 ^ bitsOf v.dtype

theorem unsigned_lt (n : Nat) (v : Int) : unsigned n v < 2 ^ n := by
  have hpos : (0 : Int) < (2 ^ n : Nat) := by exact_mod_cast Nat.two_pow_pos n
  have := Int.emod_nonneg v hpos.ne'
  have := Int.emod_lt_of_pos v hpos
  unfold unsigned
  omega

theorem View.fillCode_lt (v : View) (x : DWord) : v.fillCode x < 2 ^ bitsOf v.dtype := by
  unfold View.fillCode
  split
  · exact unsigned_lt ..
  · exact Nat.mod_lt _ (Nat.two_pow_pos _)

theorem isI_iff {t : Nat} : isI t = true ↔ t = 0xE ∨ t = 0xF := by simp [isI]

theorem not_isBytes_of_isI {t : Nat} (h : isI t = true) : isBytes t = false := by
  rcases isI_iff.1 h with rfl | rfl <;> rfl

theorem neg_two_pow_le (n : Nat) : -(2 ^ n : Int) ≤ 2 ^ n - 1 := by
  have : (0 : Int) < 2 ^ n := by positivity
  omega

theorem fillRow_codes {v : View} (h : isU v.dtype = true ∨ isI v.dtype = true ∨ isBytes v.dtype = true) (i : Nat) (x : DWord) :
    (fillRow v i x).1.codes = List.replicate v.d0 (v.fillCode x) := by
  by_cases hI : isI v.dtype = true
  · simp [fillRow, View.fillCode, hI, (bitsOf_of_isI hI).2, not_isBytes_of_isI hI, clampI_fst (neg_two_pow_le _)]
  · have hlow : (isU v.dtype || isBytes v.dtype) = true := by simpa [hI] using h
    simp [fillRow, View.fillCode, hI, hlow]

/-- FILL writes its code to the rows that it is given, and their own codes to the others (R181). -/
theorem fillRun_writesCodes {b : Arg} (h : fillRun e c = .ok r) (hb : e.arg c 0 = .ok b)
    (htype : isU b.view.dtype = true ∨ isI b.view.dtype = true ∨ isBytes b.view.dtype = true) :
    r.WritesCodes b fun i j => if e.sub = 0 ∨ (e.nat 2 ≤ i ∧ i < e.nat 2 + e.nat 3) then
      b.view.fillCode (e.value (e.word 1)) else b.view.code i j := by
  unfold fillRun at h
  obtain ⟨-, -, h⟩ := bind_eq_ok.1 h
  replace h := eq_ok_of_bind hb h
  obtain ⟨-, -, h⟩ := bind_eq_ok.1 h
  obtain ⟨-, -, h⟩ := bind_eq_ok.1 h
  obtain rfl := Except.ok.inj h
  refine ⟨_, by rw [Run.reading_outs, Run.mover_outs, List.head?_map, Env.outs_head?]; rfl, rfl, rfl, rfl, ?_⟩
  refine congrArg (Memory.write b.view.data 0) ?_
  rw [apply_ite Written.data, ite_self]
  refine assembleOver_data (fun i hi hp => ?_) fun i hi hp => ?_
  · have hgiven : e.sub = 0 ∨ (e.nat 2 ≤ i ∧ i < e.nat 2 + e.nat 3) := by
      by_cases hsub : e.sub = 0
      · exact .inl hsub
      · exact .inr (by simpa [hsub] using hp)
    simp only [fillRow_codes htype, if_pos hgiven, List.map_const', List.length_range]
  · have hkept : ¬ (e.sub = 0 ∨ (e.nat 2 ≤ i ∧ i < e.nat 2 + e.nat 3)) := by
      by_cases hsub : e.sub = 0
      · simp [hsub, hi] at hp
      · simpa [hsub] using hp
    simp only [if_neg hkept]

/-! ### COPY -/

/-- The first row that COPY writes: the whole tensor's, or its row offset (R180). -/
def Env.copyFirst (e : Env) : Nat := if e.sub = 0 then 0 else (e.int 2).toNat

/-- COPY writes the source's rows from its offset onward, and the other rows keep their codes (R180). -/
theorem copyRun_writesCodes {a b : Arg} (h : copyRun e c = .ok r) (ha : e.arg c 0 = .ok a) (hb : e.arg c 1 = .ok b) :
    r.WritesCodes b fun i j =>
      if e.copyFirst ≤ i ∧ i < e.copyFirst + a.view.rows then a.view.code (i - e.copyFirst) j else b.view.code i j := by
  have hfirst : (if e.sub == 0 then 0 else e.int 2).toNat = e.copyFirst := by
    by_cases hsub : e.sub = 0 <;> simp [Env.copyFirst, hsub]
  unfold copyRun at h
  obtain ⟨-, -, h⟩ := bind_eq_ok.1 h
  replace h := eq_ok_of_bind ha h
  replace h := eq_ok_of_bind hb h
  obtain ⟨_, hdims, h⟩ := bind_eq_ok.1 h
  obtain ⟨-, -, h⟩ := bind_eq_ok.1 h
  obtain rfl := Except.ok.inj h
  have hd0 : a.view.d0 = b.view.d0 := by
    rw [need_eq_ok] at hdims
    by_cases hsub : e.sub = 0
    · have heq : a.view.dims = b.view.dims := by simpa [hsub] using hdims
      rw [View.d0, View.d0, heq]
    · simp only [hsub, beq_iff_eq, if_false, Bool.and_eq_true] at hdims
      exact hdims.1.1
  refine ⟨_, by rw [Run.reading_outs, Run.mover_outs, List.head?_map, Env.outs_head?]; rfl, rfl, rfl, rfl, ?_⟩
  refine congrArg (Memory.write b.view.data 0) (assembleOver_data (fun i hi hp => ?_) fun i hi hp => ?_)
  · rw [hfirst, Bool.and_eq_true, decide_eq_true_eq, decide_eq_true_eq] at hp
    simp only [if_pos hp, ← hd0, hfirst]
    rfl
  · rw [hfirst, Bool.and_eq_false_iff, decide_eq_false_iff_not, decide_eq_false_iff_not, ← not_and_or] at hp
    simp only [if_neg hp]

/-! ### VEW -/

/-- A value is the integer `n` exactly. -/
def FVal.IsInt (v : FVal) (n : Int) : Prop := ∃ neg m, v = .fin neg m 0 ∧ n = if neg then -(m : Int) else m

theorem FVal.isInt_ofInt (n : Int) : (FVal.ofInt n).IsInt n := by
  refine ⟨_, _, rfl, ?_⟩
  simp only [decide_eq_true_eq]
  split <;> omega

section
variable {v w x : FVal} {p q : Int}

theorem FVal.IsInt.neg (h : v.IsInt p) : v.neg.IsInt (-p) := by
  obtain ⟨s, m, rfl, rfl⟩ := h
  refine ⟨!s, m, rfl, ?_⟩
  cases s <;> simp

theorem FVal.IsInt.add (hv : v.IsInt p) (hw : w.IsInt q) : (v.add w).IsInt (p + q) := by
  obtain ⟨s, m, rfl, rfl⟩ := hv
  obtain ⟨t, n, rfl, rfl⟩ := hw
  simp only [FVal.add, sig, min_self, Int.sub_self, Int.toNat_zero, pow_zero, mul_one]
  generalize (if s = true then -(m : Int) else m) + (if t = true then -(n : Int) else n) = k
  split
  next hzero => exact ⟨_, _, rfl, by simp [hzero]⟩
  next => exact FVal.isInt_ofInt _

theorem FVal.IsInt.sub (hv : v.IsInt p) (hw : w.IsInt q) : (v.sub w).IsInt (p - q) := hv.add hw.neg

theorem FVal.IsInt.mul (hv : v.IsInt p) (hw : w.IsInt q) : (v.mul w).IsInt (p * q) := by
  obtain ⟨s, m, rfl, rfl⟩ := hv
  obtain ⟨t, n, rfl, rfl⟩ := hw
  refine ⟨s != t, m * n, rfl, ?_⟩
  cases s <;> cases t <;> simp

/-- An integer rounds to itself in either mode (R145). -/
theorem FVal.IsInt.roundsTo (h : v.IsInt p) (mode : Bool) : ∃ neg m, v = .fin neg m 0 ∧ RoundsTo mode neg m 0 p := by
  obtain ⟨s, m, rfl, hp⟩ := h
  exact ⟨s, m, rfl, m, hp, by simp⟩

/-- ADD, SUB and MUL of integers are exact (R215, Table 8-3). -/
theorem vewVal_isInt {sub bits : Nat} {bytes on : Bool} (hsub : sub ≤ 2) (hv : v.IsInt p) (hw : w.IsInt q) :
    (vewVal sub bits bytes on v w x).IsInt (if sub = 0 then p + q else if sub = 1 then p - q else p * q) := by
  match sub, hsub with
  | 0, _ => exact hv.add hw
  | 1, _ => exact hv.sub hw
  | 2, _ => exact hv.mul hw

end

/-- An element of an integer tensor without scales is the integer of its code (Table 5-1). -/
theorem View.real_isInt {v : View} (h : isI v.dtype = true) (hgroup : v.group = 0) (hrow : v.hasRow = false) (i j : Nat) :
    (v.real i j).IsInt (signed (bitsOf v.dtype) (v.code i j)) := by
  have helem : v.real i j = .ofInt (signed (bitsOf v.dtype) (v.code i j)) := by
    rcases isI_iff.1 h with h | h <;> simp [View.real, hgroup, hrow, elemVal, h, isU, bitsOf]
  rw [helem]
  exact FVal.isInt_ofInt _

/-- An integer is written to an integer tensor as itself, saturated (R148, R215). -/
theorem signed_encElem_of_isInt {v : View} {mode : Bool} {i j : Nat} {x : FVal} {n : Int} (h : isI v.dtype = true)
    (hx : x.IsInt n) : signed (bitsOf v.dtype) (encElem v mode i j x).1 =
      max (-(2 ^ (bitsOf v.dtype - 1) : Int)) (min (2 ^ (bitsOf v.dtype - 1) - 1) n) := by
  obtain ⟨neg, m, rfl, hn⟩ := hx.roundsTo mode
  rw [signed_encElem_of_isI h, toRange_of_roundsTo hn (neg_two_pow_le _)]

theorem encElem_lt_of_isI {v : View} (h : isI v.dtype = true) (mode : Bool) (i j : Nat) (x : FVal) :
    (encElem v mode i j x).1 < 2 ^ bitsOf v.dtype := by
  rw [encElem_of_isI h]
  exact unsigned_lt ..

/-- Integers stay exact until they are written (R215). -/
theorem vround_of_isI {t : Nat} (h : isI t = true) (mode : Bool) (v : FVal) : vround t mode v = v := by
  rcases isI_iff.1 h with rfl | rfl <;> rfl

/-- A tensor of which every element is written. -/
theorem vwrite_data {v : View} {mode : Bool} {f : Nat → Nat → Option FVal} {g : Nat → Nat → FVal}
    (h : ∀ i j, f i j = some (g i j)) :
    (vwrite v mode f).data = packRows v.dtype (v.rowsOfCodes fun i j => (encElem v mode i j (g i j)).1) := by
  simp [vwrite, vcodes, vcode, View.rowsOfCodes, h, Function.comp_def]

/-- VEW ADD, SUB and MUL of integers, without a mask or an immediate value, write every element (R220, R222). -/
theorem vewRun_writesCodes {x z y : Arg} (h : vewRun e c = .ok r) (hsub : e.sub ≤ 2) (himm : e.flag 4 = false)
    (hmask : e.flag 5 = false) (hx : e.arg c 0 = .ok x) (hz : e.arg c 1 = .ok z) (hy : e.arg c 2 = .ok y)
    (hI : isI x.view.dtype = true) :
    r.WritesCodes y fun i j => (encElem y.view e.mode i j (vewVal e.sub (bitsOf x.view.dtype) (isBytes x.view.dtype) true
      (x.view.real i j) (z.view.real (if e.flag 6 = true then 0 else i) j) .zero)).1 := by
  have hne (k : Nat) (hk : 2 < k) : (e.sub == k) = false := beq_eq_false_iff_ne.2 (hsub.trans_lt hk).ne
  have hbinary : (!(e.sub == 6 || e.sub == 7 || e.sub == 8 || e.sub == 19) && !e.flag 4) = true := by simp [hne, himm]
  have hcmp : decide (10 ≤ e.sub) = false := decide_eq_false (by omega)
  unfold vewRun at h
  simp only [hbinary, hne 3 (by omega), hmask, hcmp, Env.optArg_absent, Bool.false_and, Bool.false_eq_true, if_false] at h
  obtain ⟨-, -, h⟩ := bind_eq_ok.1 h
  replace h := eq_ok_of_bind hx h
  replace h := eq_ok_of_bind (Env.optArg_present hz) h
  replace h := eq_ok_of_bind hy h
  replace h := eq_ok_of_bind rfl (eq_ok_of_bind rfl h)
  obtain ⟨-, -, h⟩ := bind_eq_ok.1 h
  obtain rfl := Except.ok.inj h
  refine ⟨_, by rw [Run.reading_outs, Run.vector_outs, Env.outs_head?], rfl, rfl, rfl, ?_⟩
  refine congrArg (Memory.write y.view.data 0) (vwrite_data fun i j => ?_)
  cases hrow : e.flag 6 <;> simp [active, vround_of_isI hI]

end Sys2Proof.Machine

open Sys2Proof Sys2Proof.Machine

/-- Settles O13: the rows of codes that each of the three commands writes over its operand's copy are read back, and for VEW the
exact integer is what its code gives. -/
theorem fillCopyAndVewWriteTheirElements : Obligations.FillCopyAndVewWriteTheirElements := by
  unfold Obligations.FillCopyAndVewWriteTheirElements
  refine ⟨fun e c r b h hb htrans htype => ?_, fun e c r a b h ha hb htype _ _ htrans => ?_,
    fun e c r x z y h hsub himm hmask hx hz hy hIx hIz hIy hxgroup hxrow hzgroup hzrow htrans => ?_⟩
  · refine (fillRun_writesCodes h hb htype).reads htrans fun i j => ?_
    exact iteInduction (motive := (· < 2 ^ bitsOf b.view.dtype)) (fun _ => View.fillCode_lt ..) fun _ =>
      b.view.code_lt ..
  · refine (copyRun_writesCodes h ha hb).reads htrans fun i j => ?_
    exact iteInduction (motive := (· < 2 ^ bitsOf b.view.dtype)) (fun _ => htype ▸ a.view.code_lt ..) fun _ =>
      b.view.code_lt ..
  · obtain ⟨o, hhead, hpart, hbuf, hkey, hcode⟩ := (vewRun_writesCodes h hsub himm hmask hx hz hy hIx).reads htrans
      fun i j => encElem_lt_of_isI hIy ..
    refine ⟨o, hhead, hpart, hbuf, hkey, fun i j hi hj => ?_⟩
    rw [hcode i j hi hj]
    exact signed_encElem_of_isInt hIy
      (vewVal_isInt hsub (View.real_isInt hIx hxgroup hxrow i j) (View.real_isInt hIz hzgroup hzrow _ j))

end

section
/-! SUPPORT. The end of a command changes the state of no partition and no shared copy (R108, R110, R113). -/

namespace Sys2Proof.Machine

/-! ### The states of partitions -/

/-- From `c` to `k` no partition has changed its state. -/
structure Core.SameStates (c k : Core) : Prop where
  state : ∀ j, (k.part j).state = (c.part j).state

namespace Core.SameStates

variable {c k l : Core}

theorem refl (c : Core) : c.SameStates c := ⟨fun _ => rfl⟩

theorem trans (h : c.SameStates k) (h' : k.SameStates l) : c.SameStates l :=
  ⟨fun j => (h'.state j).trans (h.state j)⟩

theorem of_parts (h : k.parts = c.parts) : c.SameStates k :=
  ⟨fun j => congrArg Part.state (Core.part_of_parts h j)⟩

theorem of_eq (h : k = c) : c.SameStates k := of_parts (congrArg Core.parts h)

theorem updPart (c : Core) (n : Nat) {f : Part → Part} (hf : ∀ p, (f p).state = p.state) : c.SameStates (c.updPart n f) := by
  refine ⟨fun j => ?_⟩
  rw [Core.part_updPart]
  split
  · next h => rw [hf, h]
  · rfl

theorem health (c : Core) (n : Nat) (f : Health → Health) : c.SameStates (c.health n f) := updPart c n fun _ => rfl

end Core.SameStates

/-! ### What the end of a command keeps -/

/-- Shared copies are those that no selection by instances or bindings drops. -/
theorem Core.copy_shared_of_filter {c k : Core} {g : Copy → Bool} (hk : k.copies = c.copies.filter g)
    (hg : ∀ x : Copy, x.key = .shared → g x = true) (p b : Nat) : k.copy p b .shared = c.copy p b .shared := by
  have hfind : (fun x : Copy => g x && (x.part == p && x.buf == b && x.key == .shared)) =
      fun x => x.part == p && x.buf == b && x.key == .shared := by
    funext x
    by_cases hx : x.key = .shared
    · rw [hg x hx, Bool.true_and]
    · simp [hx]
  simp only [Core.copy, hk, List.find?_filter, Bool.decide_and, Bool.decide_eq_true, hfind]

/-- From `c` to `k` no partition has changed its state, and every shared copy is what it was. -/
structure Core.Keeps (c k : Core) : Prop where
  states : c.SameStates k
  shared : ∀ p b, k.copy p b .shared = c.copy p b .shared

namespace Core.Keeps

variable {c k l : Core}

theorem refl (c : Core) : c.Keeps c := ⟨.refl c, fun _ _ => rfl⟩

theorem trans (h : c.Keeps k) (h' : k.Keeps l) : c.Keeps l :=
  ⟨h.states.trans h'.states, fun p b => (h'.shared p b).trans (h.shared p b)⟩

/-- What leaves partitions and copies alone. -/
theorem of_eq (h : c.Keeps k) (hp : l.parts = k.parts) (hc : l.copies = k.copies) : c.Keeps l :=
  h.trans ⟨.of_parts hp, fun p b => by simp only [Core.copy, hc]⟩

theorem updPart (h : c.Keeps k) (n : Nat) {f : Part → Part} (hf : ∀ p, (f p).state = p.state) : c.Keeps (k.updPart n f) :=
  h.trans ⟨.updPart k n hf, fun _ _ => rfl⟩

theorem health (h : c.Keeps k) (n : Nat) (f : Health → Health) : c.Keeps (k.health n f) := h.updPart n fun _ => rfl

/-- Whichever way a choice goes. -/
theorem ite {p : Prop} [Decidable p] (hk : c.Keeps k) (hl : c.Keeps l) : c.Keeps (if p then k else l) := by
  split
  · exact hk
  · exact hl

theorem complete (h : c.Keeps k) (q : Nat) (want : Bool) (x : Cpl) : c.Keeps (k.complete q want x) :=
  h.of_eq (Core.complete_parts ..) (Core.complete_copies ..)

/-! ### Clips and instances -/

theorem endClip (h : c.Keeps k) (now reason : Nat) (x : Clip) : c.Keeps (k.endClip now reason x) := by
  have hclips : c.Keeps { k.draw.2 with clips := k.draw.2.clips.filter (·.binding != x.binding) } := h.of_eq rfl rfl
  unfold Core.endClip
  simp only
  refine .ite ?_ (.of_eq ?_ (Core.putRec_parts ..) (Core.putRec_copies ..))
  all_goals
    refine .ite hclips ?_
    split
    · exact hclips.of_eq (Core.freezeQ_parts ..) (Core.freezeQ_copies ..)
    · exact hclips.of_eq (Core.post_parts ..) (Core.post_copies ..)

theorem missClip (h : c.Keeps k) (now binding pic : Nat) : c.Keeps (k.missClip now binding pic) := by
  have hruns : c.Keeps (k.dropClipRuns binding) := h.of_eq rfl rfl
  unfold Core.missClip
  simp only
  split
  · exact h
  refine .ite h (.ite (.endClip ?_ ..) ?_)
  all_goals exact .of_eq (.ite hruns h) rfl rfl

/-- Instances take their own copies with them, and the last one those of its binding (R110). -/
theorem dropInst (h : c.Keeps k) (i : Inst) : c.Keeps (k.dropInst i) :=
  h.trans ⟨.of_parts rfl, Core.copy_shared_of_filter rfl fun x hx => by simp [hx]⟩

theorem endInst (h : c.Keeps k) (now : Nat) (i : Inst) (st : Status) (detail : Nat) :
    c.Keeps (k.endInst now i st detail) := by
  unfold Core.endInst
  simp only
  generalize k.withRuns i = j
  have hputs : c.Keeps (if st == .ok || st == .late then k else k.damagePuts j) := .ite h (h.updPart _ fun _ => rfl)
  generalize (if st == .ok || st == .late then k else k.damagePuts j) = d at hputs ⊢
  have hmiss : c.Keeps (match j.binding, j.pic with
      | some b, some p => d.missClip now b p.2
      | _, _ => d) := by
    split
    · exact hputs.missClip ..
    · exact hputs
  have hdrop := hmiss.dropInst j
  generalize Core.dropInst _ j = m at hdrop ⊢
  split
  · exact .of_eq (.ite (hdrop.health ..) hdrop) (Core.completeBound_parts ..) (Core.completeBound_copies ..)
  · exact .of_eq (.ite (hdrop.health ..) hdrop) (Core.completeLate_parts ..) (Core.completeLate_copies ..)

theorem settle (h : c.Keeps k) (now id : Nat) : c.Keeps (k.settle now id) := by
  unfold Core.settle
  split
  · exact h
  split
  · exact h
  split <;> exact h.endInst ..

theorem proceed (h : c.Keeps k) (now id : Nat) : c.Keeps (k.proceed now id) := by
  unfold Core.proceed
  split
  · exact h
  split
  · exact h.settle now id
  · refine .settle (.of_eq h ?_ ?_) now id <;> rfl

/-! ### Commands -/

theorem failRing (h : c.Keeps k) (now q : Nat) (bufs : List Nat) (l : List Fetched) : c.Keeps (k.failRing now q bufs l) := by
  induction l generalizing k bufs with
  | nil => exact h
  | cons f l ih =>
    have hgone : c.Keeps (k.updQ q fun y => { y with fetched := y.fetched.filter fun g => g.n != f.n }) := h.of_eq rfl rfl
    unfold Core.failRing
    simp only
    exact .ite (ih h _) (.ite (ih (hgone.complete ..) _) (.ite (ih (hgone.complete ..) _) (ih h _)))

theorem endCmd (h : c.Keeps k) (now : Nat) (r : Run) (st : Status) (detail : Nat) : c.Keeps (k.endCmd now r st detail) := by
  unfold Core.endCmd
  simp only
  split
  · exact .ite h (.ite (h.complete ..) (.failRing (h.complete ..) ..))
  · split <;> (refine .proceed (.of_eq h ?_ ?_) .. <;> rfl)

end Core.Keeps

/-- A run whose end adds nothing to its outputs fails: nothing that it was to write is written (R108). -/
theorem Core.failRun_keeps (c : Core) (now : Nat) {r : Run} {st : Status} (hpost : r.post = .none) (h : commits st = false) :
    c.Keeps (c.failRun now r st) := by
  obtain ⟨n, m, hdrawn⟩ := c.drawn_cases { r with status := st, detail := 0 }
  have hfree : c.Keeps (({ c with free := n } : Core).dropRun r.id) := .of_eq (.refl c) rfl rfl
  unfold Core.failRun Core.endRun
  rw [hdrawn]
  simp only [h, Core.undo, hpost]
  exact hfree.endCmd ..

/-! ### Messages -/

section
variable (s : State)

/-- Ports and the count of flits without a route are all that a flit changes of the links (R429). -/
theorem Link.launch_eq (l : Link) (from_ : Option Nat) (f : Flit) :
    ∃ ports n, l.launch from_ f = { l with ports := ports, noroute := n } := by
  have hsend (ps : List Nat) :
      ∃ ports, ps.foldl (fun (l : Link) p => l.updPort p fun x => x.send f) l = { l with ports := ports } := by
    refine List.foldlRecOn (motive := fun m : Link => ∃ ports, m = { l with ports := ports }) ps _ ⟨_, rfl⟩ fun m hm p _ => ?_
    obtain ⟨ports, rfl⟩ := hm
    exact ⟨_, rfl⟩
  unfold Link.launch
  split
  · obtain ⟨ports, h⟩ := hsend (l.upPorts.filter fun p => from_ != some p)
    exact ⟨ports, _, h⟩
  · split
    · exact ⟨_, _, rfl⟩
    · exact ⟨_, _, rfl⟩

/-- A message that is to be answered draws a free value and is on its way, or waits (R21, R423). -/
theorem State.sendMgmt_eq (dest unit : Nat) (what : SentFor) :
    ∃ n l, s.sendMgmt dest unit what = { s with core := { s.core with free := n }, link := l } := by
  unfold State.sendMgmt
  split <;> exact ⟨_, _, rfl⟩

theorem State.foldl_sendMgmt_eq {α : Type} (l : List α) {f : State → α → State}
    (h : ∀ (s : State) x, ∃ n l, f s x = { s with core := { s.core with free := n }, link := l }) :
    ∃ n k, l.foldl f s = { s with core := { s.core with free := n }, link := k } := by
  refine List.foldlRecOn (motive := fun t : State => ∃ n k, t = { s with core := { s.core with free := n }, link := k })
    l f ⟨_, _, rfl⟩ fun t ht x _ => ?_
  obtain ⟨n, k, rfl⟩ := ht
  exact h _ x

theorem State.sendHeld_eq : ∃ n l, s.sendHeld = { s with core := { s.core with free := n }, link := l } :=
  State.foldl_sendMgmt_eq _ _ fun s _ => s.sendMgmt_eq ..

theorem State.dropSent_eq (id : Nat) : ∃ n l, s.dropSent id = { s with core := { s.core with free := n }, link := l } :=
  State.sendHeld_eq _

theorem State.tellMembers_eq :
    ∃ n l, s.tellMembers = { s with core := { s.core with free := n, untold := [] }, link := l } :=
  State.foldl_sendMgmt_eq _ _ fun s _ => s.sendMgmt_eq ..

theorem State.sendHeld_tellMembers_eq :
    ∃ n l, s.sendHeld.tellMembers = { s with core := { s.core with free := n, untold := [] }, link := l } := by
  obtain ⟨n, l, hheld⟩ := s.sendHeld_eq
  obtain ⟨n', l', htell⟩ := s.sendHeld.tellMembers_eq
  refine ⟨n', l', htell.trans ?_⟩
  rw [hheld]

/-- An answer goes out, and is all that the links keep of it beside their ports (R422). -/
theorem State.reply_link (dest id : Nat) (r : Reply) : ∃ ports n, (s.reply dest id r).link =
    { s.link with ports := ports, noroute := n, replies := s.link.replies ++ [(id, r)] } := by
  obtain ⟨ports, n, h⟩ := s.link.launch_eq none (s.mgmtFlit dest 0x20)
  exact ⟨ports, n, by simp only [State.reply, h]⟩

@[simp] theorem State.reply_replies (dest id : Nat) (r : Reply) :
    (s.reply dest id r).link.replies = s.link.replies ++ [(id, r)] := by
  obtain ⟨ports, n, h⟩ := s.reply_link dest id r
  rw [h]
@[simp] theorem State.reply_windows (dest id : Nat) (r : Reply) : (s.reply dest id r).link.windows = s.link.windows := by
  obtain ⟨ports, n, h⟩ := s.reply_link dest id r
  rw [h]
@[simp] theorem State.reply_steps (dest id : Nat) (r : Reply) : (s.reply dest id r).link.steps = s.link.steps := by
  obtain ⟨ports, n, h⟩ := s.reply_link dest id r
  rw [h]

end

/-- A command whose message failed ends without a commit, and the links have no part in it (R422, R423). -/
theorem State.failSent_ends {s : State} {k : Nat} {r : Run} {st : Status} (hr : s.core.run? k = some r)
    (hpost : r.post = .none) (hst : commits st = false) :
    (s.failSent k st).core.run? k = none ∧ (s.failSent k st).link = s.link ∧ s.core.Keeps (s.failSent k st).core := by
  have hfail : s.failSent k st = { s with core := s.core.failRun s.tick.count (s.owed r) st } := by
    simp [State.failSent, State.failAt, hr, hpost]
  have hid : (s.owed r).id = k := (Core.run?_id hr : r.id = k)
  rw [hfail]
  exact ⟨hid ▸ (s.core.failRun_over _ (s.owed r) hst).2, rfl, s.core.failRun_keeps _ hpost hst⟩

end Sys2Proof.Machine
end

section
/-! SUPPORT. What a build leaves of the partitions: their states, whatever the builder's walk passes (R34, R107, R270). -/

namespace Sys2Proof.Machine

/-! ### Runs of host transfers -/

/-- A run whose end does nothing beside its outputs, or writes to host memory: that of a HOST_READ or a HOST_WRITE (R260). -/
def Run.Transfers (r : Run) : Prop := r.post = .none ∨ ∃ addr data, r.post = .hostWrite addr data

section
variable (c : Core)

theorem Core.foldl_parts {α : Type} (l : List α) {f : Core → α → Core} (h : ∀ (c : Core) x, (f c x).parts = c.parts) :
    (l.foldl f c).parts = c.parts :=
  List.foldlRecOn (motive := fun k : Core => k.parts = c.parts) l f rfl fun k hk x _ => (h k x).trans hk

theorem Core.commit_parts (op : Nat) (frame maker : Option Nat) (o : Out) : (c.commit op frame maker o).parts = c.parts := by
  unfold Core.commit
  simp only
  split <;> exact Core.setCopy_parts ..

theorem Core.bump_parts (part b : Nat) (key : CopyKey) : (c.bump part b key).parts = c.parts := Core.setCopy_parts ..

@[simp] theorem Core.readEnded_parts (e : Env) (st : Status) : (c.readEnded e st).parts = c.parts := by
  unfold Core.readEnded
  split
  · split <;> simp
  · rfl

theorem Core.endCmd_sameStates (now : Nat) (r : Run) (st : Status) (detail : Nat) :
    c.SameStates (c.endCmd now r st detail) :=
  ((Core.Keeps.refl c).endCmd ..).states

variable {r : Run}

theorem Core.postCommit_parts_of_transfers (now : Nat) (h : r.Transfers) : (c.postCommit now r).1.parts = c.parts := by
  rcases h with h | ⟨addr, data, h⟩ <;> simp [Core.postCommit, h]

theorem Core.undo_of_transfers (h : r.Transfers) : c.undo r = c := by
  rcases h with h | ⟨addr, data, h⟩ <;> simp [Core.undo, h]

theorem Core.drawn_parts (r : Run) : (c.drawn r).1.parts = c.parts := by
  obtain ⟨n, m, h⟩ := c.drawn_cases r
  rw [h]

theorem Core.drawn_transfers (h : r.Transfers) : (c.drawn r).2.Transfers := by
  obtain ⟨n, m, hdrawn⟩ := c.drawn_cases r
  rw [hdrawn]
  exact h

theorem Core.endRun_sameStates (now : Nat) (h : r.Transfers) : c.SameStates (c.endRun now r) := by
  have hy := c.drawn_transfers h
  have hd : ((c.drawn r).1.dropRun r.id).parts = c.parts := c.drawn_parts r
  unfold Core.endRun
  simp only
  generalize (c.drawn r).1.dropRun r.id = d at hd ⊢
  generalize (c.drawn r).2 = y at hy ⊢
  split
  · have hout : (if y.status == .zeroShape then d else
        y.outs.foldl (fun c o => c.commit y.op (c.frameOf y) y.maker o) d).parts = c.parts := by
      split
      · exact hd
      · exact (d.foldl_parts _ fun c o => c.commit_parts ..).trans hd
    generalize (if y.status == .zeroShape then d else
      y.outs.foldl (fun c o => c.commit y.op (c.frameOf y) y.maker o) d) = k at hout ⊢
    have hpost : c.SameStates (k.postCommit now y).1 := .of_parts ((k.postCommit_parts_of_transfers now hy).trans hout)
    split
    · have hcounts := hpost.trans (.health _ y.part fun h => addCounts h y.counts)
      refine .trans ?_ (Core.endCmd_sameStates ..)
      split
      · exact hcounts.trans (.of_parts rfl)
      · exact hcounts
    · exact hpost.trans (Core.endCmd_sameStates ..)
  · rw [Core.undo_of_transfers _ hy]
    exact (Core.SameStates.of_parts hd).trans (Core.endCmd_sameStates ..)

/-! ### Commands that the builder takes up -/

theorem Env.inFlight_post (e : Env) (a : Amb) (r : Run) : (e.inFlight a c r).post = r.post := by
  simp only [Env.inFlight, Env.stepsFor]
  split <;> rfl

theorem Core.launch_sameStates (a : Amb) (e : Env) (h : r.Transfers) : c.SameStates (c.launch a e r) := by
  have hflight : (e.inFlight a c r).Transfers := by
    unfold Run.Transfers
    rwa [Env.inFlight_post]
  obtain ⟨x, hx⟩ := c.allot_eq (e.inFlight a c r)
  unfold Core.launch
  simp only [hx]
  split
  · refine .trans ?_ (Core.endRun_sameStates _ _ hflight)
    exact .of_parts rfl
  · exact .of_parts rfl

/-- A ZERO_SHAPE counts up versions, and no more (R108). -/
theorem Core.stopCmd_sameStates (a : Amb) (e : Env) (st : Status) (detail : Option Nat) :
    c.SameStates (c.stopCmd a e st detail) := by
  have hbump (l : List Out) :
      (if st == Status.zeroShape then l.foldl (fun c o => c.bump o.part o.buf o.key) c else c).parts = c.parts := by
    split
    · exact c.foldl_parts l fun c o => c.bump_parts ..
    · rfl
  unfold Core.stopCmd
  simp only
  refine .trans (.of_parts ?_) (Core.endCmd_sameStates ..)
  split
  · split <;> exact hbump _
  · exact hbump _

theorem Core.violate_sameStates (a : Amb) (e : Env) (kind value : Nat) : c.SameStates (c.violate a e kind value) := by
  unfold Core.violate
  refine .trans ?_ (Core.stopCmd_sameStates ..)
  exact .of_parts (Core.freezeQ_parts ..)

/-- What stands against a command never makes it answer (R117, R119). -/
theorem Core.judge_eq_ok {α : Type} {e : Env} {x : Except Stop α} {y : α} (h : c.judge e x = .ok y) : x = .ok y := by
  unfold Core.judge at h
  split at h
  · exact h
  · cases h
  · split at h <;> cases h
  · split at h <;> cases h
  · cases h

theorem runOnly_eq_ok {f : Env → Core → Except Stop Run} {e : Env} {k : Core} {x : Option Run}
    (h : runOnly f e c = .ok (k, x)) : k = c ∧ ∃ r, x = some r ∧ f e c = .ok r := by
  obtain ⟨r, hr, hk⟩ := bind_eq_ok.1 h
  cases hk
  exact ⟨rfl, r, rfl, hr⟩

/-- A host transfer that the builder takes up changes no partition's state, whatever becomes of it. -/
theorem Core.commandOn_sameStates (h : Option Env) {f : Env → Core → Except Stop Run}
    (hf : ∀ e r, f e c = .ok r → r.Transfers) (a : Amb) : c.SameStates (Core.commandOn h (runOnly f) a c) := by
  unfold Core.commandOn
  split
  · exact .refl c
  · next e =>
    split
    · exact .refl c
    · exact .trans (.of_parts (by simp)) (Core.stopCmd_sameStates ..)
    · exact .trans (.of_parts (by simp)) (Core.violate_sameStates ..)
    · next k x hjudge =>
      obtain ⟨rfl, r, rfl, hr⟩ := runOnly_eq_ok c (c.judge_eq_ok hjudge)
      exact .trans (.of_parts (by simp)) (Core.launch_sameStates _ a e (hf e r hr))

theorem hostReadRun_transfers {e : Env} (h : hostReadRun e c = .ok r) : r.Transfers := by
  unfold hostReadRun at h
  iterate 6 obtain ⟨_, -, h⟩ := bind_eq_ok.1 h
  cases h
  exact .inl rfl

theorem hostWriteRun_transfers {e : Env} (h : hostWriteRun e c = .ok r) : r.Transfers := by
  unfold hostWriteRun at h
  iterate 3 obtain ⟨_, -, h⟩ := bind_eq_ok.1 h
  cases h
  exact .inr ⟨_, _, rfl⟩

/-! ### The builder's walk -/

theorem Core.controlAt_sameStates (e : Env) (f : Env → Inst → Except Stop Inst) (bad : Env → Program → Status → Inst → Inst)
    (a : Amb) : c.SameStates (Core.controlAt e f bad a c) := by
  unfold Core.controlAt
  split
  · split
    · refine (Core.Keeps.proceed ?_ ..).states
      exact .of_eq (.refl c) rfl rfl
    · refine .trans ?_ (Core.stopCmd_sameStates ..)
      exact .of_parts rfl
    · exact .refl c
  · exact .refl c

theorem Core.steer1_sameStates {a : Amb} {id : Nat} {k : Core} (h : c.steer1 a id = some k) : c.SameStates k := by
  unfold Core.steer1 at h
  split at h
  · cases h
  split at h
  · cases h
  split at h
  · cases h
  obtain ⟨-, h⟩ := Option.ite_none_left_eq_some.1 h
  obtain ⟨f, -, rfl⟩ := Option.map_eq_some_iff.1 h
  exact c.controlAt_sameStates ..

theorem Core.steer_sameStates (a : Amb) (n id : Nat) : c.SameStates (Core.steer a n c id) := by
  induction n generalizing c with
  | zero => exact .refl c
  | succ n ih =>
    unfold Core.steer
    split
    · next d h => exact (c.steer1_sameStates h).trans (ih d)
    · exact .refl c

end

end Sys2Proof.Machine
end

section
/-! SUPPORT. The passes of a build plan jobs, and change the machine only where the builder's walk passes a WAIT (R34, R107): no
partition changes its state. -/

namespace Sys2Proof.Machine

/-! ### Jobs leave the machine alone -/

/-- A plan that a job leaves is of the same machine. -/
def Placed.Of (c : Core) : Placed → Prop
  | .waits => True
  | .all q | .part q _ => q.c = c

section
variable (x : Site) (pass : Nat) (p : Plan)

theorem Site.job_of (j : Job) : (x.job pass p j).Of p.c := by
  unfold Site.job
  split
  · trivial
  · split
    · rfl
    · simp only
      split <;> rfl

@[simp] theorem Site.each_c (l : List Job) : (x.each pass l p).c = p.c := by
  refine List.foldlRecOn (motive := fun q : Plan => q.c = p.c) l _ rfl fun q hq j _ => ?_
  have hj := x.job_of pass q j
  split
  · exact hq
  · next h => rw [h] at hj; exact hj.trans hq
  · next h => rw [h] at hj; exact hj.trans hq

@[simp] theorem Site.jobs_c (l : List Job) : (x.jobs pass l p).1.c = p.c := by
  induction l generalizing p with
  | nil => rfl
  | cons j l ih =>
    have hj := x.job_of pass p j
    unfold Site.jobs
    split
    · exact ih p
    · next h => rw [h] at hj; exact (ih _).trans hj
    · next h => rw [h] at hj; exact hj

/-- Plannings that follow one another, each of which leaves the machine alone. -/
theorem Plan.foldl_c {α : Type} (l : List α) {f : Plan → α → Plan} (h : ∀ (p : Plan) y, (f p y).c = p.c) :
    (l.foldl f p).c = p.c :=
  List.foldlRecOn (motive := fun q : Plan => q.c = p.c) l f rfl fun q hq y _ => (h q y).trans hq

@[simp] theorem Site.pass1_c (moves : Bool) : (x.pass1 moves p).c = p.c := by
  unfold Site.pass1
  simp only
  rw [Plan.foldl_c, Plan.foldl_c]
  · split
    · refine Plan.foldl_c _ _ fun p m => ?_
      split <;> exact x.each_c ..
    · rfl
  · exact fun p e => x.each_c ..
  · intro p k
    split
    · exact x.each_c ..
    · rfl

@[simp] theorem Site.staged_c (i : Inst) (pr : Program) : (x.staged p i pr).c = p.c := by
  unfold Site.staged
  split <;> rfl

@[simp] theorem Site.whole_c (i : Inst) : (x.whole pass p i).1.c = p.c := by
  unfold Site.whole
  simp only
  split <;> simp

/-! ### The builder's walk -/

theorem Site.passWaits_sameStates (n id : Nat) : p.c.SameStates (x.passWaits n p id).c := by
  induction n generalizing p with
  | zero => exact .refl _
  | succ n ih =>
    unfold Site.passWaits
    split
    · exact .refl _
    split
    · exact .refl _
    split
    · exact .refl _
    simp only
    split
    · exact .refl _
    · refine .trans ?_ (ih _)
      have hupd (i : Inst) : p.c.SameStates (p.c.updInst id fun _ => i) := .of_parts rfl
      exact (hupd _).trans (Core.steer_sameStates ..)

theorem Site.reach_sameStates (i : Inst) : p.c.SameStates (x.reach p i).c := by
  have hpast : p.c.SameStates (x.past p i).c := by
    unfold Site.past
    split
    · exact .refl _
    · exact x.passWaits_sameStates ..
  unfold Site.reach
  simp only
  split
  · exact hpast
  · exact hpast.trans (.of_eq (by simp))

theorem Site.ringPast_sameStates (q : Nat) (f : Fetched) : p.c.SameStates (x.ringPast p q f).c := by
  unfold Site.ringPast
  split
  · exact .refl _
  have htaken (h : Option Env) (a : Amb) : p.c.SameStates
      (Core.commandOn h (if f.op == 0x6003 then runOnly hostReadRun else runOnly hostWriteRun) a p.c) := by
    split
    · exact p.c.commandOn_sameStates h (fun _ _ => hostReadRun_transfers p.c) a
    · exact p.c.commandOn_sameStates h (fun _ _ => hostWriteRun_transfers p.c) a
  simp only
  split
  · split
    · exact .refl _
    · exact .trans (htaken _ _) (.of_eq (x.each_c ..))
  · exact .refl _

/-- Plannings that follow one another, none of which changes a partition's state. -/
theorem Plan.foldl_sameStates {α : Type} (l : List α) {f : Plan → α → Plan} (h : ∀ (p : Plan) y, p.c.SameStates (f p y).c) :
    p.c.SameStates (l.foldl f p).c :=
  List.foldlRecOn (motive := fun q : Plan => p.c.SameStates q.c) l f (.refl _) fun q hq y _ => hq.trans (h q y)

/-! ### The passes -/

theorem Site.pass2_sameStates : p.c.SameStates (x.pass2 p).c := by
  unfold Site.pass2
  simp only
  refine .trans (.of_eq (by simp)) (Plan.foldl_sameStates _ _ fun q i => ?_)
  have hplanned : q.c.SameStates (x.each 2 (x.firstClip (x.jobs 2 (x.jobsOf (x.reach q i) i.id).1 (x.reach q i)).1 i id)
      (x.jobs 2 (x.jobsOf (x.reach q i) i.id).1 (x.reach q i)).1).c := (x.reach_sameStates q i).trans (.of_eq (by simp))
  split <;> exact hplanned

theorem Site.takeIn_sameStates (i : Inst) : p.c.SameStates (x.takeIn p i).c := by
  have hreach := x.reach_sameStates p i
  unfold Site.takeIn
  simp only
  split
  · exact .refl _
  split
  · exact .refl _
  split
  · exact .refl _
  · next r l hwhole =>
    have hr : r.c = (x.reach p i).c := by rw [← x.whole_c 3 (x.reach p i) i, hwhole]
    split
    · exact hreach.trans (.of_eq (by rw [hr]))
    · exact hreach.trans (.of_eq (by simp [hr]))

theorem Site.pass3_sameStates : p.c.SameStates (x.pass3 p).c := by
  unfold Site.pass3
  simp only
  refine Plan.foldl_sameStates _ _ fun q y => ?_
  split
  · exact x.takeIn_sameStates ..
  · exact .of_eq (by simp)
  · exact x.ringPast_sameStates ..

theorem Site.glean_sameStates (i : Inst) : p.c.SameStates (x.glean p i).c := by
  have hreach := x.reach_sameStates p i
  unfold Site.glean
  simp only
  split
  · split
    · exact hreach.trans (.of_eq (by simp))
    · exact .refl _
  · split
    · exact hreach.trans (.of_eq (by simp))
    · exact .refl _

theorem Site.gleanAll_sameStates (l : List (Inst ⊕ Run)) : p.c.SameStates (x.gleanAll l p).c := by
  refine Plan.foldl_sameStates _ _ fun q y => ?_
  split
  · exact x.glean_sameStates ..
  · exact .of_eq (by simp)

theorem Site.pass4_sameStates : p.c.SameStates (x.pass4 p).c := by
  unfold Site.pass4
  simp only
  refine .trans ?_ (.of_eq ((Plan.foldl_c _ _ fun p k => x.each_c ..).trans (Plan.foldl_c _ _ fun p e => x.each_c ..)))
  exact .trans (.of_eq (x.each_c ..)) (Site.gleanAll_sameStates ..)

end

end Sys2Proof.Machine
end

section
/-! SUPPORT. The builds of a tick, and the member's side of a spanned partition: grants, windows and step lists (R270, R278, R421). -/

namespace Sys2Proof.Machine

/-! ### Builds -/

/-- What a mapping of all entries leaves alone in each of them. -/
theorem Tab.get_mapAll_of_keeps {α β : Type} [DecidableEq α] {d : α} {f : Nat → α → α} {g : α → β}
    (hf : ∀ k v, g (f k v) = g v) (t : Tab α) (k : Nat) : g (Tab.get d (Tab.mapAll d t f) k) = g (Tab.get d t k) := by
  induction t with
  | nil => rfl
  | cons e r ih =>
    obtain ⟨i, v⟩ := e
    simp only [Tab.mapAll, List.foldr_cons] at ih ⊢
    rw [Tab.get_set]
    by_cases hk : i = k
    · subst hk
      simp [Tab.get, hf]
    · simp [Ne.symm hk, ih, Tab.get, hk]

/-- Partitions that are mapped, each to one in the same state. -/
theorem Core.SameStates.mapAll {c k : Core} {f : Nat → Part → Part} (hp : k.parts = Tab.mapAll {} c.parts f)
    (hf : ∀ j p, (f j p).state = p.state) : c.SameStates k := by
  refine ⟨fun j => ?_⟩
  simp only [Core.part, hp]
  exact Tab.get_mapAll_of_keeps hf c.parts j

section
variable (x : Site)

/-- Passes 2 to 4 (R34). -/
theorem Site.laterPasses_sameStates (p : Plan) : p.c.SameStates (x.pass4 (x.pass3 (x.each 2 x.farJobs (x.pass2 p)))).c := by
  have h2 := (x.pass2_sameStates p).trans (.of_eq (x.each_c 2 _ x.farJobs))
  exact (h2.trans (x.pass3_sameStates _)).trans (x.pass4_sameStates _)

theorem Site.build_sameStates (led : Ledger) : x.s.core.SameStates (x.build led).2.1.c := by
  unfold Site.build
  simp only
  split
  · exact .of_eq (x.pass1_c ..)
  · have h1 : x.s.core.SameStates (x.pass1 true (x.base (x.refresh ++ x.b.fixed))).c := .of_eq (x.pass1_c ..)
    simp only
    exact h1.trans (Site.laterPasses_sameStates ..)

end

section
variable (s : State)

/-- What the builders know in the passes over the instances and runs of a cut-off (R32). -/
def State.passSite (b : Build) (insts runs : Nat) : Site :=
  ({ s with core := { s.core with
    insts := s.core.insts.filter fun i => decide (i.id < insts)
    runs := s.core.runs.filter fun r => decide (r.id < runs) } } : State).site b s.led

/-- What the passes let a partition report (R60). -/
def Site.reports (x : Site) (factor _part : Nat) (p : Part) : Part :=
  { p with hNext := { factor := factor, resGrains := p.resGrains x.tick x.perio * factor / 1024 } }

theorem Site.reports_state (x : Site) (factor part : Nat) (p : Part) : (x.reports factor part p).state = p.state := rfl

/-- Partitions after the passes are those of the build, each with its report. -/
theorem State.passes_parts (b : Build) (insts runs : Nat) : (s.passes b insts runs).core.parts =
    Tab.mapAll {} ((s.passSite b insts runs).build s.led).2.1.c.parts
      ((s.passSite b insts runs).reports ((s.passSite b insts runs).build s.led).2.2) := rfl

/-- The passes of a build change the state of no partition. -/
theorem State.passes_sameStates (b : Build) (insts runs : Nat) : s.core.SameStates (s.passes b insts runs).core := by
  have hsite : s.core.SameStates (s.passSite b insts runs).s.core := .of_parts rfl
  have hpasses : ((s.passSite b insts runs).build s.led).2.1.c.SameStates (s.passes b insts runs).core :=
    .mapAll (s.passes_parts b insts runs) (Site.reports_state _ _)
  exact (hsite.trans (Site.build_sameStates ..)).trans hpasses

@[simp] theorem State.passes_link (b : Build) (insts runs : Nat) : (s.passes b insts runs).link = s.link := by
  obtain ⟨c, t, x, h⟩ := s.passes_eq b insts runs
  rw [h]

/-! ### The member's side -/

/-- The grant of a window is no answer. -/
theorem State.grantWindow_replies (src unit : Nat) (seam bulk : Bool) :
    (s.grantWindow src unit seam bulk).link.replies = s.link.replies := rfl

/-- Grants change the core alone (R278). -/
theorem State.takeGrant_eq {s t : State} {g : GrantReq} (h : s.takeGrant g = some t) : t = { s with core := t.core } := by
  unfold State.takeGrant at h
  simp only at h
  repeat' split at h
  all_goals cases h
  all_goals rfl

section
variable {s} {p : Nat} {g : GrantReq} (hopen : s.portOpen p = true)
include hopen

/-- A request that fits is granted, behind a window for replicas (R278). -/
theorem exec_grantRequest_fits {u : State} (h : s.takeGrant g = some u) :
    exec (.grantRequest p g) s = .next ((u.grantWindow g.lead 0x11 false true).reply g.lead g.id .granted) := by
  simp [exec, execGrantRequest, hopen, h]

/-- Any other has no effect and is refused (R278). -/
theorem exec_grantRequest_short (h : s.takeGrant g = none) :
    exec (.grantRequest p g) s = .next (s.reply g.lead g.id .refused) := by
  simp [exec, execGrantRequest, hopen, h]

end

/-! ### Replies and their absence -/

section
variable {s} {id k : Nat} {x : Sent}

/-- A reply from a role that has changed fails the command that waits (R422). -/
theorem exec_mgmtReply_roleChanged (hlive : mlive s.core.mstate = true)
    (hfind : (s.link.sent.find? fun y => y.id == id) = some x) (hwhat : x.what = .run k) :
    exec (.mgmtReply id .roleChanged) s = .next ((s.dropSent id).failSent k .roleChanged) := by
  simp [exec, execMgmtReply, hlive, hfind, hwhat]

/-- Any other reply to a step ends the wait for its message, and no more (R423). -/
theorem exec_mgmtReply_other {r : Reply} (hr : r ≠ .roleChanged) (hlive : mlive s.core.mstate = true)
    (hfind : (s.link.sent.find? fun y => y.id == id) = some x) (hwhat : x.what = .run k) :
    exec (.mgmtReply id r) s = .next (s.dropSent id) := by
  cases r with
  | roleChanged => exact absurd rfl hr
  | done | granted | refused => simp [exec, execMgmtReply, hlive, hfind, hwhat]

/-- No reply in time loses the data of the command that waits (R423). -/
theorem exec_replyTimeout_run (hlive : mlive s.core.mstate = true)
    (hfind : (s.link.sent.find? fun y => y.id == id && decide (y.tick + 1 < s.tick.count)) = some x) (hwhat : x.what = .run k) :
    exec (.replyTimeout id) s = .next ((s.dropSent id).failSent k .dataLost) := by
  simp [exec, execReplyTimeout, hlive, hfind, hwhat]

/-- The command that waits for a message ends without a commit. -/
theorem State.failSent_dropSent {r : Run} {st : Status} (hr : s.core.run? k = some r) (hpost : r.post = .none)
    (hst : commits st = false) : ((s.dropSent id).failSent k st).core.run? k = none ∧
      ((s.dropSent id).failSent k st).link = (s.dropSent id).link ∧
      ∀ p b, ((s.dropSent id).failSent k st).core.copy p b .shared = s.core.copy p b .shared := by
  obtain ⟨n, l, hdrop⟩ := s.dropSent_eq id
  have hwaits : (s.dropSent id).core.run? k = some r := by rw [hdrop]; exact hr
  obtain ⟨hover, hlink, hkeeps⟩ := State.failSent_ends hwaits hpost hst
  refine ⟨hover, hlink, fun p b => (hkeeps.shared p b).trans ?_⟩
  rw [hdrop]
  rfl

end

/-- A creation that a member does not answer leaves an empty partition (R278). -/
theorem Core.memberRefused_creating {c : Core} {now k m : Nat} {x : Cmd × List Nat} (h : (c.part k).creating = some x) :
    (c.memberRefused now k m).part k = {} ∧ ∀ j, j ≠ k → (c.memberRefused now k m).part j = c.part j := by
  have hfailed (j : Nat) : (c.createFailed now k m).part j = if j = k then {} else c.part j := by
    unfold Core.createFailed Core.doneLate
    rw [h, Core.part_of_parts (Core.completeLate_parts ..), Core.part_updPart]
    rfl
  have hlimits : c.memberRefused now k m = c.createFailed now k m := by
    unfold Core.memberRefused Core.limitsFailed
    rw [hfailed, if_pos rfl]
  rw [hlimits]
  exact ⟨by rw [hfailed, if_pos rfl], fun j hj => by rw [hfailed, if_neg hj]⟩

theorem exec_grantTimeout_creating {c : Cmd} {k m : Nat} {ms : List Nat} (h : (s.core.part k).creating = some (c, m :: ms)) :
    ∃ n l, exec (.grantTimeout k) s = .next { s with
      core := { s.core.memberRefused s.tick.count k m with free := n, untold := [] }, link := l } := by
  simp only [exec, execGrantTimeout, h, Option.map_some, Option.getD_some, List.cons_append]
  exact (State.sendHeld_tellMembers_eq _).imp fun n => Exists.imp fun l h => congrArg Host.Outcome.next h

/-- The steps that a lead places here come in the place of those it has placed before, and are answered (R270). -/
def State.placed (s : State) (lead part k : Nat) (steps : List MemberStep) : State :=
  let ts := (s.core.part k).tillers
  let t := ts.getD (Config.freeNat s.core.free 4 % ts.length) 0
  let u := s.updLink fun l => { l with steps := l.steps.filter (fun x => !(x.1 == lead && x.2.1 == part)) ++ [(lead, part, steps)] }
  (u.grantWindow lead t true false).reply lead (Config.freeNat (u.core.free + 1) 5) .done

/-- Where the build has passed the place of the steps of leads, and no seal has closed the sheaf, it plans again (R270). -/
def State.replanned (s : State) : State :=
  match s.tick.made with
  | some (b, i, r) => if s.tick.sealed then s else ({ s with core := s.core.unbuilt i r } : State).passes b i r
  | none => s

theorem exec_memberStepList {p lead part k : Nat} {steps : List MemberStep} {s : State} (hopen : s.portOpen p = true)
    (hslot : s.core.memberSlot lead part = some k) :
    exec (.memberStepList p lead part steps) s = .next (s.placed lead part k steps).replanned := by
  simp only [exec, execMemberStepList, hopen, hslot]
  rfl

theorem State.replanned_of_settled {s : State} (h : s.tick.made = none ∨ s.tick.sealed = true) : s.replanned = s := by
  unfold State.replanned
  split
  · next hmade => rw [if_pos (h.resolve_left (by simp [hmade]))]
  · rfl

theorem State.replanned_link : s.replanned.link = s.link := by
  unfold State.replanned
  split
  · split
    · rfl
    · exact State.passes_link ..
  · rfl

theorem State.replanned_sameStates : s.core.SameStates s.replanned.core := by
  unfold State.replanned
  split
  · split
    · exact .refl _
    · refine .trans ?_ (State.passes_sameStates ..)
      exact .of_parts rfl
  · exact .refl _

/-- A placing leaves the tick as it was. -/
theorem State.placed_settled {s : State} {lead part k : Nat} {steps : List MemberStep}
    (h : s.tick.made = none ∨ s.tick.sealed = true) :
    (s.placed lead part k steps).tick.made = none ∨ (s.placed lead part k steps).tick.sealed = true := h

theorem State.placed_parts (lead part k : Nat) (steps : List MemberStep) :
    (s.placed lead part k steps).core.parts = s.core.parts := rfl

theorem State.placed_link (lead part k : Nat) (steps : List MemberStep) :
    (lead, part, steps) ∈ (s.placed lead part k steps).link.steps ∧
      ∃ id, (s.placed lead part k steps).link.replies = s.link.replies ++ [(id, .done)] := by
  refine ⟨?_, _, State.reply_replies ..⟩
  unfold State.placed
  simp [State.grantWindow, State.updLink]

end

end Sys2Proof.Machine

open Sys2Proof Sys2Proof.Machine

/-- Settles O53: a reply to a step or its absence, a member's grants, an unanswered creation, and a member's step list, one lemma
each. -/
theorem repliesAndGrants : Obligations.RepliesAndGrants := by
  unfold Obligations.RepliesAndGrants
  refine ⟨fun id k x s hlive hfind hwhat =>
      ⟨exec_mgmtReply_other nofun hlive hfind hwhat, fun r hr hpost => ⟨?_, fun _ hlate => ?_⟩⟩,
    fun p g s hopen => ⟨fun u hu => ?_, fun hnone => ?_⟩, fun k m ms c s hcreating => ?_,
    fun p lead part k steps s hopen hslot => ?_⟩
  · exact ⟨_, exec_mgmtReply_roleChanged hlive hfind hwhat, State.failSent_dropSent hr hpost rfl⟩
  · exact ⟨_, exec_replyTimeout_run hlive hlate hwhat, State.failSent_dropSent hr hpost rfl⟩
  · have hlink : u.link = s.link := by rw [State.takeGrant_eq hu]
    exact ⟨_, exec_grantRequest_fits hopen hu, rfl, by rw [State.reply_replies, State.grantWindow_replies, hlink]⟩
  · exact ⟨_, exec_grantRequest_short hopen hnone, rfl, State.reply_windows .., State.reply_replies ..⟩
  · obtain ⟨n, l, hexec⟩ := exec_grantTimeout_creating s hcreating
    obtain ⟨hself, hother⟩ := Core.memberRefused_creating (now := s.tick.count) (m := m) hcreating
    exact ⟨_, hexec, hself, hother, rfl, rfl⟩
  · obtain ⟨hsteps, hreplies⟩ := s.placed_link lead part k steps
    have hparts := s.placed_parts lead part k steps
    have hstate := (Core.SameStates.of_parts hparts).trans (State.replanned_sameStates _)
    refine ⟨_, exec_memberStepList hopen hslot, ?_⟩
    rw [State.replanned_link]
    exact ⟨hsteps, fun h => by rw [State.replanned_of_settled (State.placed_settled h), hparts], hstate.state, hreplies⟩

end

section
/-! SUPPORT. Stream commands: clips that end under a command of their stream, a context that drains or opens again, and a STREAM_FEED
that waits in its context (R296 to R302, R311, R312, R341). -/

namespace Sys2Proof.Machine

/-! ### Clips that end with their stream -/

/-- From `c` to `k` the stream contexts and the bindings are the same, and so are the streams with a decode step that runs. -/
structure Core.SameStreams (c k : Core) : Prop where
  ctxs : k.ctxs = c.ctxs
  bindings : k.bindings = c.bindings
  decActive : ∀ j, k.decActive j = c.decActive j

theorem Core.ctx_of_ctxs {c k : Core} (h : k.ctxs = c.ctxs) (j : Nat) : k.ctx j = c.ctx j := by
  simp only [Core.ctx, h]

namespace Core.SameStreams

variable {c k l : Core}

theorem trans (h : c.SameStreams k) (h' : k.SameStreams l) : c.SameStreams l :=
  ⟨h'.ctxs.trans h.ctxs, h'.bindings.trans h.bindings, fun j => (h'.decActive j).trans (h.decActive j)⟩

theorem of_eq (hx : k.ctxs = c.ctxs) (hb : k.bindings = c.bindings) (hr : k.runs = c.runs) : c.SameStreams k :=
  ⟨hx, hb, fun j => by simp only [Core.decActive, hr]⟩

theorem refl (c : Core) : c.SameStreams c := of_eq rfl rfl rfl

/-- Whichever way a choice goes. -/
theorem ite {p : Prop} [Decidable p] (hk : c.SameStreams k) (hl : c.SameStreams l) : c.SameStreams (if p then k else l) := by
  split
  · exact hk
  · exact hl

end Core.SameStreams

section
variable (c : Core) (now reason : Nat)

/-- A clip that ends writes its end bytes and its record, and leaves the streams (R341, R342). -/
theorem Core.endClip_sameStreams (x : Clip) : c.SameStreams (c.endClip now reason x) := by
  have hclips : c.SameStreams { c.draw.2 with clips := c.draw.2.clips.filter (·.binding != x.binding) } := .of_eq rfl rfl rfl
  unfold Core.endClip
  simp only
  refine .ite ?_ (.trans ?_ (.of_eq (Core.putRec_ctxs ..) (Core.putRec_bindings ..) (Core.putRec_runs ..)))
  all_goals
    refine .ite hclips ?_
    split
    · exact hclips.trans (.of_eq (Core.freezeQ_ctxs ..) (Core.freezeQ_bindings ..) (Core.freezeQ_runs ..))
    · exact hclips.trans (.of_eq (Core.post_ctxs ..) (Core.post_bindings ..) (Core.post_runs ..))

/-- Runs of a clip decode nothing, and neither does what is left of one that is over. -/
theorem Core.dropClipRuns_sameStreams (binding : Nat) : c.SameStreams (c.dropClipRuns binding) := by
  refine ⟨rfl, rfl, fun j => ?_⟩
  simp only [Core.decActive, Core.dropClipRuns, List.any_filterMap]
  congr 1
  funext r
  cases hr : r.post with
  | clip b p =>
    by_cases hb : b = binding
    · by_cases ha : r.active = [] <;> simp [hb, Run.over, ha]
    · simp [hr, hb]
  | _ => simp [hr]

theorem Core.finishClip_sameStreams (x : Clip) : c.SameStreams (c.finishClip now reason x) := by
  unfold Core.finishClip
  split
  · exact .of_eq rfl rfl rfl
  · exact (c.dropClipRuns_sameStreams x.binding).trans (Core.endClip_sameStreams ..)

theorem Core.finishClips_sameStreams (p : Clip → Bool) : c.SameStreams (c.finishClips now reason p) :=
  List.foldlRecOn (motive := c.SameStreams) _ _ (.refl c) fun k hk x _ => hk.trans (k.finishClip_sameStreams now reason x)

end

/-! ### Contexts that drain or open again -/

@[simp] theorem Core.ctx_updCtx_self (c : Core) (k : Nat) (f : Ctx → Ctx) : (c.updCtx k f).ctx k = f (c.ctx k) := by
  rw [Core.ctx_updCtx, if_pos rfl]

section
variable (c : Core) (now k : Nat)

theorem Core.failFeed_bindings : (c.failFeed now k).bindings = c.bindings := by
  unfold Core.failFeed
  simp only
  split
  · rfl
  · simp

/-- A feed that fails leaves its context, and every context is in the state that it was in (R301). -/
theorem Core.failFeed_state (j : Nat) : ((c.failFeed now k).ctx j).state = (c.ctx j).state := by
  unfold Core.failFeed
  simp only
  split
  · rfl
  · rw [Core.ctx_of_ctxs ((Core.complete_ctxs ..).trans (Core.updQ_ctxs ..)), Core.ctx_updCtx]
    split
    · next h => rw [h]
    · rfl

variable {c k} in
/-- From OPEN, RUNNING and STOPPED a context starts DRAINING, and its bindings end (R296, R312). -/
theorem Core.drainCtx_drains (h : ((c.ctx k).state == .opened || (c.ctx k).state == .running || (c.ctx k).state == .stopped) = true) :
    ((c.drainCtx now k).ctx k).state = .draining ∧ ∀ b ∈ (c.drainCtx now k).bindings, b.ctx = k → b.ending = true := by
  unfold Core.drainCtx
  simp only [if_pos h]
  refine ⟨?_, fun b hb hk => ?_⟩
  · rw [Core.failFeed_state, Core.ctx_of_ctxs (Core.finishClips_sameStreams ..).ctxs]
    simp only [Core.ctx, Core.updCtx, Tab.get_upd_self]
  · rw [Core.failFeed_bindings, (Core.finishClips_sameStreams ..).bindings] at hb
    obtain ⟨b', -, rfl⟩ := List.mem_map.1 hb
    by_cases hb' : b'.ctx = k
    · simp [hb']
    · simp [hb'] at hk

end

section
variable (x : Ctx)

/-- A discard leaves the context where it stands (R302, R311). -/
theorem Ctx.discard_synced (n : Nat) : (x.discard n).state = x.state ∧ (x.discard n).reason = x.reason ∧
    (x.discard n).synced = x.synced := by
  unfold Ctx.discard
  split <;> exact ⟨rfl, rfl, rfl⟩

/-- A scan discards data, and leaves the context where it stands. -/
theorem Ctx.scan_synced (bound : Bool) : (x.scan bound).state = x.state ∧ (x.scan bound).reason = x.reason ∧
    (x.scan bound).synced = x.synced := by
  unfold Ctx.scan
  split
  · exact ⟨rfl, rfl, rfl⟩
  · exact Ctx.discard_synced ..

end

/-- A context that opens again does so without a stop reason, and decodes from a random access point (R311). -/
theorem Core.reopen_opened (c : Core) (k : Nat) : ((c.reopen k).ctx k).state = .opened ∧ ((c.reopen k).ctx k).reason = 0 ∧
    ((c.reopen k).ctx k).synced = false := by
  simp only [Core.reopen, Core.prunePics, Core.ctx_updCtx_self]
  exact Ctx.scan_synced _ _

/-- One of the 8 decoders (R261). -/
theorem Core.homeDec_lt (c : Core) : c.homeDec < 8 := by
  unfold Core.homeDec
  simp only
  refine List.foldlRecOn (motive := (· < 8)) _ _ (by decide) fun b hb d hd => ?_
  split
  · exact List.mem_range.1 hd
  · exact hb

/-! ### Feeds that wait -/

/-- A feed is noted as the one that waits in a context, or none is: what the rows of STREAM_FEED do to a context that keeps
one waiting. -/
def Core.feedNoted (c : Core) (n : Nat) (w : Option (Cmd × AuInfo)) : Core := c.updCtx n fun x => { x with waitFeed := w }

section
variable (c : Core) (n : Nat) (w : Option (Cmd × AuInfo))

theorem Core.feedNoted_ctx (j : Nat) : (c.feedNoted n w).ctx j =
    { c.ctx j with waitFeed := if j = n then w else (c.ctx j).waitFeed } := by
  rw [Core.feedNoted, Core.ctx_updCtx]
  split
  · next h => rw [h]
  · rfl

theorem Core.feedNoted_feedFit (j len : Nat) : (c.feedNoted n w).feedFit j len = c.feedFit j len := by
  simp only [Core.feedFit, Core.feedNoted_ctx]
  rfl

theorem Core.feedNoted_feedChecks (e : Env) : feedChecks e (c.feedNoted n w) = feedChecks e c := by
  simp only [feedChecks, Env.owns, Core.feedNoted_ctx]
  rfl

theorem Core.feedNoted_picOpen : (c.feedNoted n w).picOpen = c.picOpen := by
  funext i
  simp only [Core.picOpen, Core.feedNoted_ctx]

theorem Core.feedNoted_instReady : (c.feedNoted n w).instReady = c.instReady := by
  funext i p op cmd t
  simp only [Core.instReady, Core.feedNoted_picOpen]
  rfl

/-- The order of stream commands asks a STREAM_FEED for feeds before it, whether they wait or not (R300, R301). -/
theorem Core.feedNoted_ringReady (q : Nat) {f : Fetched} (hf : f.op = 0x4002) (past : Bool) :
    (c.feedNoted n w).ringReady q f past = c.ringReady q f past := by
  simp only [Core.ringReady, hf, beq_self_eq_true, Bool.true_or, Bool.and_true]
  rfl

/-- A STREAM_FEED is at hand whichever feed waits. -/
theorem Core.feedNoted_atHand (now : Nat) (cmd : Cmd) :
    (c.feedNoted n w).atHand now 0x4002 cmd = c.atHand now 0x4002 cmd := by
  unfold Core.atHand
  refine if_congr Iff.rfl rfl ?_
  cases cmd.src with
  | ring q =>
    have hq : (c.feedNoted n w).q = c.q := rfl
    simp only [hq]
    split
    · rfl
    · next f hfind =>
      have hop : f.op = 0x4002 := by
        have hfound := List.find?_some hfind
        simp only [Bool.and_eq_true, beq_iff_eq] at hfound
        exact hfound.1
      rw [Core.feedNoted_ringReady c n w q hop]
      rfl
  | inst id idx =>
    rw [Core.feedNoted_instReady]
    rfl

end

section
variable {c k : Core} {e : Env} {au : AuInfo} {r : Option Run}

/-- A feed that is answered does not wait, and its answer is a run (R300 to R302). -/
theorem feedBody_eq_ok (h : feedBody au e c = .ok (k, r)) :
    c.feedFit (e.word 0) (e.word 3) ≠ .waits ∧ r ≠ none := by
  obtain ⟨-, -, h⟩ := bind_eq_ok.1 h
  simp only at h
  split at h
  case h_4 => cases h
  all_goals
    next hfit =>
      cases h
      exact ⟨by rw [hfit]; decide, nofun⟩

theorem feedBody_waits (hchecks : feedChecks e c = .ok ()) (hfit : c.feedFit (e.word 0) (e.word 3) = .waits) :
    feedBody au e c = .error .wait := by
  simp only [feedBody, hchecks, hfit]
  rfl

variable {a : Amb} {cmd : Cmd} (hhand : c.atHand a.tick 0x4002 cmd = some e)
include hhand

theorem Core.noteFeed_of_not_waits (hfit : c.feedFit (e.word 0) (e.word 3) ≠ .waits) : c.noteFeed cmd au a = c := by
  simp only [Core.noteFeed, hhand, beq_eq_false_iff_ne.2 hfit]
  split <;> rfl

theorem Core.noteFeed_of_waits (hgate : c.gate e = .ok ()) (hchecks : feedChecks e c = .ok ())
    (hfit : c.feedFit (e.word 0) (e.word 3) = .waits) : c.noteFeed cmd au a = c.feedNoted (e.word 0) (some (cmd, au)) := by
  have hboth : (do c.gate e; feedChecks e c) = .ok () := by rw [hgate]; exact hchecks
  simp only [Core.noteFeed, hhand, hboth, hfit]
  rfl

end

section
variable {s : State} {c : Cmd} {au : AuInfo} {e : Env} {k : Core} {r : Option Run}

/-- A STREAM_FEED that need not wait starts (R300 to R302). -/
theorem exec_streamFeed_starts (h : Ready s 0x4002 c e) (hbody : feedBody au e s.core = .ok (k, r)) :
    exec (.streamFeed c au) s = .next (s.finished k e r) := by
  obtain ⟨hfit, hrun⟩ := feedBody_eq_ok hbody
  have hsame : s.core.noteFeed c au s.amb = s.core := Core.noteFeed_of_not_waits h.1 hfit
  calc exec (.streamFeed c au) s
      = .next { s with core := Core.command 0x4002 c (feedBody au) s.amb (s.core.noteFeed c au s.amb) } := rfl
    _ = onCoreA (Core.command 0x4002 c (feedBody au)) s := by rw [hsame]; rfl
    _ = _ := onCoreA_finished h hbody fun hnone => absurd hnone hrun

/-- One that does not fit is noted in its context, and stays where it is (R301). -/
theorem exec_streamFeed_waits (h : Ready s 0x4002 c e) (hchecks : feedChecks e s.core = .ok ())
    (hfit : s.core.feedFit (e.word 0) (e.word 3) = .waits) :
    exec (.streamFeed c au) s = .next { s with core := s.core.feedNoted (e.word 0) (some (c, au)) } := by
  obtain ⟨hhand, hgate⟩ := h
  have hnoted : s.core.noteFeed c au s.amb = s.core.feedNoted (e.word 0) (some (c, au)) :=
    Core.noteFeed_of_waits hhand hgate hchecks hfit
  have hstays : feedBody au e (s.core.feedNoted (e.word 0) (some (c, au))) = .error .wait :=
    feedBody_waits (by rw [Core.feedNoted_feedChecks, hchecks]) (by rw [Core.feedNoted_feedFit, hfit])
  calc exec (.streamFeed c au) s
      = .next { s with core := Core.command 0x4002 c (feedBody au) s.amb (s.core.noteFeed c au s.amb) } := rfl
    _ = _ := by rw [hnoted, Core.command_wait ((Core.feedNoted_atHand ..).trans hhand) hgate hstays]

/-- A feed that waits, at hand and no longer kept by the buffer, starts once its context is rid of it (R301). -/
theorem exec_streamFeedResume_starts {n : Nat} (hwaits : (s.core.ctx n).waitFeed = some (c, au))
    (hfit : s.core.feedFit n c.w3.toNat ≠ .waits)
    (h : Ready { s with core := s.core.feedNoted n none } 0x4002 c e)
    (hbody : feedBody au e (s.core.feedNoted n none) = .ok (k, r)) :
    exec (.streamFeedResume n) s = .next (({ s with core := s.core.feedNoted n none } : State).finished k e r) := by
  have hhand : s.core.atHand s.tick.count 0x4002 c = some e := (Core.feedNoted_atHand ..).symm.trans h.1
  calc exec (.streamFeedResume n) s
      = onCoreA (Core.command 0x4002 c (feedBody au)) { s with core := s.core.feedNoted n none } := by
        simp only [exec, execStreamFeedResume, onCoreA_eq, hwaits, hhand, beq_eq_false_iff_ne.2 hfit]
        rfl
    _ = _ := onCoreA_finished h hbody fun hnone => absurd hnone (feedBody_eq_ok hbody).2

end

/-! ### What the commands answer -/

section
variable {e : Env} {c k : Core} {r : Option Run}

/-- STREAM_OPEN (R298, R299). -/
theorem streamOpen_eq_ok (h : streamOpen e c = .ok (k, r)) : (c.ctx (e.word 2)).state = .closed ∧
    r = some (quick (e.word 2 + 65536 * c.homeDec)) ∧
    ∃ x : Ctx, x.state = .opened ∧ x.part = e.part ∧ x.queue = e.q ∧ x.home = c.homeDec ∧
      k = c.updCtx (e.word 2) fun _ => x := by
  obtain ⟨l, -, h⟩ := bind_eq_ok.1 h
  simp only at h
  split at h
  · cases h
  · obtain ⟨_, hclosed, h⟩ := bind_eq_ok.1 h
    obtain ⟨-, -, h⟩ := bind_eq_ok.1 h
    cases h
    exact ⟨by simpa using need_eq_ok.1 hclosed, rfl, _, rfl, rfl, rfl, rfl, rfl⟩

/-- STREAM_CLOSE (R312). -/
theorem streamClose_eq_ok (h : streamClose e c = .ok (k, r)) :
    ((c.ctx (e.word 0)).state == .opened || (c.ctx (e.word 0)).state == .running || (c.ctx (e.word 0)).state == .stopped) = true ∧
      k = (c.drainCtx e.now (e.word 0)).updCtx (e.word 0) (fun y => { y with closing := some e.cmd }) ∧ r = none := by
  obtain ⟨-, -, h⟩ := bind_eq_ok.1 h
  obtain ⟨_, hstate, h⟩ := bind_eq_ok.1 h
  cases h
  exact ⟨need_eq_ok.1 hstate, rfl, rfl⟩

/-- STREAM_RESYNC of a stream that decodes nothing: its clips end first, and that makes nothing decode (R311). -/
theorem streamResync_eq_ok (h : streamResync e c = .ok (k, r)) (hidle : c.decActive (e.word 0) = false) :
    ∃ (d : Core) (n : Nat), k = d.reopen (e.word 0) ∧ r = some (quick n) := by
  obtain ⟨-, -, h⟩ := bind_eq_ok.1 h
  obtain ⟨-, -, h⟩ := bind_eq_ok.1 h
  obtain ⟨-, -, h⟩ := bind_eq_ok.1 h
  simp only [(c.finishClips_sameStreams ..).decActive, hidle] at h
  cases h
  exact ⟨_, _, rfl, rfl⟩

/-- CLIP_BEGIN (R334, R335). -/
theorem clipBegin_eq_ok (h : clipBegin e c = .ok (k, r)) :
    ∃ (i : Inst) (b : Nat) (p : Nat × Pic) (event : List Byte), (∀ y ∈ c.clips, y.binding ≠ b) ∧ c.clips.length < 64 ∧
      k = { c with clips := c.clips ++ [clipOf e i b p event] } ∧ r = some fixedOnly := by
  obtain ⟨-, -, h⟩ := bind_eq_ok.1 h
  obtain ⟨x, -, h⟩ := bind_eq_ok.1 h
  obtain ⟨a, -, h⟩ := bind_eq_ok.1 h
  obtain ⟨-, -, h⟩ := bind_eq_ok.1 h
  obtain ⟨-, -, h⟩ := bind_eq_ok.1 h
  obtain ⟨-, -, h⟩ := bind_eq_ok.1 h
  obtain ⟨-, -, h⟩ := bind_eq_ok.1 h
  obtain ⟨_, hnew, h⟩ := bind_eq_ok.1 h
  obtain ⟨_, hroom, h⟩ := bind_eq_ok.1 h
  cases h
  exact ⟨_, _, _, _, by simpa using need_eq_ok.1 hnew, by simpa using need_eq_ok.1 hroom, rfl, rfl⟩

end

end Sys2Proof.Machine

open Sys2Proof Sys2Proof.Machine

/-- Settles O46: what each command answers, and a feed that starts, waits or starts again, one lemma each. -/
theorem streamCommands : Obligations.StreamCommands := by
  unfold Obligations.StreamCommands
  refine ⟨fun e c k r h => ?_, fun e c k r h => ?_, fun e c k r h hidle => ?_,
    fun c au s e hready => ⟨fun k r => exec_streamFeed_starts hready, exec_streamFeed_waits hready⟩,
    fun n c au s e k r => exec_streamFeedResume_starts, fun e c k r h => ?_⟩
  · obtain ⟨hclosed, rfl, x, hopened, hpart, hqueue, hhome, rfl⟩ := streamOpen_eq_ok h
    simp only [Core.ctx_updCtx, if_true]
    exact ⟨hclosed, hopened, hpart, hqueue, hhome ▸ c.homeDec_lt, by rw [hhome], fun j hj => if_neg hj⟩
  · obtain ⟨hstate, rfl, rfl⟩ := streamClose_eq_ok h
    obtain ⟨hdraining, hending⟩ := Core.drainCtx_drains e.now hstate
    refine ⟨rfl, ?_, ?_, hending⟩
    all_goals rw [Core.ctx_updCtx_self]
    exact hdraining
  · obtain ⟨d, n, rfl, rfl⟩ := streamResync_eq_ok h hidle
    obtain ⟨hopened, hreason, hsynced⟩ := d.reopen_opened (e.word 0)
    exact ⟨hopened, hreason, hsynced, n, rfl⟩
  · obtain ⟨i, b, p, event, hnew, hroom, rfl, rfl⟩ := clipBegin_eq_ok h
    refine ⟨clipOf e i b p event, rfl, ?_, hnew, rfl, rfl, rfl, rfl⟩
    simp only [List.length_append, List.length_singleton]
    omega

end

section
/-! SUPPORT. The order of an epoch (R349): the network permutes the numbers below 4 ^ w, a walk from a position ends at the first
value that is a position, and so it permutes the positions. -/

namespace Sys2Proof.Machine

/-! ### The Feistel network permutes the numbers below 4 ^ w -/

section
variable {w : Nat}

/-- The high half of the result is the quotient by 2 ^ w and the low half the remainder. -/
theorem halves_inj {l r l' r' : Nat} (hr : r < 2 ^ w) (hr' : r' < 2 ^ w) (h : l * 2 ^ w + r = l' * 2 ^ w + r') :
    l = l' ∧ r = r' := by
  have hdiv {a b : Nat} (hb : b < 2 ^ w) : (a * 2 ^ w + b) / 2 ^ w = a := by
    rw [Nat.mul_comm, Nat.mul_add_div (Nat.two_pow_pos w), Nat.div_eq_of_lt hb, Nat.add_zero]
  obtain rfl : l = l' := by rw [← hdiv (a := l) hr, h, hdiv hr']
  exact ⟨rfl, Nat.add_left_cancel h⟩

theorem div_two_pow_lt {x : Nat} (hx : x < 4 ^ w) : x / 2 ^ w < 2 ^ w :=
  Nat.div_lt_of_lt_mul (by rwa [← Nat.mul_pow])

/-- A round leaves two halves again. -/
theorem xor_mix64_lt {l : Nat} (hl : l < 2 ^ w) (z : Nat) : l ^^^ (mix64 z % 2 ^ w) < 2 ^ w :=
  Nat.xor_lt_two_pow hl (Nat.mod_lt _ (Nat.two_pow_pos w))

theorem feistel_lt (keys : List Nat) {l r : Nat} (hl : l < 2 ^ w) (hr : r < 2 ^ w) : feistel w keys l r < 4 ^ w := by
  induction keys generalizing l r with
  | nil =>
    calc l * 2 ^ w + r < (l + 1) * 2 ^ w := by rw [Nat.succ_mul]; exact Nat.add_lt_add_left hr _
      _ ≤ 2 ^ w * 2 ^ w := Nat.mul_le_mul_right _ hl
      _ = 4 ^ w := (Nat.mul_pow 2 2 w).symm
  | cons k ks ih => exact ih hr (xor_mix64_lt hl _)

/-- A round keeps one half as it is and adds a function of it to the other, which can be undone. -/
theorem feistel_inj (keys : List Nat) {l r l' r' : Nat} (hl : l < 2 ^ w) (hr : r < 2 ^ w) (hl' : l' < 2 ^ w)
    (hr' : r' < 2 ^ w) (h : feistel w keys l r = feistel w keys l' r') : l = l' ∧ r = r' := by
  induction keys generalizing l r l' r' with
  | nil => exact halves_inj hr hr' h
  | cons k ks ih =>
    obtain ⟨rfl, hxor⟩ := ih hr (xor_mix64_lt hl _) hr' (xor_mix64_lt hl' _) h
    exact ⟨Nat.xor_left_inj.1 hxor, rfl⟩

theorem round4_mapsTo (keys : List Nat) (w : Nat) : Set.MapsTo (round4 keys w) (Set.Iio (4 ^ w)) (Set.Iio (4 ^ w)) :=
  fun _ hx => feistel_lt keys (div_two_pow_lt hx) (Nat.mod_lt _ (Nat.two_pow_pos w))

theorem round4_injOn (keys : List Nat) (w : Nat) : Set.InjOn (round4 keys w) (Set.Iio (4 ^ w)) := by
  intro x hx y hy h
  have hlow (z : Nat) : z % 2 ^ w < 2 ^ w := Nat.mod_lt _ (Nat.two_pow_pos w)
  obtain ⟨hdiv, hmod⟩ := feistel_inj keys (div_two_pow_lt hx) (hlow x) (div_two_pow_lt hy) (hlow y) h
  rw [← Nat.div_add_mod x (2 ^ w), hdiv, hmod, Nat.div_add_mod]

end

/-! ### The network is wide enough for every position -/

theorem le_two_pow_clog2 (n : Nat) : n ≤ 2 ^ clog2 n := by
  unfold clog2
  split
  · assumption
  · have := Nat.lt_log2_self (n := n - 1)
    omega

theorem le_four_pow_epochWidth (n : Nat) : n ≤ 4 ^ epochWidth n := by
  have hwidth : clog2 n ≤ 2 * epochWidth n := by
    simp only [epochWidth]
    omega
  calc n ≤ 2 ^ clog2 n := le_two_pow_clog2 n
    _ ≤ 2 ^ (2 * epochWidth n) := Nat.pow_le_pow_right Nat.two_pos hwidth
    _ = 4 ^ epochWidth n := Nat.pow_mul 2 2 _

/-! ### First returns -/

/-- From `p`, `y` is the first value below `n` that `f` comes to after one step or more. -/
def FirstReturn (f : Nat → Nat) (n p y : Nat) : Prop :=
  ∃ i, f^[i + 1] p = y ∧ y < n ∧ ∀ j < i, n ≤ f^[j + 1] p

section
variable {f : Nat → Nat} {m n : Nat}

/-- A number comes back to itself in at most as many steps as there are numbers, by the pigeonhole principle. -/
theorem exists_iterate_eq_self (hmaps : Set.MapsTo f (Set.Iio m) (Set.Iio m)) (hinj : Set.InjOn f (Set.Iio m)) {p : Nat}
    (hp : p < m) : ∃ i < m, f^[i + 1] p = p := by
  have hmap (i : Nat) : f^[i] p < m := hmaps.iterate i hp
  obtain ⟨i, j, hij, hj, h⟩ : ∃ i j, i < j ∧ j ≤ m ∧ f^[i] p = f^[j] p := by
    obtain ⟨a, ha, b, hb, hab, h⟩ := Finset.exists_ne_map_eq_of_card_lt_of_maps_to (s := Finset.range (m + 1))
      (t := Finset.range m) (by simp) (f := fun i => f^[i] p) fun i _ => Finset.mem_coe.2 (Finset.mem_range.2 (hmap i))
    simp only [Finset.mem_range] at ha hb
    obtain hlt | hlt := Nat.lt_or_gt_of_ne hab
    · exact ⟨a, b, hlt, by omega, h⟩
    · exact ⟨b, a, hlt, by omega, h.symm⟩
  obtain ⟨d, rfl⟩ := Nat.exists_eq_add_of_lt hij
  refine ⟨d, by omega, (hinj.iterate hmaps i hp (hmap _) ?_).symm⟩
  rw [← Function.iterate_add_apply]
  exact h

/-- Positions with the same first return are the same: of two walks to it the longer one would pass the other's position. -/
theorem FirstReturn.inj (hmaps : Set.MapsTo f (Set.Iio m) (Set.Iio m)) (hinj : Set.InjOn f (Set.Iio m)) (hn : n ≤ m)
    {p q y : Nat} (hp : p < n) (hq : q < n) (h : FirstReturn f n p y) (h' : FirstReturn f n q y) : p = q := by
  obtain ⟨i, hi, -, hbefore⟩ := h
  obtain ⟨j, hj, -, hbefore'⟩ := h'
  wlog hij : i ≤ j generalizing p q i j
  · exact (this hq hp j hj hbefore' i hi hbefore (by omega)).symm
  obtain ⟨d, rfl⟩ := Nat.exists_eq_add_of_le hij
  have hpq : p = f^[d] q := by
    refine hinj.iterate hmaps (i + 1) (hp.trans_le hn) (hmaps.iterate d (hq.trans_le hn)) ?_
    rw [← Function.iterate_add_apply, hi, ← hj, Nat.add_right_comm]
  cases d with
  | zero => exact hpq
  | succ d =>
    have := hbefore' d (by omega)
    omega

end

/-! ### Cycle-walking takes every position to its first return -/

/-- A walk with fuel enough to reach a number below `n` ends at the first one. -/
theorem walk_eq_iterate {keys : List Nat} {w n fuel x i : Nat} (hi : i < fuel) (hlt : (round4 keys w)^[i] x < n) :
    ∃ k, (round4 keys w)^[k] x = walk keys w n fuel x ∧ walk keys w n fuel x < n ∧ ∀ j < k, n ≤ (round4 keys w)^[j] x := by
  induction fuel generalizing x i with
  | zero => omega
  | succ fuel ih =>
    rw [walk]
    split
    next hx => exact ⟨0, rfl, hx, nofun⟩
    next hx =>
      cases i with
      | zero => exact absurd hlt hx
      | succ i =>
        obtain ⟨k, hk, hend, hbefore⟩ := ih (Nat.lt_of_succ_lt_succ hi) hlt
        refine ⟨k + 1, hk, hend, fun j hj => ?_⟩
        cases j with
        | zero => exact Nat.le_of_not_lt hx
        | succ j => exact hbefore j (Nat.lt_of_succ_lt_succ hj)

theorem perm_firstReturn (keys : List Nat) {n p : Nat} (hp : p < n) :
    FirstReturn (round4 keys (epochWidth n)) n p (perm keys n p) := by
  obtain ⟨i, hi, hback⟩ := exists_iterate_eq_self (round4_mapsTo keys _) (round4_injOn keys _)
    (hp.trans_le (le_four_pow_epochWidth n))
  exact walk_eq_iterate hi (hback.trans_lt hp)

theorem perm_lt (keys : List Nat) {n p : Nat} (hp : p < n) : perm keys n p < n := by
  obtain ⟨-, -, hlt, -⟩ := perm_firstReturn keys hp
  exact hlt

theorem perm_inj (keys : List Nat) {n p q : Nat} (hp : p < n) (hq : q < n) (h : perm keys n p = perm keys n q) : p = q :=
  (perm_firstReturn keys hp).inj (round4_mapsTo keys _) (round4_injOn keys _) (le_four_pow_epochWidth n) hp hq
    (h ▸ perm_firstReturn keys hq)

/-! ### BEGIN opens an epoch over the samples held -/

@[simp] theorem Core.cache_updCache_self (c : Core) (part k : Nat) (f : Cache → Cache) :
    (c.updCache part k f).cache part k = f (c.cache part k) := by
  simp [Core.cache, Core.updCache, Core.part_updPart]

theorem Core.cache_of_parts {c k : Core} (h : k.parts = c.parts) (part ix : Nat) : k.cache part ix = c.cache part ix := by
  simp only [Core.cache, Core.part_of_parts h]

@[simp] theorem Core.statsRec_parts (c : Core) (now q part : Nat) (payload : List Byte) :
    (c.statsRec now q part payload).parts = c.parts := by
  unfold Core.statsRec
  split
  · rfl
  · exact Core.putRec_parts ..

/-- An epoch that closes keeps its number of samples (R348). -/
theorem Core.closeEpoch_cache_n (c : Core) (now part ix : Nat) :
    ((c.closeEpoch now part ix).cache part ix).n = (c.cache part ix).n := by
  unfold Core.closeEpoch
  simp only
  split
  · rw [Core.cache_of_parts (Core.statsRec_parts ..), Core.cache_updCache_self]
    rfl
  · rfl

/-- The cache at the first position of an epoch over the samples that it holds. -/
def Cache.opened (k : Cache) (number : Nat) : Cache :=
  { k with isOpen := true, epoch := number, nextEpoch := (number + 1) % 2 ^ 31, n := k.slots.length, cursor := 0 }

/-- An epoch of no samples closes at once, so one with samples stays open (R348, R349). -/
theorem Core.cache_openEpoch {c : Core} {now part ix number : Nat} (h : ((c.openEpoch now part ix number).cache part ix).n ≠ 0) :
    (c.openEpoch now part ix number).cache part ix = (c.cache part ix).opened number := by
  unfold Core.openEpoch at h ⊢
  simp only at h ⊢
  split at h
  next hzero => exact absurd (by rw [Core.closeEpoch_cache_n]; exact beq_iff_eq.1 hzero) h
  next hzero =>
    rw [if_neg hzero]
    exact Core.cache_updCache_self ..

/-- BEGIN closes what is open and opens the epoch with the number named, or with the next one where none is (R348). -/
theorem epochBegin_eq_ok {e : Env} {c k : Core} {r : Option Run} (h : epochBegin e c = .ok (k, r)) :
    k = (c.closeEpoch e.now e.part (e.word 0)).openEpoch e.now e.part (e.word 0)
      (if e.int 1 < 0 then (c.cache e.part (e.word 0)).nextEpoch else (e.int 1).toNat) := by
  iterate 3 obtain ⟨_, -, h⟩ := bind_eq_ok.1 h
  cases h
  rfl

end Sys2Proof.Machine

open Sys2Proof Sys2Proof.Machine

/-- Settles O47: the draw of a position is its first return under a permutation of the numbers below 4 ^ w, and a BEGIN with samples
leaves the epoch open. -/
theorem epochVisitsEverySampleOnce : Obligations.EpochVisitsEverySampleOnce := by
  unfold Obligations.EpochVisitsEverySampleOnce
  refine ⟨fun keys n _ => ⟨fun p hp => perm_lt keys hp, fun p q hp hq => perm_inj keys hp hq⟩, fun e c k r h hn => ?_⟩
  obtain rfl := epochBegin_eq_ok h
  rw [Core.cache_openEpoch hn]
  exact ⟨rfl, rfl, rfl, fun hv => if_neg (Int.not_lt.2 hv)⟩

end

section
/-! SUPPORT. What the end of work leaves of the host interface, of the owners of queues and of the runs that are over: commands,
instances, clips, streams and partitions end by completions, records, messages and freezes alone (R92, R113, R121, R296, R341). -/

namespace Sys2Proof.Machine

/-! ### Error bits -/

/-- A bit that is 0 is set by adding its weight. -/
theorem testBit_add_two_pow {n b : Nat} (h : n.testBit b = false) (j : Nat) :
    (n + 2 ^ b).testBit j = (n.testBit j || j == b) := by
  induction b generalizing n j with
  | zero =>
    have heven : n % 2 = 0 := by simpa [Nat.testBit_zero] using h
    cases j with
    | zero => simp [Nat.testBit_zero]; omega
    | succ j => simp [Nat.testBit_add_one, show (n + 1) / 2 = n / 2 by omega]
  | succ b ih =>
    have hhalf : (n + 2 ^ (b + 1)) / 2 = n / 2 + 2 ^ b := by omega
    cases j with
    | zero =>
      have hmod : (n + 2 ^ (b + 1)) % 2 = n % 2 := by omega
      simp [Nat.testBit_zero, hmod]
    | succ j =>
      rw [Nat.testBit_add_one, hhalf, ih (by rwa [Nat.testBit_add_one] at h), Nat.testBit_add_one]
      simp

/-! ### What the host interface keeps -/

/-- The host interface but for what messages, posted writes and freezes change. -/
def HostIf.settings (h : HostIf) : HostIf :=
  { h with mem := [], vecs := [], held := [], errCause := 0, frzCount := 0, frzLost := 0, frzLog := [], chaff := 0 }

/-- Nothing else has changed, no error bit is cleared (R379), and over a link that is down nothing is written (R395). -/
structure HostIf.Kept (h h' : HostIf) : Prop where
  settings : h'.settings = h.settings
  errs : ∀ b, bitAt b h.errCause = true → bitAt b h'.errCause = true
  mem : h.linkUp = false → h'.mem = h.mem

namespace HostIf.Kept

variable {h h' h'' : HostIf}

theorem of_settings {α : Type} (k : h.Kept h') (f : HostIf → α) (hf : ∀ x : HostIf, f x.settings = f x) : f h' = f h := by
  rw [← hf h', k.settings, hf]

theorem linkUp (k : h.Kept h') : h'.linkUp = h.linkUp := k.of_settings HostIf.linkUp fun _ => rfl
theorem perst (k : h.Kept h') : h'.perst = h.perst := k.of_settings HostIf.perst fun _ => rfl
theorem reads (k : h.Kept h') : h'.reads = h.reads := k.of_settings HostIf.reads fun _ => rfl
theorem fns (k : h.Kept h') : h'.fns = h.fns := k.of_settings HostIf.fns fun _ => rfl
theorem timeouts (k : h.Kept h') : h'.timeouts = h.timeouts := k.of_settings HostIf.timeouts fun _ => rfl
theorem ur (k : h.Kept h') : h'.ur = h.ur := k.of_settings HostIf.ur fun _ => rfl
theorem ca (k : h.Kept h') : h'.ca = h.ca := k.of_settings HostIf.ca fun _ => rfl
theorem poisoned (k : h.Kept h') : h'.poisoned = h.poisoned := k.of_settings HostIf.poisoned fun _ => rfl
theorem late (k : h.Kept h') : h'.late = h.late := k.of_settings HostIf.late fun _ => rfl

theorem refl (h : HostIf) : h.Kept h := ⟨rfl, fun _ hb => hb, fun _ => rfl⟩

theorem trans (k : h.Kept h') (k' : h'.Kept h'') : h.Kept h'' :=
  ⟨k'.settings.trans k.settings, fun b hb => k'.errs b (k.errs b hb),
    fun hup => (k'.mem (k.linkUp.trans hup)).trans (k.mem hup)⟩

end HostIf.Kept

section
variable (c : Core)

theorem Core.mastering_of_linkDown (h : c.host.linkUp = false) (f : Nat) : c.mastering f = false := by
  simp [Core.mastering, h]

/-- A message changes vectors (R383, R389). -/
theorem Core.msg_host (f v : Nat) : ∃ x, (c.msg f v).host = { c.host with vecs := x } := by
  rcases c.msg_cases f v with h | ⟨g, h⟩
  · exact ⟨_, by rw [h]⟩
  · exact ⟨_, by rw [h]; rfl⟩

theorem Core.msg_kept (f v : Nat) : c.host.Kept (c.msg f v).host := by
  obtain ⟨x, h⟩ := c.msg_host f v
  rw [h]
  exact ⟨rfl, fun _ hb => hb, fun _ => rfl⟩

/-- An error bit that is found set, or is set with its message (R379). -/
theorem Core.errBit_host (b : Nat) : ∃ x e, (c.errBit b).host = { c.host with vecs := x, errCause := e } ∧
    ∀ j, bitAt j e = (bitAt j c.host.errCause || j == b) := by
  unfold Core.errBit
  split
  next hset =>
    refine ⟨_, _, rfl, fun j => ?_⟩
    by_cases hj : j = b
    · subst hj
      simpa using hset
    · simp [hj]
  next hclear =>
    obtain ⟨x, h⟩ := (c.updHost fun h => { h with errCause := h.errCause + 2 ^ b }).msg_host 0 c.host.errVec
    refine ⟨x, c.host.errCause + 2 ^ b, h, fun j => ?_⟩
    rw [bitAt_eq_testBit] at hclear
    rw [bitAt_eq_testBit, bitAt_eq_testBit, testBit_add_two_pow (by simpa using hclear)]

theorem Core.errBit_kept (b : Nat) : c.host.Kept (c.errBit b).host := by
  obtain ⟨x, e, h, he⟩ := c.errBit_host b
  rw [h]
  exact ⟨rfl, fun j hj => by rw [he, hj]; rfl, fun _ => rfl⟩

@[simp] theorem Core.errBit_mem (b : Nat) : (c.errBit b).host.mem = c.host.mem := by
  obtain ⟨x, e, h, -⟩ := c.errBit_host b
  rw [h]
@[simp] theorem Core.errBit_held (b : Nat) : (c.errBit b).host.held = c.host.held := by
  obtain ⟨x, e, h, -⟩ := c.errBit_host b
  rw [h]

theorem Core.errBit_set (b : Nat) : bitAt b (c.errBit b).host.errCause = true := by
  obtain ⟨x, e, h, he⟩ := c.errBit_host b
  rw [h, he]
  simp

/-- A freeze record is logged, with its error bits (R379). -/
theorem Core.logFreeze_kept (r : List Byte) : c.host.Kept (c.logFreeze r).host := by
  unfold Core.logFreeze
  refine .trans ?_ (Core.errBit_kept _ 0)
  split
  · refine .trans ?_ (Core.errBit_kept _ 1)
    exact ⟨rfl, fun _ hb => hb, fun _ => rfl⟩
  · exact ⟨rfl, fun _ hb => hb, fun _ => rfl⟩

end

/-! ### What an end keeps -/

/-- From `c` to `k` work has ended: the host interface is kept, every queue has the owner and the count of commands that it had,
and no number finds a run that it did not find. -/
structure Core.Ends (c k : Core) : Prop where
  host : c.host.Kept k.host
  owner : ∀ q, (k.q q).func = (c.q q).func ∧ (k.q q).nextN = (c.q q).nextN
  gone : ∀ n, c.run? n = none → k.run? n = none

namespace Core.Ends

variable {c k l : Core}

theorem refl (c : Core) : c.Ends c := ⟨.refl _, fun _ => ⟨rfl, rfl⟩, fun _ h => h⟩

theorem trans (h : c.Ends k) (h' : k.Ends l) : c.Ends l :=
  ⟨h.host.trans h'.host, fun q => ⟨(h'.owner q).1.trans (h.owner q).1, (h'.owner q).2.trans (h.owner q).2⟩,
    fun n hn => h'.gone n (h.gone n hn)⟩

/-- What leaves queues, host interface and runs alone. -/
theorem of_eq (h : c.Ends k) (hq : l.qs = k.qs) (hh : l.host = k.host) (hr : l.runs = k.runs) :
    c.Ends l :=
  h.trans ⟨hh ▸ .refl _, fun q => by rw [Core.q_of_qs hq]; exact ⟨rfl, rfl⟩, fun n hn => (Core.run?_of_runs hr n).trans hn⟩

/-- What keeps the host interface, and leaves queues and runs alone. -/
theorem of_kept (h : c.Ends k) (hh : k.host.Kept l.host) (hq : l.qs = k.qs) (hr : l.runs = k.runs) :
    c.Ends l :=
  h.trans ⟨hh, fun q => by rw [Core.q_of_qs hq]; exact ⟨rfl, rfl⟩, fun n hn => (Core.run?_of_runs hr n).trans hn⟩

/-- What drops runs. -/
theorem of_staysOver (h : c.Ends k) (hs : k.StaysOver l) (hq : l.qs = k.qs) (hh : l.host = k.host) : c.Ends l :=
  h.trans ⟨hh ▸ .refl _, fun q => by rw [Core.q_of_qs hq]; exact ⟨rfl, rfl⟩, fun _ hn => hs.run?_eq_none hn⟩

theorem draw (h : c.Ends k) : c.Ends k.draw.2 := h.of_eq rfl rfl rfl
theorem updCtx (h : c.Ends k) (j : Nat) (f : Ctx → Ctx) : c.Ends (k.updCtx j f) := h.of_eq rfl rfl rfl
theorem health (h : c.Ends k) (p : Nat) (f : Health → Health) : c.Ends (k.health p f) := h.of_eq rfl rfl rfl
theorem updInst (h : c.Ends k) (j : Nat) (f : Inst → Inst) : c.Ends (k.updInst j f) := h.of_eq rfl rfl rfl
theorem updPart (h : c.Ends k) (j : Nat) (f : Part → Part) : c.Ends (k.updPart j f) := h.of_eq rfl rfl rfl
theorem bindings (h : c.Ends k) (x : List Binding) : c.Ends { k with bindings := x } := h.of_eq rfl rfl rfl
theorem ctxs (h : c.Ends k) (x : Tab Ctx) : c.Ends { k with ctxs := x } := h.of_eq rfl rfl rfl
theorem tell (h : c.Ends k) (g : Grants) : c.Ends (k.tell g) := h.of_eq rfl rfl rfl
theorem clips (h : c.Ends k) (x : List Clip) : c.Ends { k with clips := x } := h.of_eq rfl rfl rfl

/-- Whichever way a choice goes. -/
theorem ite {p : Prop} [Decidable p] (hk : c.Ends k) (hl : c.Ends l) : c.Ends (if p then k else l) := by
  split
  · exact hk
  · exact hl

/-- One end after another. -/
theorem foldl {α : Type} (h : c.Ends k) (xs : List α) {f : Core → α → Core}
    (hf : ∀ {d : Core}, c.Ends d → ∀ x, c.Ends (f d x)) : c.Ends (xs.foldl f k) :=
  List.foldlRecOn (motive := c.Ends) xs f h fun _ hd x _ => hf hd x

theorem updQ (h : c.Ends k) {q : Nat} {f : Queue → Queue} (hf : ∀ y, (f y).func = y.func ∧ (f y).nextN = y.nextN) :
    c.Ends (k.updQ q f) := by
  refine h.trans ⟨.refl _, fun j => ?_, fun _ hn => hn⟩
  rw [Core.q_updQ]
  split
  · next heq => subst heq; exact hf _
  · exact ⟨rfl, rfl⟩

/-! ### Queues, completions, records -/

theorem freezeQ (h : c.Ends k) (now q kind value opidx : Nat) : c.Ends (k.freezeQ now q kind value opidx) := by
  unfold Core.freezeQ
  refine .of_kept (.updQ h fun y => ?_) (Core.logFreeze_kept ..) (Core.logFreeze_qs ..) (Core.logFreeze_runs ..)
  split <;> exact ⟨rfl, rfl⟩

theorem msg (h : c.Ends k) (f v : Nat) : c.Ends (k.msg f v) :=
  h.of_kept (k.msg_kept f v) (Core.msg_qs ..) (Core.msg_runs ..)

theorem dropPost (h : c.Ends k) (q : Option Nat) : c.Ends (k.dropPost q) := by
  unfold Core.dropPost
  split
  · exact h.updQ fun _ => ⟨rfl, rfl⟩
  · exact h.of_kept ⟨rfl, fun _ hb => hb, fun _ => rfl⟩ rfl rfl

/-- A posted write reaches host memory, which takes a link that is up, or is held, or is dropped (R390). -/
theorem post (h : c.Ends k) (f mq addr : Nat) (data : List Byte) (q : Option Nat) : c.Ends (k.post f mq addr data q) := by
  unfold Core.post
  split
  next hm =>
    refine h.of_kept ⟨rfl, fun _ hb => hb, fun hup => ?_⟩ rfl rfl
    rw [k.mastering_of_linkDown hup] at hm
    cases hm
  next =>
    refine .ite (h.of_kept ⟨rfl, fun _ hb => hb, fun _ => rfl⟩ rfl rfl) (.dropPost ?_ q)
    exact h.of_kept (k.errBit_kept 4) (Core.errBit_qs ..) (Core.errBit_runs ..)

theorem putCpl (h : c.Ends k) (q : Nat) (x : Cpl) : c.Ends (k.putCpl q x) := by
  unfold Core.putCpl
  simp only
  split
  · refine .freezeQ ?_ ..
    exact h.updQ fun _ => ⟨rfl, rfl⟩
  · refine .ite (.msg (.post ?_ ..) ..) (.post ?_ ..)
    all_goals exact h.updQ fun _ => ⟨rfl, rfl⟩

theorem complete (h : c.Ends k) (q : Nat) (want : Bool) (x : Cpl) : c.Ends (k.complete q want x) := by
  have hslot : c.Ends (k.updQ q fun y => { y with reserved := y.reserved - 1 }) := h.updQ fun _ => ⟨rfl, rfl⟩
  unfold Core.complete
  simp only
  exact .ite h (.ite (hslot.putCpl q x) hslot)

theorem completeLate (h : c.Ends k) (q op : Nat) (want : Bool) (x : Cpl) : c.Ends (k.completeLate q op want x) := by
  unfold Core.completeLate
  refine .ite (.complete ?_ ..) h
  exact h.updQ fun _ => ⟨rfl, rfl⟩

theorem completeBound (h : c.Ends k) (q : Nat) (x : Cpl) : c.Ends (k.completeBound q x) := by
  unfold Core.completeBound
  simp only
  refine .ite h (.ite (h.putCpl q x) ?_)
  exact h.updQ fun _ => ⟨rfl, rfl⟩

theorem putRec (h : c.Ends k) (q : Nat) (note : Bool) (r : Rec) : c.Ends (k.putRec q note r) := by
  have hseq : c.Ends (k.updQ q fun y => { y with rseq := y.rseq + 1 }) := h.updQ fun _ => ⟨rfl, rfl⟩
  unfold Core.putRec
  simp only
  refine .ite h (.ite (hseq.of_eq rfl rfl rfl) ?_)
  split
  · exact hseq.freezeQ ..
  · refine .ite (.msg (.post (.ite (.post ?_ ..) ?_) ..) ..) (.post (.ite (.post ?_ ..) ?_) ..)
    all_goals exact h.updQ fun _ => ⟨rfl, rfl⟩

/-! ### Clips and instances -/

theorem endClip (h : c.Ends k) (now reason : Nat) (x : Clip) : c.Ends (k.endClip now reason x) := by
  have hclips : c.Ends { k.draw.2 with clips := k.draw.2.clips.filter (·.binding != x.binding) } := h.of_eq rfl rfl rfl
  unfold Core.endClip
  simp only
  refine .ite ?_ (.putRec ?_ ..)
  all_goals
    refine .ite hclips ?_
    split
    · exact hclips.freezeQ ..
    · exact hclips.post ..

theorem dropClipRuns (h : c.Ends k) (binding : Nat) : c.Ends (k.dropClipRuns binding) :=
  h.of_staysOver (.dropClipRuns (.refl k) binding) rfl rfl

theorem finishClip (h : c.Ends k) (now reason : Nat) (x : Clip) : c.Ends (k.finishClip now reason x) :=
  .ite (h.of_eq rfl rfl rfl) ((h.dropClipRuns x.binding).endClip ..)

theorem finishClips (h : c.Ends k) (now reason : Nat) (p : Clip → Bool) : c.Ends (k.finishClips now reason p) :=
  h.foldl _ fun hd x => hd.finishClip now reason x

theorem missClip (h : c.Ends k) (now binding pic : Nat) : c.Ends (k.missClip now binding pic) := by
  unfold Core.missClip
  simp only
  split
  · exact h
  refine .ite h (.ite (.endClip ?_ ..) ?_)
  all_goals exact .of_eq (.ite (h.dropClipRuns binding) h) rfl rfl rfl

theorem dropInst (h : c.Ends k) (i : Inst) : c.Ends (k.dropInst i) := h.of_staysOver (.dropInst (.refl k) i) rfl rfl

theorem endInst (h : c.Ends k) (now : Nat) (i : Inst) (st : Status) (detail : Nat) : c.Ends (k.endInst now i st detail) := by
  unfold Core.endInst
  extract_lets j put missed dropped counted x
  have hput : c.Ends put := .ite h (h.of_eq rfl rfl rfl)
  have hmissed : c.Ends missed := by
    unfold missed
    split
    · exact hput.missClip ..
    · exact hput
  have hdropped : c.Ends dropped := hmissed.dropInst j
  have hcounted : c.Ends counted := .ite (hdropped.health ..) hdropped
  split
  · exact hcounted.completeBound ..
  · exact hcounted.completeLate ..

theorem failInst (h : c.Ends k) (now : Nat) (i : Inst) (st : Status) : c.Ends (k.failInst now i st) := by
  unfold Core.failInst
  split
  · exact h.endInst ..
  · refine .endInst (h.of_eq ?_ ?_ ?_) .. <;> rfl

theorem settle (h : c.Ends k) (now id : Nat) : c.Ends (k.settle now id) := by
  unfold Core.settle
  split
  · exact h
  split
  · exact h
  split <;> exact h.endInst ..

theorem proceed (h : c.Ends k) (now id : Nat) : c.Ends (k.proceed now id) := by
  unfold Core.proceed
  split
  · exact h
  split
  · exact h.settle now id
  · refine .settle (h.of_eq ?_ ?_ ?_) now id <;> rfl

/-- A run that replaces those of its own number makes no other number find one. -/
theorem updRun_const (h : c.Ends k) {r : Run} (hr : c.run? r.id ≠ none) : c.Ends (k.updRun r.id fun _ => r) := by
  refine ⟨h.host, h.owner, fun n hn => ?_⟩
  have hk := Core.run?_eq_none.1 (h.gone n hn)
  refine Core.run?_eq_none.2 fun x hx hlive => ?_
  obtain ⟨y, hy, rfl⟩ := List.mem_map.1 hx
  split at hlive
  next hid =>
    rw [if_pos hid]
    rintro rfl
    exact hr hn
  next hid =>
    rw [if_neg hid]
    exact hk y hy hlive

theorem abandon (h : c.Ends k) (now cause : Nat) (i : Inst) : c.Ends (k.abandon now cause i) := by
  have hdrawn : k.Ends ((k.runs.filter fun r => r.ofInst i.id && !r.dead).foldl
      (fun c r => let d := c.drawn r; d.1.updRun r.id fun _ => d.2) k) := by
    refine List.foldlRecOn (motive := k.Ends) _ _ (.refl k) fun d hd r hr => ?_
    obtain ⟨n, m, hn⟩ := d.drawn_cases r
    simp only [hn]
    have hfree : k.Ends { d with free := n } := hd.of_eq rfl rfl rfl
    refine hfree.updRun_const (r := { r with measured := m }) fun hnone => ?_
    obtain ⟨hmem, hp⟩ := List.mem_filter.1 hr
    exact Core.run?_eq_none.1 hnone r hmem (by simpa using (Bool.and_eq_true_iff.1 hp).2) rfl
  exact .failInst (.putRec (h.trans hdrawn) ..) ..

/-! ### Commands -/

theorem failRing (h : c.Ends k) (now q : Nat) (bufs : List Nat) (l : List Fetched) : c.Ends (k.failRing now q bufs l) := by
  induction l generalizing k bufs with
  | nil => exact h
  | cons f l ih =>
    have hgone : c.Ends (k.updQ q fun y => { y with fetched := y.fetched.filter fun g => g.n != f.n }) :=
      h.updQ fun _ => ⟨rfl, rfl⟩
    unfold Core.failRing
    simp only
    exact .ite (ih h _) (.ite (ih (hgone.complete ..) _) (.ite (ih (hgone.complete ..) _) (ih h _)))

theorem endCmd (h : c.Ends k) (now : Nat) (r : Run) (st : Status) (detail : Nat) : c.Ends (k.endCmd now r st detail) := by
  unfold Core.endCmd
  simp only
  split
  · exact .ite h (.ite (h.complete ..) (.failRing (h.complete ..) ..))
  · split <;> (refine .proceed (h.of_eq ?_ ?_ ?_) .. <;> rfl)

theorem undo (h : c.Ends k) (r : Run) : c.Ends (k.undo r) := by
  unfold Core.undo
  split
  · exact h.of_eq rfl rfl rfl
  · exact h

theorem dropRun (h : c.Ends k) (n : Nat) : c.Ends (k.dropRun n) := h.of_staysOver (.dropRun (.refl k) n) rfl rfl

/-! ### Streams -/

theorem failFeed (h : c.Ends k) (now j : Nat) : c.Ends (k.failFeed now j) := by
  unfold Core.failFeed
  simp only
  split
  · exact h
  · refine .complete (.updQ ?_ fun _ => ?_) ..
    · exact h.of_eq rfl rfl rfl
    · exact ⟨rfl, rfl⟩

theorem dropDecodes (h : c.Ends k) (j : Nat) (p : Run → Bool) : c.Ends (k.dropDecodes j p) := by
  refine h.of_staysOver ((Core.StaysOver.refl k).filterMap (fun x y hxy => ?_) rfl rfl) rfl rfl
  split at hxy
  · split at hxy
    · exact .inr hxy
    · cases hxy; exact .inl rfl
  · cases hxy; exact .inl rfl

theorem stopStream (h : c.Ends k) (now j reason pic : Nat) (off : Option Nat) : c.Ends (k.stopStream now j reason pic off) := by
  unfold Core.stopStream
  simp only
  generalize hdrop : (Core.updCtx _ j _).dropDecodes j _ = d
  have hd : c.Ends d := hdrop ▸ (h.draw.updCtx j _).dropDecodes ..
  exact .failFeed (.finishClips (.clips (.foldl hd _ fun hd i => hd.endInst ..) _) ..) ..

theorem parsePics (h : c.Ends k) (now j : Nat) (l : List Pic) : c.Ends (k.parsePics now j l) := by
  induction l generalizing k with
  | nil => exact h
  | cons p l ih =>
    unfold Core.parsePics
    refine .ite (ih h) ?_
    split
    · exact .stopStream (h.updCtx ..) ..
    · exact ih (h.updCtx ..)

theorem parseCtx (h : c.Ends k) (now j : Nat) : c.Ends (k.parseCtx now j) := .ite (h.parsePics ..) h

theorem feedLand (h : c.Ends k) (now j len : Nat) (auEnd : Bool) (au : AuInfo) :
    c.Ends (k.feedLand now j len auEnd au).1 := by
  unfold Core.feedLand
  simp only [apply_ite Prod.fst]
  refine .ite h (.ite (h.updCtx ..) (.ite ?_ ?_))
  · exact .parseCtx (.ite ((h.updCtx ..).updCtx ..) (h.updCtx ..)) ..
  · exact .ite ((h.updCtx ..).updCtx ..) (.ite ((h.updCtx ..).stopStream ..) (h.updCtx ..))

theorem drainCtx (h : c.Ends k) (now j : Nat) : c.Ends (k.drainCtx now j) := by
  unfold Core.drainCtx
  refine .ite (.failFeed (.finishClips (h.of_eq ?_ ?_ ?_) ..) ..) h <;> rfl

/-! ### The end of a run -/

theorem commit (h : c.Ends k) (op : Nat) (frame maker : Option Nat) (o : Out) : c.Ends (k.commit op frame maker o) := by
  unfold Core.commit
  exact .ite (h.of_eq (Core.setCopy_qs ..) (Core.setCopy_host ..) (Core.setCopy_runs ..))
    (h.of_eq (Core.setCopy_qs ..) (Core.setCopy_host ..) (Core.setCopy_runs ..))

theorem postCommit (h : c.Ends k) (now : Nat) (r : Run) : c.Ends (k.postCommit now r).1 := by
  unfold Core.postCommit
  split
  case h_6 => exact h.feedLand ..
  case h_7 =>
    split
    · exact h
    · split
      · exact h
      · refine .putRec ?_ ..
        split
        · exact .ite h (h.post ..)
        · exact h
  case h_8 => exact h.post ..
  case h_10 => exact .ite (h.updCtx ..) h
  case h_11 =>
    split
    · exact h
    · split
      · exact h
      · exact h.of_eq rfl rfl rfl
  all_goals exact h.of_eq rfl rfl rfl

/-- The outputs of a run, committed as a whole (R108). -/
theorem outputs (h : c.Ends k) (r : Run) : c.Ends (if r.status == .zeroShape then k else
    r.outs.foldl (fun c o => c.commit r.op (c.frameOf r) r.maker o) k) :=
  .ite h (h.foldl _ fun hd _ => hd.commit ..)

end Core.Ends

section
variable (c : Core) (now : Nat) (r : Run)

/-- A run that ends is dropped first; all else that its end does is an end of work (R40, R108). -/
theorem Core.endRun_ends : ∃ n, (({ c with free := n } : Core).dropRun r.id).Ends (c.endRun now r) := by
  obtain ⟨n, m, hdrawn⟩ := c.drawn_cases r
  refine ⟨n, ?_⟩
  have hdrop : (c.drawn r).1.dropRun r.id = ({ c with free := n } : Core).dropRun r.id := by rw [hdrawn]
  unfold Core.endRun
  simp only [hdrop]
  generalize ({ c with free := n } : Core).dropRun r.id = d
  generalize (c.drawn r).2 = y
  have hpost := ((Core.Ends.refl d).outputs y).postCommit now y
  refine .ite (.ite (.endCmd ?_ ..) (.endCmd hpost ..)) (((Core.Ends.refl d).undo y).endCmd ..)
  split
  · exact (hpost.health ..).updInst ..
  · exact hpost.health ..

/-- No number finds a run that has ended. -/
theorem Core.endRun_run? : (c.endRun now r).run? r.id = none := by
  obtain ⟨n, h⟩ := c.endRun_ends now r
  exact h.gone _ (Core.dropRun_run? ..)

end

namespace Core.Ends

variable {c k : Core}

theorem endRun (h : c.Ends k) (now : Nat) (r : Run) : c.Ends (k.endRun now r) := by
  obtain ⟨n, hend⟩ := k.endRun_ends now r
  have hfree : c.Ends { k with free := n } := h.of_eq rfl rfl rfl
  exact (hfree.dropRun r.id).trans hend

theorem failRun (h : c.Ends k) (now : Nat) (r : Run) (st : Status) : c.Ends (k.failRun now r st) := h.endRun ..

/-! ### Queues, partitions and functions that go -/

theorem drainCtxs (h : c.Ends k) (now : Nat) (l : List (Nat × Ctx)) : c.Ends (l.foldl (fun c x => c.drainCtx now x.1) k) :=
  h.foldl l fun hd x => hd.drainCtx now x.1

theorem qOff (h : c.Ends k) (now q : Nat) : c.Ends (k.qOff now q) := by
  have hoff (y : Queue) : y.off.func = y.func ∧ y.off.nextN = y.nextN := ⟨rfl, rfl⟩
  unfold Core.qOff
  exact .bindings (.updQ (.drainCtxs (h.finishClips ..) now _) hoff) _

theorem doneLimits (h : c.Ends k) (now : Nat) (cmd : Option Cmd) (st : Status) (detail : Nat) :
    c.Ends (k.doneLimits now cmd st detail) := by
  unfold Core.doneLimits
  split
  · exact h.completeLate ..
  · exact h

theorem setM (h : c.Ends k) (m : MState) : c.Ends (k.setM m) :=
  h.of_eq (Core.setM_qs ..) (Core.setM_host ..) (Core.setM_runs ..)

theorem drainPart (h : c.Ends k) (now p : Nat) : c.Ends (k.drainPart now p) := by
  unfold Core.drainPart
  extract_lets limits draining unbound abandoned unclipped
  have hlimits : c.Ends limits := by
    unfold limits
    split
    · exact ((h.tell _).updPart ..).doneLimits ..
    · exact h
  have hunbound : c.Ends unbound := (hlimits.updPart ..).bindings _
  have habandoned : c.Ends abandoned := hunbound.foldl _ fun hd i => hd.abandon ..
  have hdrained := (habandoned.finishClips now 5 fun x => x.part == p).drainCtxs now (unclipped.ctxs.filter fun x => x.2.part == p)
  exact .ite (hdrained.setM _) hdrained

/-- Reads that fail with their function fail their commands, and what depends on those (R113, R389). -/
theorem failReads (h : c.Ends k) (now f : Nat) : c.Ends (k.failReads now f) := by
  unfold Core.failReads
  extract_lets mine failed
  have hfailed : c.Ends failed := h.foldl _ fun hd r => hd.failRun ..
  refine hfailed.foldl _ fun hd e => .ite hd (.foldl (hd.ctxs _) _ fun {d} hd g => ?_)
  have hgone : c.Ends (d.updQ e.1 fun y => { y with fetched := y.fetched.filter fun x => x.n != g.n }) :=
    hd.updQ fun _ => ⟨rfl, rfl⟩
  exact .ite (hgone.complete ..) (.failRing (hgone.complete ..) ..)

end Core.Ends
end Sys2Proof.Machine
end

section
/-! SUPPORT. Device reads: a tag that is freed or quarantined, and the run that waits for it (R385 to R388). -/

namespace Sys2Proof.Machine

/-! ### Tags -/

section
variable {c k : Core} {fn tag : Nat} {d : Rd}

theorem Core.rd?_of_reads (h : k.host.reads = c.host.reads) : k.rd? fn tag = c.rd? fn tag := by
  simp only [Core.rd?, h]

/-- A tag that is dropped is free. -/
theorem Core.rd?_dropRd : (c.dropRd fn tag).rd? fn tag = none := by
  refine List.find?_eq_none.2 fun x hx => ?_
  have hkeep := (List.mem_filter.1 hx).2
  simpa only [Bool.not_eq_true', Bool.not_eq_true] using hkeep

/-- A read that is quarantined keeps its tag. -/
theorem Core.rd?_quarantineRd (h : c.rd? fn tag = some d) (poisoned : Bool) :
    (c.quarantineRd fn tag poisoned).rd? fn tag = some { d with quarantine := true, poisoned := poisoned } := by
  have hd := List.find?_some h
  have hp : ((fun r : Rd => r.fn == fn && r.tag == tag) ∘ fun r =>
      if r.fn == fn && r.tag == tag then { r with quarantine := true, poisoned := poisoned } else r) =
      fun r => r.fn == fn && r.tag == tag := by
    funext r
    simp only [Function.comp]
    split <;> rfl
  simp only [Core.rd?] at h
  simp only [Core.rd?, Core.quarantineRd, Core.updHost, listSet, List.find?_map, hp, h, Option.map_some, if_pos hd]

/-- The end of an FLR is a fact of the function's configuration (R393). -/
theorem Core.flrCheck_eq (c : Core) (f : Nat) : ∃ x, c.flrCheck f = { c with host := { c.host with fns := x } } := by
  unfold Core.flrCheck
  split <;> exact ⟨_, rfl⟩

/-! ### A read that lands -/

/-- A run for which one read has landed. -/
def Run.landed (r : Run) : Run := { r with reads := r.reads - 1 }

/-- A core with a read landed, before its run ends. -/
def Core.landing (c : Core) (fn tag : Nat) (r : Run) : Core :=
  ((c.dropRd fn tag).flrCheck fn).updRun r.id fun _ => r.landed

theorem Core.landing_eq (r : Run) : ∃ x, c.landing fn tag r = { c with
    host := { c.host with fns := x, reads := c.host.reads.filter fun d => !(d.fn == fn && d.tag == tag) }
    runs := listSet c.runs (·.id == r.id) fun _ => r.landed } := by
  obtain ⟨x, h⟩ := (c.dropRd fn tag).flrCheck_eq fn
  exact ⟨x, by rw [Core.landing, h]; rfl⟩

theorem Core.landing_rd? (r : Run) : (c.landing fn tag r).rd? fn tag = none := by
  obtain ⟨x, h⟩ := c.landing_eq (fn := fn) (tag := tag) r
  rw [h]
  exact c.rd?_dropRd (fn := fn) (tag := tag)

/-- The run waits for one read less. -/
theorem Core.landing_run? {r : Run} {n : Nat} (h : c.run? n = some r) : (c.landing fn tag r).run? n = some r.landed := by
  obtain ⟨x, heq⟩ := c.landing_eq (fn := fn) (tag := tag) r
  obtain rfl := Core.run?_id h
  obtain ⟨hlive, hmem⟩ := And.intro (List.find?_some h) (List.mem_of_find?_eq_some h)
  have hid (y : Run) (hy : ((if y.id == r.id then r.landed else y).id == r.id &&
      !(if y.id == r.id then r.landed else y).dead) = true) : (y.id == r.id) = true := by
    by_contra hne
    rw [if_neg hne] at hy
    exact hne (Bool.and_eq_true_iff.1 hy).1
  rw [heq]
  simp only [Core.run?, listSet, List.find?_map]
  cases hfind : c.runs.find? ((fun y : Run => y.id == r.id && !y.dead) ∘ fun y => if y.id == r.id then r.landed else y) with
  | none => exact absurd (List.find?_eq_none.1 hfind r hmem) (by simpa [Run.landed] using hlive)
  | some y => rw [Option.map_some, if_pos (hid y (by simpa using List.find?_some hfind))]

/-- HOST_READ_COMPLETION by what its run still waits for (R385). -/
theorem Core.landRead_eq (now : Nat) {r : Run} (hd : c.rd? fn tag = some d) (hq : d.quarantine = false)
    (hr : c.run? d.run = some r) : c.landRead now fn tag =
      if r.landed.done then (c.landing fn tag r).endRun now r.landed else c.landing fn tag r := by
  obtain ⟨x, h⟩ := (c.dropRd fn tag).flrCheck_eq fn
  have hrun : ((c.dropRd fn tag).flrCheck fn).run? d.run = some r := by rw [h]; exact hr
  unfold Core.landRead
  simp only [hd, hq, hrun, Bool.false_eq_true, if_false]
  rfl

end

/-! ### A read that fails -/

section
variable {c : Core} {fn tag : Nat} {d : Rd} {r : ReadEnd}

theorem Core.readFailed_reads (c : Core) (r : ReadEnd) : (c.readFailed r).host.reads = c.host.reads := by
  unfold Core.readFailed
  rw [(Core.errBit_kept _ 3).reads]
  cases r <;> rfl

/-- The tag of a read that has failed (R388). -/
def Core.endTag (c : Core) (fn tag : Nat) (r : ReadEnd) : Core :=
  if ReadEnd.quarantines r then c.quarantineRd fn tag (ReadEnd.isPoison r) else c.dropRd fn tag

theorem Core.endTag_eq : ∃ x, c.endTag fn tag r = { c with host := { c.host with reads := x } } := by
  unfold Core.endTag
  split <;> exact ⟨_, rfl⟩

/-- A failed read by what the number of its run still finds. -/
theorem Core.failRead_eq (now : Nat) (hd : c.rd? fn tag = some d) (hq : d.quarantine = false) : c.failRead now fn tag r =
    ((((c.readFailed r).endTag fn tag r).flrCheck fn).run? d.run).elim (((c.readFailed r).endTag fn tag r).flrCheck fn)
      fun x => (((c.readFailed r).endTag fn tag r).flrCheck fn).failRun now x .hostReadTimeout := by
  unfold Core.failRead Core.endTag
  simp only [hd, hq, Bool.false_eq_true, if_false]
  split
  next hx => rw [hx, Option.elim_none]
  next hx => rw [hx, Option.elim_some]

/-- A read that fails is counted, its tag is freed or quarantined, its run ends, and nothing else is done (R387, R388). -/
theorem Core.failRead_ends (now : Nat) (hd : c.rd? fn tag = some d) (hq : d.quarantine = false) :
    (((c.readFailed r).endTag fn tag r).flrCheck fn).Ends (c.failRead now fn tag r) ∧
      (c.failRead now fn tag r).run? d.run = none := by
  rw [Core.failRead_eq now hd hq]
  cases hx : (((c.readFailed r).endTag fn tag r).flrCheck fn).run? d.run with
  | none => exact ⟨.refl _, hx⟩
  | some x => exact ⟨.failRun (.refl _) .., Core.run?_id hx ▸ Core.endRun_run? ..⟩

/-- What a failed read leaves of the host interface beside the tag and the end of its run. -/
theorem Core.failRead_kept (now : Nat) (hd : c.rd? fn tag = some d) (hq : d.quarantine = false) :
    ∃ x y, ({ (c.readFailed r).host with fns := x, reads := y } : HostIf).Kept (c.failRead now fn tag r).host := by
  obtain ⟨y, hy⟩ := (c.readFailed r).endTag_eq (fn := fn) (tag := tag) (r := r)
  obtain ⟨x, hx⟩ := ((c.readFailed r).endTag fn tag r).flrCheck_eq fn
  have h := (c.failRead_ends (r := r) now hd hq).1.host
  rw [hx, hy] at h
  exact ⟨x, y, h⟩

theorem Core.failRead_rd? (now : Nat) (hd : c.rd? fn tag = some d) (hq : d.quarantine = false) :
    (c.failRead now fn tag r).rd? fn tag =
      if ReadEnd.quarantines r then some { d with quarantine := true, poisoned := ReadEnd.isPoison r } else none := by
  obtain ⟨x, hx⟩ := ((c.readFailed r).endTag fn tag r).flrCheck_eq fn
  rw [Core.rd?_of_reads (c.failRead_ends now hd hq).1.host.reads, hx]
  show ((c.readFailed r).endTag fn tag r).rd? fn tag = _
  unfold Core.endTag
  split
  · exact Core.rd?_quarantineRd ((Core.rd?_of_reads (c.readFailed_reads r)).trans hd) _
  · exact Core.rd?_dropRd

theorem Core.failRead_hrdErr (now : Nat) (hd : c.rd? fn tag = some d) (hq : d.quarantine = false) :
    bitAt 3 (c.failRead now fn tag r).host.errCause = true := by
  obtain ⟨x, y, h⟩ := c.failRead_kept (r := r) now hd hq
  exact h.errs 3 (Core.errBit_set _ 3)

end

/-! ### The end of a quarantine -/

section
variable {s : State} {fn tag : Nat} {d : Rd}

/-- A late completion ends the quarantine, and counts unless it is the rest of a poisoned read (R388). -/
theorem exec_lateCompletion (hd : s.core.rd? fn tag = some d) (hq : d.quarantine = true) :
    exec (.lateCompletion fn tag) s = .next { s with core := (if d.poisoned then s.core.dropRd fn tag
      else ((s.core.dropRd fn tag).updHost fun h => { h with late := satAdd 0xFFFF h.late 1, aer := h.aer + 1 }).errBit 2) } := by
  show execLateCompletion fn tag s = _
  unfold execLateCompletion
  simp only [onCore_eq, hd, hq, Bool.not_true, Bool.false_eq_true, if_false]

theorem exec_quarantineExpiry (hd : s.core.rd? fn tag = some d) (hq : d.quarantine = true) :
    exec (.quarantineExpiry fn tag) s = .next { s with core := s.core.dropRd fn tag } := by
  show execQuarantineExpiry fn tag s = _
  unfold execQuarantineExpiry
  simp only [onCore_eq, hd, hq, if_true]

end

end Sys2Proof.Machine

open Sys2Proof Sys2Proof.Machine

/-- Settles O20: the read's tag is dropped first; its run then ends, or waits for one read less. -/
theorem readCompletionLands : Obligations.ReadCompletionLands := by
  unfold Obligations.ReadCompletionLands
  intro fn tag s d r hd hq hr
  have hland := Core.landRead_eq s.tick.count hd hq hr
  have hid : r.landed.id = d.run := (Core.run?_id hr : r.id = d.run)
  have hfree := s.core.landing_rd? (fn := fn) (tag := tag) r
  refine ⟨{ s with core := s.core.landRead s.tick.count fn tag }, rfl, ?_, rfl,
    fun (hdone : r.landed.done = true) => ?_, fun (hmore : r.landed.done = false) => ?_⟩
  · show (s.core.landRead s.tick.count fn tag).rd? fn tag = none
    rw [hland]
    split
    · exact (Core.rd?_of_reads (Core.Ends.endRun (.refl _) ..).host.reads).trans hfree
    · exact hfree
  · show (s.core.landRead s.tick.count fn tag).run? d.run = none
    rw [hland, if_pos hdone, ← hid]
    exact Core.endRun_run? ..
  · obtain ⟨x, heq⟩ := s.core.landing_eq (fn := fn) (tag := tag) r
    rw [hland, if_neg (by simp [hmore])]
    refine ⟨Core.landing_run? hr, ?_, ?_⟩ <;> rw [heq]

/-- Settles O21: the counter of each way to fail, the tag as that way leaves it, and the end of a quarantine. -/
theorem failedReadsAndQuarantine : Obligations.FailedReadsAndQuarantine := by
  unfold Obligations.FailedReadsAndQuarantine
  refine ⟨fun fn tag s d hd hq => ⟨?_, ?_, ?_, ?_, ?_⟩, fun fn tag s d hd hq => ⟨?_, ?_, Core.rd?_dropRd⟩⟩
  · obtain ⟨x, y, hkept⟩ := s.core.failRead_kept (r := .timeout) s.tick.count hd hq
    exact ⟨_, _, rfl, (Core.failRead_ends _ hd hq).2, Core.failRead_rd? _ hd hq, rfl,
      hkept.timeouts.trans (Core.errBit_kept _ 3).timeouts, Core.failRead_hrdErr _ hd hq⟩
  · obtain ⟨x, y, hkept⟩ := s.core.failRead_kept (r := .ur) s.tick.count hd hq
    exact ⟨_, rfl, (Core.failRead_ends _ hd hq).2, Core.failRead_rd? _ hd hq,
      hkept.ur.trans (Core.errBit_kept _ 3).ur, Core.failRead_hrdErr _ hd hq⟩
  · obtain ⟨x, y, hkept⟩ := s.core.failRead_kept (r := .ca) s.tick.count hd hq
    exact ⟨_, rfl, (Core.failRead_ends _ hd hq).2, Core.failRead_rd? _ hd hq,
      hkept.ca.trans (Core.errBit_kept _ 3).ca, Core.failRead_hrdErr _ hd hq⟩
  · obtain ⟨x, y, hkept⟩ := s.core.failRead_kept (r := .poison true) s.tick.count hd hq
    exact ⟨_, rfl, (Core.failRead_ends _ hd hq).2, Core.failRead_rd? _ hd hq,
      hkept.poisoned.trans (Core.errBit_kept _ 3).poisoned⟩
  · obtain ⟨x, y, hkept⟩ := s.core.failRead_kept (r := .poison false) s.tick.count hd hq
    exact ⟨_, _, rfl, (Core.failRead_ends _ hd hq).2, Core.failRead_rd? _ hd hq, rfl, rfl,
      hkept.poisoned.trans (Core.errBit_kept _ 3).poisoned⟩
  · cases hp : d.poisoned with
    | false =>
      have hkept := Core.errBit_kept ((s.core.dropRd fn tag).updHost fun h =>
        { h with late := satAdd 0xFFFF h.late 1, aer := h.aer + 1 }) 2
      refine ⟨_, exec_lateCompletion hd hq, ?_⟩
      simp only [hp, Bool.false_eq_true, if_false]
      exact ⟨(Core.rd?_of_reads hkept.reads).trans Core.rd?_dropRd, Core.errBit_mem .., Core.errBit_copies ..,
        Core.errBit_runs .., hkept.late⟩
    | true =>
      refine ⟨_, exec_lateCompletion hd hq, ?_⟩
      simp only [hp, if_true]
      exact ⟨Core.rd?_dropRd, rfl, rfl, rfl, rfl⟩
  · exact exec_quarantineExpiry hd hq

end

section
/-! SUPPORT. Messages that are sent (R383), and a function that stops mastering the bus or masters it again (R373, R389, R391). -/

namespace Sys2Proof.Machine

/-! ### Vectors -/

section
variable (c : Core) (f v : Nat)

theorem Core.vec_updVec (j : Nat) (g : Vec → Vec) : (c.updVec f v g).vec f j = if j = v then g (c.vec f v) else c.vec f j := by
  simp only [Core.vec, Core.updVec, Core.updHost, Tab.get_upd, vecKey, Nat.add_left_cancel_iff]

@[simp] theorem Core.vec_updVec_self (g : Vec → Vec) : (c.updVec f v g).vec f v = g (c.vec f v) := by
  rw [Core.vec_updVec, if_pos rfl]

@[simp] theorem Core.fn_updVec (j : Nat) (g : Vec → Vec) : (c.updVec f v g).fn j = c.fn j := rfl
@[simp] theorem Core.mastering_updVec (j : Nat) (g : Vec → Vec) : (c.updVec f v g).mastering j = c.mastering j := rfl

variable {c f v}

/-- With nothing against it a message is sent, and holds its vector for 1 µs (R383). -/
theorem Core.msg_sends (hm : c.mastering f = true) (hen : (c.fn f).msixEn = true) (hmask : (c.fn f).fnMask = false)
    (hv : (c.vec f v).masked = false) (hh : (c.vec f v).hold = false) :
    c.msg f v = c.updVec f v fun x => { x with sent := x.sent + 1, hold := true } := by
  simp [Core.msg, hm, hen, hmask, hv, hh]

/-- A message that is pending falls due again once its vector is unmasked (R383). -/
theorem Core.unmask_of_pending (hp : (c.vec f v).pending = true) (hmask : (c.fn f).fnMask = false) : c.unmask f v =
    ((c.updVec f v fun x => { x with masked := false }).updVec f v fun x => { x with pending := false }).msg f v := by
  have hmask' : ((c.updVec f v fun x => { x with masked := false }).fn f).fnMask = false := hmask
  unfold Core.unmask
  simp only [Core.vec_updVec_self, hp, hmask', Bool.not_false, Bool.and_true, if_true]

theorem exec_msixUnmask {s : State} (hbar : s.core.barOk f = true) (hv : v < vecCount f) :
    exec (.msixUnmask f v) s = .next { s with core := s.core.unmask f v } := by
  show execMsixUnmask f v s = _
  simp only [execMsixUnmask, onCore_eq, hbar, hv, decide_true, Bool.and_true, if_true]

end

end Sys2Proof.Machine

open Sys2Proof Sys2Proof.Machine

/-- Settles O25: each row changes the one vector, and then nothing is against its message. -/
theorem messagesAreSentOnce : Obligations.MessagesAreSentOnce := by
  unfold Obligations.MessagesAreSentOnce
  intro fn v s hm hen hmask
  refine ⟨fun hdelayed hmasked => ?_, fun hdelayed => ?_, fun hbar hv hpending hhold => ?_⟩
  · refine ⟨_, rfl, ?_⟩
    simp only [hdelayed, if_true]
    rw [Core.msg_sends]
    · exact ⟨by simp, rfl⟩
    all_goals simp [hm, hen, hmask, hmasked]
  · refine ⟨_, rfl, ?_⟩
    simp [hdelayed]
  · refine ⟨_, exec_msixUnmask hbar hv, ?_⟩
    simp only [Core.unmask_of_pending hpending hmask]
    rw [Core.msg_sends]
    · simp
    all_goals simp [hm, hen, hmask, hhold]

end

section
/-! SUPPORT. A function that stops mastering the bus, and one that masters it again: its held writes land, its owed messages are
sent, its queues run (R373, R389 to R391). -/

namespace Sys2Proof.Machine

@[simp] theorem Core.updFn_linkUp (c : Core) (k : Nat) (f : Fn → Fn) : (c.updFn k f).host.linkUp = c.host.linkUp := rfl

/-! ### From the moment it stops -/

section
variable (c : Core) (now f : Nat)

/-- The reads of a function that stops mastering are quarantined (R389). -/
def Core.quarantineAll : Core :=
  c.updHost fun h => { h with reads := listSet h.reads (fun r => r.fn == f) fun r => { r with quarantine := true } }

theorem Core.quarantineAll_reads {r : Rd} (hr : r ∈ (c.quarantineAll f).host.reads) (hf : r.fn = f) :
    r.quarantine = true := by
  obtain ⟨d, -, rfl⟩ := List.mem_map.1 hr
  split
  · rfl
  next hne =>
    rw [if_neg hne] at hf
    exact absurd hf (by simpa using hne)

/-- A queue of a function that stops mastering pauses (R389). -/
def Queue.stopped (f : Nat) (q : Queue) : Queue := if q.func == f && q.state == .enabled then { q with state := .paused } else q

theorem Queue.stopped_state {f : Nat} {q : Queue} (h : q.func = f) : (q.stopped f).state ≠ .enabled := by
  by_cases hs : q.state = .enabled <;> simp [Queue.stopped, h, hs]

theorem Core.stopMaster_host : (c.quarantineAll f).host.Kept (c.stopMaster now f).host :=
  ((Core.Ends.refl (c.quarantineAll f)).failReads now f).host

/-- A queue of the function is not ENABLED any more (R389). -/
theorem Core.stopMaster_q {q : Nat} (hq : (c.q q).func = f) : ((c.stopMaster now f).q q).state ≠ .enabled := by
  have howner := (((Core.Ends.refl (c.quarantineAll f)).failReads now f).owner q).1
  have hget : (c.stopMaster now f).q q = (((c.quarantineAll f).failReads now f).q q).stopped f :=
    Tab.get_mapAll (f := fun _ x => Queue.stopped f x) (fun _ => by simp [Queue.stopped]) _ q
  rw [hget]
  have hfunc : (((c.quarantineAll f).failReads now f).q q).func = f := howner.trans hq
  exact Queue.stopped_state hfunc

end

/-- From the moment a function stops mastering: it is configured as it was, no queue of it is ENABLED, and its reads are quarantined
(R389). -/
theorem Core.stopMaster_stops (c : Core) (now f : Nat) : (∀ j, (c.stopMaster now f).fn j = c.fn j) ∧
    (∀ q, (c.q q).func = f → ((c.stopMaster now f).q q).state ≠ .enabled) ∧
    ∀ r ∈ (c.stopMaster now f).host.reads, r.fn = f → r.quarantine = true := by
  have hkept := c.stopMaster_host now f
  refine ⟨fun j => ?_, fun q hq => c.stopMaster_q now f hq, fun r hr hf => ?_⟩
  · exact congrArg (Tab.get {} · j) hkept.fns
  · rw [hkept.reads] at hr
    exact c.quarantineAll_reads f hr hf

/-! ### Held writes -/

section
variable (c : Core) (now : Nat)

@[simp] theorem Core.logFreeze_held (r : List Byte) : (c.logFreeze r).host.held = c.host.held := by
  unfold Core.logFreeze
  simp only [Core.errBit_held]
  split
  · exact Core.errBit_held ..
  · rfl

/-- A held write that is issued lands, or freezes its queue (R120, R381). -/
theorem Core.landHeld_host (w : Held) :
    (c.landHeld now w).host.held = c.host.held ∧ (c.landHeld now w).host.fns = c.host.fns := by
  unfold Core.landHeld
  split
  · exact ⟨Core.logFreeze_held .., (Core.Ends.freezeQ (.refl c) ..).host.fns⟩
  · exact ⟨rfl, rfl⟩

theorem Core.foldl_landHeld_host (l : List Held) : (l.foldl (fun c w => c.landHeld now w) c).host.held = c.host.held ∧
    (l.foldl (fun c w => c.landHeld now w) c).host.fns = c.host.fns := by
  refine List.foldlRecOn (motive := fun k : Core => k.host.held = c.host.held ∧ k.host.fns = c.host.fns) l _ ⟨rfl, rfl⟩
    fun k ⟨hheld, hfns⟩ w _ => ?_
  obtain ⟨hheld', hfns'⟩ := k.landHeld_host now w
  exact ⟨hheld'.trans hheld, hfns'.trans hfns⟩

/-- Held writes that the windows hold land in their order (R391). -/
theorem Core.foldl_landHeld_covered {c : Core} (l : List Held)
    (h : ∀ w ∈ l, c.host.uncovered w.fn true w.addr w.data.length = none) :
    l.foldl (fun c w => c.landHeld now w) c =
      c.updHost fun x => { x with mem := l.foldl (fun m w => Memory.write m w.addr w.data) x.mem } := by
  induction l generalizing c with
  | nil => rfl
  | cons w l ih =>
    have hland : c.landHeld now w = c.updHost fun x => { x with mem := Memory.write x.mem w.addr w.data } := by
      unfold Core.landHeld
      simp only [h w List.mem_cons_self]
    rw [List.foldl_cons, hland]
    exact ih (c := c.updHost _) fun v hv => h v (List.mem_cons_of_mem _ hv)

end

/-! ### Owed messages -/

/-- An entry that reads as another value than the default is listed. -/
theorem Tab.mem_of_get_ne {α : Type} {d : α} {t : Tab α} {k : Nat} (h : Tab.get d t k ≠ d) : (k, Tab.get d t k) ∈ t := by
  induction t with
  | nil => exact absurd rfl h
  | cons e r ih =>
    obtain ⟨j, v⟩ := e
    by_cases hj : j = k
    · simp [Tab.get, hj]
    · simp only [Tab.get, if_neg hj] at h ⊢
      exact List.mem_cons_of_mem _ (ih h)

section
variable {c : Core} {f : Nat}

/-- An owed message of a vector falls due (R391). -/
def Core.sendOwed (f : Nat) (c : Core) (e : Nat × Vec) : Core :=
  (c.updVec f (e.1 % 4096) fun x => { x with owed := false }).msg f (e.1 % 4096)

/-- Messages change vectors alone. -/
theorem Core.foldl_sendOwed_eq (l : List (Nat × Vec)) :
    ∃ x, l.foldl (Core.sendOwed f) c = { c with host := { c.host with vecs := x } } := by
  refine List.foldlRecOn (motive := fun k : Core => ∃ x, k = { c with host := { c.host with vecs := x } }) l _ ⟨_, rfl⟩
    fun k hk e _ => ?_
  obtain ⟨x, rfl⟩ := hk
  rcases Core.msg_cases (Core.updVec _ f (e.1 % 4096) fun x => { x with owed := false }) f (e.1 % 4096) with h | ⟨g, h⟩
  · exact ⟨_, by rw [Core.sendOwed, h]; rfl⟩
  · exact ⟨_, by rw [Core.sendOwed, h]; rfl⟩

/-- A function that masters the bus is owed no message by a message (R383). -/
theorem Core.msg_owed (hm : c.mastering f = true) (v j : Nat) (h : ((c.msg f v).vec f j).owed = true) :
    (c.vec f j).owed = true := by
  have hupd {g : Vec → Vec} (h : ((c.updVec f v g).vec f j).owed = true) (hg : ∀ x, (g x).owed = x.owed) :
      (c.vec f j).owed = true := by
    rw [Core.vec_updVec] at h
    split at h
    next hj => rwa [hj, ← hg]
    next => exact h
  unfold Core.msg at h
  rw [if_neg (by simp [hm])] at h
  split_ifs at h
  · exact h
  · exact hupd h fun _ => rfl
  · exact hupd h fun _ => rfl
  · exact hupd h fun _ => rfl

/-- What is still owed was owed before, and has not been sent. -/
theorem Core.foldl_sendOwed_owed (l : List (Nat × Vec)) (hm : c.mastering f = true) {v : Nat}
    (h : ((l.foldl (Core.sendOwed f) c).vec f v).owed = true) : (c.vec f v).owed = true ∧ ∀ e ∈ l, e.1 % 4096 ≠ v := by
  induction l generalizing c with
  | nil => exact ⟨h, by simp⟩
  | cons e l ih =>
    obtain ⟨x, hx⟩ := Core.foldl_sendOwed_eq (f := f) (c := c) [e]
    have hm' : (c.sendOwed f e).mastering f = true := by
      rw [show c.sendOwed f e = _ from hx]
      exact hm
    obtain ⟨hsend, hrest⟩ := ih hm' h
    have hbefore := Core.msg_owed (c := c.updVec f (e.1 % 4096) fun x => { x with owed := false }) hm _ _ hsend
    rw [Core.vec_updVec] at hbefore
    split at hbefore
    · cases hbefore
    next hne => exact ⟨hbefore, fun d hd => (List.mem_cons.1 hd).elim (fun heq => heq ▸ Ne.symm hne) (hrest d)⟩

end

/-! ### Queues that run again -/

/-- A queue runs again, or stays PAUSED while PAUSE is set (R391). -/
def Core.requeue (c : Core) (e : Nat × Queue) : Core := c.updQ e.1 fun y => { y with state := c.runState e.1 }

theorem Core.foldl_requeue_eq (c : Core) (l : List (Nat × Queue)) : ∃ x, l.foldl Core.requeue c = { c with qs := x } := by
  refine List.foldlRecOn (motive := fun k : Core => ∃ x, k = { c with qs := x }) l _ ⟨_, rfl⟩ fun k hk e _ => ?_
  obtain ⟨x, rfl⟩ := hk
  exact ⟨_, rfl⟩

/-- A queue of a function that masters the bus is ENABLED once it runs again, unless PAUSE is set. -/
theorem Core.foldl_requeue_enabled {c : Core} {q : Nat} (l : List (Nat × Queue)) (hm : c.mastering (c.q q).func = true)
    (hp : (c.q q).pause = false) (h : (c.q q).state = .enabled ∨ ∃ e ∈ l, e.1 = q) :
    ((l.foldl Core.requeue c).q q).state = .enabled := by
  induction l generalizing c with
  | nil => simpa using h
  | cons e l ih =>
    have hget : (c.requeue e).q q = if q = e.1 then { c.q q with state := .enabled } else c.q q := by
      rw [Core.requeue, Core.q_updQ]
      split
      next heq => simp [← heq, Core.runState, hm, hp]
      next => rfl
    have hsame : ((c.requeue e).q q).func = (c.q q).func ∧ ((c.requeue e).q q).pause = (c.q q).pause := by
      rw [hget]
      split <;> exact ⟨rfl, rfl⟩
    refine ih (by rw [hsame.1]; exact hm) (hsame.2.trans hp) ?_
    rw [hget]
    by_cases heq : q = e.1
    · exact .inl (by rw [if_pos heq])
    · rw [if_neg heq]
      refine h.imp_right ?_
      rintro ⟨d, hd, hdq⟩
      exact ⟨d, (List.mem_cons.1 hd).resolve_left fun hde => heq (hde ▸ hdq.symm), hdq⟩

/-! ### From the moment it masters again -/

section
variable (c : Core) (now f : Nat)

/-- The held writes of a function are issued (R391). -/
def Core.landAll : Core :=
  (c.host.held.filter (·.fn == f)).foldl (fun c w => c.landHeld now w)
    ((c.updFn f fun x => { x with woken := false }).updHost fun h => { h with held := h.held.filter (·.fn != f) })

/-- The messages that a function owes are sent. -/
def Core.sendAll : Core := (c.host.vecs.filter fun e => e.1 / 4096 == f && e.2.owed).foldl (Core.sendOwed f) c

/-- The paused queues of a function are fetched again. -/
def Core.runAll : Core := (c.qs.filter fun e => e.2.func == f && e.2.state == .paused).foldl Core.requeue c

/-- Writes, messages and queues, in that order (R391). -/
theorem Core.resumeMaster_eq (h : c.mastering f = true) : c.resumeMaster now f = ((c.landAll now f).sendAll f).runAll f := by
  unfold Core.resumeMaster
  simp only [h, Bool.not_true, Bool.false_eq_true, if_false]
  rfl

/-- No vector of the function is owed a message any more. -/
theorem Core.sendAll_owed {c : Core} {f : Nat} (hm : c.mastering f = true) {v : Nat} (hv : v < 4096) :
    ((c.sendAll f).vec f v).owed = false := by
  by_contra howed
  obtain ⟨hbefore, hnone⟩ := Core.foldl_sendOwed_owed _ hm ((Bool.not_eq_false _).mp howed)
  have hmem : (vecKey f v, c.vec f v) ∈ c.host.vecs := Tab.mem_of_get_ne fun h => by
    rw [Core.vec, h] at hbefore
    cases hbefore
  have hkey : vecKey f v / 4096 = f ∧ vecKey f v % 4096 = v := by unfold vecKey; omega
  exact hnone _ (List.mem_filter.2 ⟨hmem, by simp [hkey.1, hbefore]⟩) hkey.2

/-- A queue of the function that was PAUSED is ENABLED, unless PAUSE is set. -/
theorem Core.runAll_enabled {c : Core} {f q : Nat} (hm : c.mastering f = true) (hq : (c.q q).func = f)
    (hs : (c.q q).state = .paused) (hp : (c.q q).pause = false) : ((c.runAll f).q q).state = .enabled := by
  have hmem : (q, c.q q) ∈ c.qs := Tab.mem_of_get_ne fun h => by
    rw [Core.q, h] at hs
    cases hs
  exact Core.foldl_requeue_enabled _ (by rw [hq]; exact hm) hp
    (.inr ⟨_, List.mem_filter.2 ⟨hmem, by simp [hq, hs]⟩, rfl⟩)

theorem Core.resumeMaster_host (h : c.mastering f = true) :
    ∃ x, (c.resumeMaster now f).host = { (c.landAll now f).host with vecs := x } := by
  obtain ⟨x, hx⟩ := Core.foldl_sendOwed_eq (f := f) (c := c.landAll now f)
    ((c.landAll now f).host.vecs.filter fun e => e.1 / 4096 == f && e.2.owed)
  obtain ⟨y, hy⟩ := ((c.landAll now f).sendAll f).foldl_requeue_eq
    (((c.landAll now f).sendAll f).qs.filter fun e => e.2.func == f && e.2.state == .paused)
  refine ⟨x, ?_⟩
  rw [c.resumeMaster_eq now f h, Core.runAll, hy, Core.sendAll, hx]

/-- What was held of the function is held no more, and the function has R391 behind it. -/
theorem Core.landAll_host : (c.landAll now f).host.held = c.host.held.filter (·.fn != f) ∧
    (c.landAll now f).fn f = { c.fn f with woken := false } := by
  obtain ⟨hheld, hfns⟩ := Core.foldl_landHeld_host
    ((c.updFn f fun x => { x with woken := false }).updHost fun h => { h with held := h.held.filter (·.fn != f) }) now
    (c.host.held.filter (·.fn == f))
  refine ⟨hheld, ?_⟩
  have hfn : (c.updFn f fun x => { x with woken := false }).fn f = { c.fn f with woken := false } := by
    rw [Core.fn_updFn, if_pos rfl]
  rw [← hfn]
  exact congrArg (Tab.get {} · f) hfns

theorem Core.resumeMaster_held (h : c.mastering f = true) :
    (c.resumeMaster now f).host.held = c.host.held.filter (·.fn != f) ∧
      (c.resumeMaster now f).fn f = { c.fn f with woken := false } := by
  obtain ⟨x, hx⟩ := c.resumeMaster_host now f h
  obtain ⟨hheld, hfn⟩ := c.landAll_host now f
  refine ⟨by rw [hx]; exact hheld, ?_⟩
  rw [← hfn]
  simp only [Core.fn, hx]

variable {c f}

/-- Held writes that the windows hold reach host memory in their order (R391). -/
theorem Core.landAll_covered (h : ∀ w ∈ c.host.held, w.fn = f → c.host.uncovered f true w.addr w.data.length = none) :
    c.landAll now f = (c.updFn f fun x => { x with woken := false }).updHost fun x => { x with
      held := x.held.filter (·.fn != f)
      mem := (c.host.held.filter (·.fn == f)).foldl (fun m w => Memory.write m w.addr w.data) x.mem } := by
  refine Core.foldl_landHeld_covered now _ fun w hw => ?_
  obtain ⟨hmem, hf⟩ := List.mem_filter.1 hw
  obtain rfl : w.fn = f := by simpa using hf
  exact h w hmem rfl

theorem Core.mastering_landAll (hm : c.mastering f = true)
    (h : ∀ w ∈ c.host.held, w.fn = f → c.host.uncovered f true w.addr w.data.length = none) :
    (c.landAll now f).mastering f = true := by
  have hlink : (c.landAll now f).host.linkUp = c.host.linkUp := by
    rw [Core.landAll_covered now h]
    rfl
  simp only [Core.mastering, Bool.and_eq_true, Bool.not_eq_true'] at hm
  simp [Core.mastering, (c.landAll_host now f).2, hlink, hm]

/-- Held writes in memory, no message owed, and no queue PAUSED without its PAUSE (R391). -/
theorem Core.resumeMaster_resumes (hm : c.mastering f = true)
    (h : ∀ w ∈ c.host.held, w.fn = f → c.host.uncovered f true w.addr w.data.length = none) :
    (c.resumeMaster now f).host.mem =
        (c.host.held.filter (·.fn == f)).foldl (fun m w => Memory.write m w.addr w.data) c.host.mem ∧
      (∀ v < 4096, ((c.resumeMaster now f).vec f v).owed = false) ∧
      ∀ q, (c.q q).func = f → (c.q q).state = .paused → (c.q q).pause = false →
        ((c.resumeMaster now f).q q).state = .enabled := by
  have hm' := Core.mastering_landAll now hm h
  obtain ⟨x, hx⟩ : ∃ x, (c.landAll now f).sendAll f = _ := Core.foldl_sendOwed_eq _
  have hq (q : Nat) : ((c.landAll now f).sendAll f).q q = c.q q := by
    rw [hx, Core.landAll_covered now h]
    rfl
  refine ⟨?_, fun v hv => ?_, fun q hf hs hp => ?_⟩
  · obtain ⟨y, hy⟩ := c.resumeMaster_host now f hm
    rw [hy, Core.landAll_covered now h]
    rfl
  · obtain ⟨y, hy⟩ : ∃ y, ((c.landAll now f).sendAll f).runAll f = _ := Core.foldl_requeue_eq ..
    rw [c.resumeMaster_eq now f hm, hy]
    exact Core.sendAll_owed hm' hv
  · rw [c.resumeMaster_eq now f hm]
    refine Core.runAll_enabled ?_ ((hq q).symm ▸ hf) ((hq q).symm ▸ hs) ((hq q).symm ▸ hp)
    rw [hx]
    exact hm'

end

/-! ### The rows -/

section
variable {s : State} {fn : Nat}

theorem exec_busMasterDisable (h : fn ≤ 16) (hm : s.core.mastering fn = true) : exec (.busMasterDisable fn) s =
    .next { s with core := (s.core.updFn fn fun x => { x with bme := false }).stopMaster s.tick.count fn } := by
  show execBusMasterDisable fn s = _
  simp only [execBusMasterDisable, onCoreT_eq, if_neg (Nat.not_lt.2 h), hm, if_true]

theorem exec_d3hotEntry (h : fn ≤ 16) (hm : s.core.mastering fn = true) : exec (.d3hotEntry fn) s =
    .next { s with core := (s.core.updFn fn fun x => { x with d3 := true, woken := true }).stopMaster s.tick.count fn } := by
  show execD3hotEntry fn s = _
  simp only [execD3hotEntry, onCoreT_eq, if_neg (Nat.not_lt.2 h), hm, if_true]

theorem exec_busMasterEnable (h : fn ≤ 16) : exec (.busMasterEnable fn) s =
    .next { s with core := (s.core.updFn fn fun x => { x with bme := true }).resumeMaster s.tick.count fn } := by
  show execBusMasterEnable fn s = _
  simp only [execBusMasterEnable, onCoreT_eq, if_neg (Nat.not_lt.2 h)]

/-- A function that cannot master the bus resumes nothing. -/
theorem Core.resumeMaster_of_not_mastering {c : Core} {now f : Nat} (h : c.mastering f = false) : c.resumeMaster now f = c := by
  simp [Core.resumeMaster, h]

/-- With Memory Space Enable clear, or unable to master the bus, a function only returns to D0 (R373). -/
theorem exec_d0Return (h : fn ≤ 16) : exec (.d0Return fn) s = .next { s with core :=
    (if (s.core.fn fn).mse then (s.core.updFn fn fun x => { x with d3 := false }).resumeMaster s.tick.count fn
    else s.core.updFn fn fun x => { x with d3 := false }) } := by
  show execD0Return fn s = _
  simp only [execD0Return, onCoreT_eq, if_neg (Nat.not_lt.2 h), Core.fn_updFn, if_true]

end

end Sys2Proof.Machine

open Sys2Proof Sys2Proof.Machine

/-- Settles O22: what a function that stops leaves of its queues and reads, and what it takes up again in their order. -/
theorem busMasterOffPausesOnResumes : Obligations.BusMasterOffPausesOnResumes := by
  unfold Obligations.BusMasterOffPausesOnResumes
  refine ⟨fun fn s hfn hm => ⟨?_, ?_⟩,
    fun fn s hfn => ⟨fun hd3 hmse hflr hup hcov => ?_, fun hbme hmse hflr hup => ?_, fun hbme => ?_⟩⟩
  · obtain ⟨hfns, hqs, hreads⟩ := (s.core.updFn fn fun x => { x with bme := false }).stopMaster_stops s.tick.count fn
    exact ⟨_, exec_busMasterDisable hfn hm, by rw [hfns, Core.fn_updFn, if_pos rfl], hqs, hreads, rfl⟩
  · obtain ⟨hfns, hqs, hreads⟩ :=
      (s.core.updFn fn fun x => { x with d3 := true, woken := true }).stopMaster_stops s.tick.count fn
    exact ⟨_, exec_d3hotEntry hfn hm, by rw [hfns, Core.fn_updFn, if_pos rfl], hqs, hreads, rfl⟩
  · have hm : (s.core.updFn fn fun x => { x with bme := true }).mastering fn = true := by
      rcases hmse with h | h <;> simp [Core.mastering, Core.fn_updFn, hd3, hflr, hup, h]
    obtain ⟨hheld, hconf⟩ := Core.resumeMaster_held _ s.tick.count fn hm
    obtain ⟨hmem, howed, hqs⟩ := Core.resumeMaster_resumes s.tick.count hm fun w hw hf => hf ▸ hcov w hw hf
    exact ⟨_, exec_busMasterEnable hfn, by rw [hconf, Core.fn_updFn, if_pos rfl], hheld, hmem, howed, hqs, rfl⟩
  · have hm : (s.core.updFn fn fun x => { x with d3 := false }).mastering fn = true := by
      simp [Core.mastering, Core.fn_updFn, hbme, hmse, hflr, hup]
    obtain ⟨hheld, hconf⟩ := Core.resumeMaster_held _ s.tick.count fn hm
    refine ⟨_, exec_d0Return hfn, ?_, ?_, rfl⟩
    · simp only [if_pos hmse, hconf, Core.fn_updFn, if_true]
    · simp only [if_pos hmse, hheld]
      rfl
  · have hm : (s.core.updFn fn fun x => { x with d3 := false }).mastering fn = false := by
      simp [Core.mastering, Core.fn_updFn, hbme]
    rw [exec_d0Return hfn, Core.resumeMaster_of_not_mastering hm, ite_self]

end

section
/-! SUPPORT. Resets of functions and of the endpoint, and the training of its link (R369, R392 to R395). -/

namespace Sys2Proof.Machine

/-! ### A function-level reset -/

section
variable (c : Core) (now f : Nat)

/-- A function under FLR, its reads failed, its queues DISABLED and its partitions on their way out. -/
def Core.flrEnds : Core :=
  let c := c.updFn f fun x => { x with flr := true }
  let c := c.failReads now f
  let c := (c.qs.filter fun e => e.2.func == f && e.2.state != .disabled).foldl (fun c e => c.qOff now e.1) c
  let c := c.updHost fun h => { h with held := h.held.filter (·.fn != f) }
  (c.parts.filter fun e => e.2.owner == f && e.2.lead.isNone &&
    (e.2.state == .loading || e.2.state == .resident || e.2.state == .active)).foldl (fun c e => c.drainPart now e.1) c

/-- The function's queues, vectors and queue map at reset, and its held writes gone. -/
def Core.flrClears : Core :=
  { c with
    qs := Tab.mapAll {} c.qs fun _ q => if q.func == f then q.reset else q
    host := { c.host with
      held := c.host.held.filter (·.fn != f)
      vecs := c.host.vecs.filter fun e => e.1 / 4096 != f
      vqmap := c.host.vqmap.filter fun e => e.1 / 128 != f || f == 0 } }

theorem Core.flr_eq : c.flr now f =
    (((c.flrEnds now f).flrClears f).updFn f fun x => { flr := true, nextTag := x.nextTag }).flrCheck f := rfl

theorem Core.flrEnds_ends : (c.updFn f fun x => { x with flr := true }).Ends (c.flrEnds now f) := by
  unfold Core.flrEnds
  extract_lets c₁ c₂ c₃ c₄
  have hfail : c₁.Ends c₂ := .failReads (.refl _) ..
  have hoff : c₁.Ends c₃ := hfail.foldl _ fun hd e => hd.qOff ..
  have hheld : c₁.Ends c₄ := hoff.of_kept ⟨rfl, fun _ hb => hb, fun _ => rfl⟩ rfl rfl
  exact hheld.foldl _ fun hd e => hd.drainPart ..

/-- What the last steps of an FLR do to a queue. -/
theorem Core.flr_q (q : Nat) : (c.flr now f).q q =
    if ((c.flrEnds now f).q q).func = f then ((c.flrEnds now f).q q).reset else (c.flrEnds now f).q q := by
  obtain ⟨x, hx⟩ := (((c.flrEnds now f).flrClears f).updFn f fun x => { flr := true, nextTag := x.nextTag }).flrCheck_eq f
  have hmap := Tab.get_mapAll (d := ({} : Queue)) (f := fun _ q => if q.func == f then q.reset else q)
    (fun _ => by dsimp only; split <;> rfl) (c.flrEnds now f).qs q
  rw [c.flr_eq, hx]
  refine hmap.trans ?_
  simp only [beq_iff_eq]
  rfl

/-- A queue of the function goes back to the PF with its configuration at reset (R393). -/
theorem Core.flr_q_of_func {q : Nat} (h : (c.q q).func = f) :
    (c.flr now f).q q = { nextN := (c.q q).nextN, base := (c.q q).nextN } := by
  obtain ⟨hfunc, hn⟩ := (c.flrEnds_ends now f).owner q
  rw [c.flr_q, if_pos (hfunc.trans h)]
  simp only [Queue.reset, hn]
  rfl

/-- A queue of another function stays with it. -/
theorem Core.flr_q_of_ne {q : Nat} (h : (c.q q).func ≠ f) :
    ((c.flr now f).q q).func = (c.q q).func ∧ ((c.flr now f).q q).nextN = (c.q q).nextN := by
  obtain ⟨hfunc, hn⟩ := (c.flrEnds_ends now f).owner q
  have hne : ((c.flrEnds now f).q q).func ≠ f := fun heq => h (hfunc.symm.trans heq)
  rw [c.flr_q, if_neg hne]
  exact ⟨hfunc, hn⟩

/-- The host interface after an FLR, but for the configuration of functions. -/
theorem Core.flr_host : ∃ x, (c.flr now f).host = { ((c.flrEnds now f).flrClears f).host with fns := x } := by
  obtain ⟨x, hx⟩ := (((c.flrEnds now f).flrClears f).updFn f fun x => { flr := true, nextTag := x.nextTag }).flrCheck_eq f
  exact ⟨x, by rw [c.flr_eq, hx]; rfl⟩

/-- Configuration space at reset, but for the tags and the FLR while it waits for reads (R393). -/
theorem Core.flr_fn : ∃ b n, (c.flr now f).fn f = { flr := b, nextTag := n } := by
  rw [c.flr_eq]
  unfold Core.flrCheck
  split
  · refine ⟨false, (((c.flrEnds now f).flrClears f).fn f).nextTag, ?_⟩
    rw [Core.fn_updFn, if_pos rfl, Core.fn_updFn, if_pos rfl]
  · refine ⟨true, (((c.flrEnds now f).flrClears f).fn f).nextTag, ?_⟩
    rw [Core.fn_updFn, if_pos rfl]

/-- The link and PERST# as they were, and over a link that is down nothing written (R395). -/
theorem Core.flr_link : (c.flr now f).host.linkUp = c.host.linkUp ∧ (c.flr now f).host.perst = c.host.perst ∧
    (c.host.linkUp = false → (c.flr now f).host.mem = c.host.mem) := by
  obtain ⟨x, hx⟩ := c.flr_host now f
  have hkept := (c.flrEnds_ends now f).host
  rw [hx]
  exact ⟨hkept.linkUp, hkept.perst, hkept.mem⟩

end

/-- A key that a filter leaves out reads as the default. -/
theorem Tab.get_filter_of_not {α : Type} (d : α) (t : Tab α) {p : Nat × α → Bool} {k : Nat} (h : ∀ v, p (k, v) = false) :
    Tab.get d (t.filter p) k = d := by
  induction t with
  | nil => rfl
  | cons e r ih =>
    obtain ⟨j, v⟩ := e
    by_cases hp : p (j, v) = true
    · have hj : j ≠ k := by
        rintro rfl
        simp [h v] at hp
      rw [List.filter_cons_of_pos hp, Tab.get, if_neg hj, ih]
    · rw [List.filter_cons_of_neg hp, ih]

section
variable (c : Core) (now : Nat) {f : Nat}

/-- The queue map of a VF is empty after its FLR (R393). -/
theorem Core.flr_vq (hf : 1 ≤ f) {k : Nat} (hk : k < 128) : (c.flr now f).vq f k = none := by
  obtain ⟨x, hx⟩ := c.flr_host now f
  have hget : Tab.get 0 (c.flr now f).host.vqmap (vqKey f k) = 0 := by
    rw [hx]
    refine Tab.get_filter_of_not 0 _ fun v => ?_
    have hkey : vqKey f k / 128 = f := by unfold vqKey; omega
    simp only [hkey, bne_self_eq_false, Bool.false_or, beq_eq_false_iff_ne]
    omega
  simp only [Core.vq, hget]

theorem Core.flr_held {w : Held} (h : w ∈ (c.flr now f).host.held) : w.fn ≠ f := by
  obtain ⟨x, hx⟩ := c.flr_host now f
  rw [hx] at h
  simpa using (List.mem_filter.1 h).2

/-! ### The end of the wait for reads -/

/-- No read that is quarantined is outstanding. -/
theorem Core.outstanding_quarantineAll : (c.quarantineAll f).outstanding f = 0 := by
  refine List.length_eq_zero_iff.2 (List.filter_eq_nil_iff.2 fun r hr => ?_)
  by_cases hf : r.fn = f
  · simp [hf, c.quarantineAll_reads f hr hf]
  · simp [hf]

variable {s : State}

/-- After 50 ms the reads still outstanding count as timed out, and the function answers again (R393). -/
theorem exec_flrReadWaitExpiry (h : (s.core.fn f).flr = true) : exec (.flrReadWaitExpiry f) s =
    .next { s with core := (s.core.quarantineAll f).updFn f fun x => { x with flr := false } } := by
  have hflr : ((s.core.quarantineAll f).fn f).flr = true := h
  have hcheck : (s.core.quarantineAll f).flrCheck f = (s.core.quarantineAll f).updFn f fun x => { x with flr := false } := by
    simp [Core.flrCheck, hflr, Core.outstanding_quarantineAll]
  rw [← hcheck]
  show execFlrReadWaitExpiry f s = _
  simp only [execFlrReadWaitExpiry, onCore_eq, h, Bool.not_true, Bool.false_eq_true, if_false]
  rfl

theorem exec_vfFlr (h : 1 ≤ f) (h' : f ≤ 16) : exec (.vfFlr f) s = .next { s with core := s.core.flr s.tick.count f } := by
  show execVfFlr f s = _
  simp only [execVfFlr, onCoreT_eq, h, h', decide_true, Bool.and_true, if_true]

end

end Sys2Proof.Machine

open Sys2Proof Sys2Proof.Machine

/-- Settles O23: what an FLR resets of the function, and the end of its wait. -/
theorem vfFlrResetsTheFunction : Obligations.VfFlrResetsTheFunction := by
  unfold Obligations.VfFlrResetsTheFunction
  refine ⟨fun fn s h1 h16 => ?_, fun fn s hflr => ?_⟩
  · obtain ⟨b, n, hfn⟩ := s.core.flr_fn s.tick.count fn
    refine ⟨_, exec_vfFlr h1 h16, ?_⟩
    dsimp only
    exact ⟨fun q hq => s.core.flr_q_of_func _ fn hq, fun k hk => s.core.flr_vq _ h1 hk, fun w hw => s.core.flr_held _ hw,
      by rw [hfn], by rw [hfn], rfl⟩
  · exact ⟨_, exec_flrReadWaitExpiry hflr, by rw [Core.fn_updFn, if_pos rfl],
      fun r hr hf => s.core.quarantineAll_reads fn hr hf, rfl, rfl⟩

end

section
/-! SUPPORT. Resets of the whole endpoint, its link with them, and the training of the link (R369, R392, R394, R395). -/

namespace Sys2Proof.Machine

/-! ### Every function, the PF last -/

section
variable (c : Core) (now : Nat)

/-- The functions from 16 down to 17 - n under FLR (R394). -/
def Core.flrDown (n : Nat) : Core := (List.range n).foldl (fun c f => c.flr now (16 - f)) c

theorem Core.flrDown_succ (n : Nat) : c.flrDown now (n + 1) = (c.flrDown now n).flr now (16 - n) := by
  simp only [Core.flrDown, List.range_succ, List.foldl_append, List.foldl_cons, List.foldl_nil]

/-- A queue goes to the PF with its function, and counts its commands on. -/
theorem Core.flrDown_q {q : Nat} (h : (c.q q).func ≤ 16) {n : Nat} (hn : n ≤ 16) :
    ((c.flrDown now n).q q).func ≤ 16 - n ∧ ((c.flrDown now n).q q).nextN = (c.q q).nextN := by
  induction n with
  | zero => exact ⟨h, rfl⟩
  | succ n ih =>
    obtain ⟨hle, hnext⟩ := ih (Nat.le_of_succ_le hn)
    rw [Core.flrDown_succ]
    by_cases hf : ((c.flrDown now n).q q).func = 16 - n
    · rw [Core.flr_q_of_func _ _ _ hf]
      exact ⟨Nat.zero_le _, hnext⟩
    · obtain ⟨hfunc, hnext'⟩ := Core.flr_q_of_ne _ now _ hf
      exact ⟨by omega, hnext'.trans hnext⟩

/-- The PF's own FLR comes last, and finds every queue (R394). -/
theorem Core.flrDown_resets {q : Nat} (h : (c.q q).func ≤ 16) :
    (c.flrDown now 17).q q = { nextN := (c.q q).nextN, base := (c.q q).nextN } := by
  obtain ⟨hle, hnext⟩ := c.flrDown_q now h le_rfl
  rw [Core.flrDown_succ, Core.flr_q_of_func _ _ _ (Nat.le_zero.1 hle), hnext]

/-- Resets of functions touch neither the link nor PERST#, and over a link that is down they write nothing (R395). -/
theorem Core.flrDown_link (n : Nat) : (c.flrDown now n).host.linkUp = c.host.linkUp ∧
    (c.flrDown now n).host.perst = c.host.perst ∧ (c.host.linkUp = false → (c.flrDown now n).host.mem = c.host.mem) := by
  induction n with
  | zero => exact ⟨rfl, rfl, fun _ => rfl⟩
  | succ n ih =>
    obtain ⟨hlink, hperst, hmem⟩ := ih
    obtain ⟨hlink', hperst', hmem'⟩ := (c.flrDown now n).flr_link now (16 - n)
    rw [Core.flrDown_succ]
    exact ⟨hlink'.trans hlink, hperst'.trans hperst, fun h => (hmem' (hlink.trans h)).trans (hmem h)⟩

end

/-! ### The endpoint -/

section
variable (s : State)

/-- What a reset of the PF sets beside its functions (R394). -/
def Core.clearEndpoint (c : Core) : Core :=
  c.updHost fun h => { h with vfEnable := false, windows := [], errVec := 0, intake := 8 }

theorem Core.clearEndpoint_host (c : Core) :
    c.clearEndpoint.host = { c.host with vfEnable := false, windows := [], errVec := 0, intake := 8 } := rfl

theorem Core.clearEndpoint_q (c : Core) (q : Nat) : c.clearEndpoint.q q = c.q q := rfl

/-- A reset of the PF (R394). -/
theorem State.pfReset_eq : s.pfReset =
    { s.dropActs with core := (s.dropActs.core.flrDown s.tick.count 17).clearEndpoint } := rfl

theorem State.dropActs_q (q : Nat) :
    (s.dropActs.core.q q).func = (s.core.q q).func ∧ (s.dropActs.core.q q).nextN = (s.core.q q).nextN := by
  simp only [State.dropActs, Core.q_updQ]
  split
  next h => subst h; exact ⟨rfl, rfl⟩
  next => exact ⟨rfl, rfl⟩

/-- What a reset of the PF resets, and the units that it leaves alone (R394). -/
def State.EndpointReset (s t : State) : Prop :=
  (∀ q, (s.core.q q).func ≤ 16 → t.core.q q = { nextN := (s.core.q q).nextN, base := (s.core.q q).nextN }) ∧
  t.core.host.vfEnable = false ∧ t.core.host.windows = [] ∧ t.core.host.errVec = 0 ∧ t.core.host.intake = 8 ∧
  t.tick = s.tick ∧ t.led = s.led ∧ t.dram = s.dram ∧ t.link = s.link ∧ t.mend = s.mend

theorem State.pfReset_resets : s.EndpointReset s.pfReset := by
  rw [State.pfReset_eq]
  simp only [State.EndpointReset, Core.clearEndpoint_q, Core.clearEndpoint_host, true_and]
  refine ⟨fun q hq => ?_, rfl, rfl, rfl, rfl, rfl⟩
  obtain ⟨hfunc, hnext⟩ := s.dropActs_q q
  rw [← hnext]
  exact s.dropActs.core.flrDown_resets s.tick.count (hfunc.symm ▸ hq)

theorem State.pfReset_link : s.pfReset.core.host.linkUp = s.core.host.linkUp ∧ s.pfReset.core.host.perst = s.core.host.perst ∧
    (s.core.host.linkUp = false → s.pfReset.core.host.mem = s.core.host.mem) := by
  rw [State.pfReset_eq]
  simp only [Core.clearEndpoint_host]
  exact s.dropActs.core.flrDown_link s.tick.count 17

/-! ### The four resets, and the training of the link -/

/-- The link is down, and PERST# is held or not (R395). -/
def Core.cutLink (c : Core) (perst : Bool) : Core := c.updHost fun h => { h with perst := perst, linkUp := false }

variable {s} (hon : s.core.mstate ≠ .off)
include hon

theorem exec_pfFlr : exec .pfFlr s = .next s.pfReset := by
  show execPfFlr s = _
  simp [execPfFlr, State.alive, hon]

theorem exec_hotReset : exec .hotReset s = .next s.pfReset := by
  show execHotReset s = _
  simp [execHotReset, State.alive, hon]

theorem State.linkGone_eq : s.linkGone = { s with core := s.core.cutLink s.core.host.perst }.pfReset :=
  if_pos (bne_iff_ne.2 hon)

theorem exec_pcieLinkDown : exec .pcieLinkDown s = .next { s with core := s.core.cutLink s.core.host.perst }.pfReset :=
  congrArg _ (State.linkGone_eq hon)

theorem exec_perstAssert : exec .perstAssert s = .next { s with core := s.core.cutLink true }.pfReset :=
  congrArg _ (State.linkGone_eq (s := { s with core := s.core.updHost fun h => { h with perst := true } }) hon)

omit hon in
/-- With the link cut the endpoint is reset and asks for nothing until the link is up again (R395). -/
theorem State.pfReset_cutLink (s : State) (perst : Bool) : ∃ t, { s with core := s.core.cutLink perst }.pfReset = t ∧
    s.EndpointReset t ∧ (t.core.host.linkUp = false ∧ (∀ f, t.core.mastering f = false) ∧
      t.core.host.mem = s.core.host.mem) ∧ t.core.host.perst = perst := by
  obtain ⟨hlink, hperst, hmem⟩ := { s with core := s.core.cutLink perst }.pfReset_link
  exact ⟨_, rfl, { s with core := s.core.cutLink perst }.pfReset_resets,
    ⟨hlink, Core.mastering_of_linkDown _ hlink, hmem rfl⟩, hperst⟩

/-- Each of the four resets the endpoint; two of them cut its link (R394, R395). -/
theorem exec_endpointReset {i : Instr} (hi : i ∈ [Instr.pfFlr, .hotReset, .perstAssert, .pcieLinkDown]) :
    ∃ t, exec i s = .next t ∧ s.EndpointReset t ∧
      ((i = .perstAssert ∨ i = .pcieLinkDown) → t.core.host.linkUp = false ∧ (∀ f, t.core.mastering f = false) ∧
        t.core.host.mem = s.core.host.mem) ∧
      (i = .perstAssert → t.core.host.perst = true) := by
  simp only [List.mem_cons, List.not_mem_nil, or_false] at hi
  rcases hi with rfl | rfl | rfl | rfl
  case inl => exact ⟨_, exec_pfFlr hon, s.pfReset_resets, by simp, by simp⟩
  case inr.inl => exact ⟨_, exec_hotReset hon, s.pfReset_resets, by simp, by simp⟩
  case inr.inr.inl =>
    obtain ⟨t, ht, hreset, hcut, hperst⟩ := s.pfReset_cutLink true
    exact ⟨t, (exec_perstAssert hon).trans (congrArg _ ht), hreset, fun _ => hcut, fun _ => hperst⟩
  case inr.inr.inr =>
    obtain ⟨t, ht, hreset, hcut, _⟩ := s.pfReset_cutLink s.core.host.perst
    exact ⟨t, (exec_pcieLinkDown hon).trans (congrArg _ ht), hreset, fun _ => hcut, by simp⟩

end

end Sys2Proof.Machine

open Sys2Proof Sys2Proof.Machine

/-- Settles O24: every function is reset, the PF last, so that it finds every queue; over a link that is down a reset
posts nothing. -/
theorem fundamentalResetsAndTraining : Obligations.FundamentalResetsAndTraining := by
  unfold Obligations.FundamentalResetsAndTraining
  refine ⟨fun s i hon hi => ?_, fun gen width s htrain => ⟨fun hperst hreset => ?_, fun hperst => ?_, by decide⟩⟩
  · obtain ⟨t, hexec, ⟨hq, hvf, hwindows, herr, hintake, htick, hled, hdram, hlink, hmend⟩, hcut, hperst⟩ :=
      exec_endpointReset hon hi
    exact ⟨t, hexec, hq, hvf, hwindows, herr, hintake, htick, hled, hdram, hlink, hmend, hcut, hperst⟩
  · show execPcieRetrain gen width s = _
    simp [execPcieRetrain, htrain, hperst, hreset]
  · show execPerstDeassert gen width s = _
    simp [execPerstDeassert, htrain, hperst]

end

section
/-! SUPPORT. The answers over DOE, MCTP and SPDM (R397, R398, R474). -/

namespace Sys2Proof.Machine

/-! ### The states of the connections -/

@[simp] theorem Mod.spdm_setSpdm_self (m : Mod) (b : Bus) (x : Spdm) : (m.setSpdm b x).spdm b = x := by
  cases b <;> rfl

theorem Mod.spdm_setSpdm_ne (m : Mod) {b b' : Bus} (x : Spdm) (h : b' ≠ b) : (m.setSpdm b x).spdm b' = m.spdm b' := by
  cases b <;> cases b' <;> simp_all [Mod.spdm, Mod.setSpdm]

/-- The state of a connection is apart from the mailbox and from what MCTP sends. -/
theorem Mod.setSpdm_outputs (m : Mod) (b : Bus) (x : Spdm) : (m.setSpdm b x).doeBusy = m.doeBusy ∧
    (m.setSpdm b x).doeOut = m.doeOut ∧ (m.setSpdm b x).mctpOut = m.mctpOut := by
  cases b <;> exact ⟨rfl, rfl, rfl⟩

/-! ### An answer -/

section
variable (s : State) (b : Bus)

/-- t is s with one answer given over b, which ends with the bytes `tail` where MCTP carries it, and with the connection of b
at x. -/
def State.Answered (tail : List Byte) (x : Spdm) (t : State) : Prop :=
  t = { s with mod := t.mod } ∧
  (b = .doe → t.mod.doeBusy = false ∧ t.mod.doeOut.isSome = true ∧ t.mod.mctpOut = s.mod.mctpOut) ∧
  (b ≠ .doe → ∃ head, t.mod.mctpOut = s.mod.mctpOut ++ [(b, head ++ tail)]) ∧
  (∀ b', b' ≠ b → t.mod.spdm b' = s.mod.spdm b') ∧ t.mod.spdm b = x

theorem State.answer_answered (head tail : List Byte) :
    s.Answered b tail (s.mod.spdm b) (s.answer b (head ++ tail)) := by
  cases b with
  | doe => exact ⟨rfl, fun _ => ⟨rfl, rfl, rfl⟩, fun h => absurd rfl h, fun b' _ => by cases b' <;> rfl, rfl⟩
  | vdm => exact ⟨rfl, nofun, fun _ => ⟨head, rfl⟩, fun b' _ => by cases b' <;> rfl, rfl⟩
  | smbus => exact ⟨rfl, nofun, fun _ => ⟨head, rfl⟩, fun b' _ => by cases b' <;> rfl, rfl⟩

variable {s b}

/-- After its answer the connection may move on. -/
theorem State.Answered.move {tail : List Byte} {x : Spdm} {t : State} (h : s.Answered b tail x t) (y : Spdm) :
    s.Answered b tail y { t with mod := t.mod.setSpdm b y } := by
  obtain ⟨hmod, hdoe, hmctp, hother, -⟩ := h
  obtain ⟨hbusy, hout, hsent⟩ := t.mod.setSpdm_outputs b y
  refine ⟨?_, fun hb => ?_, fun hb => ?_, fun b' hb => ?_, Mod.spdm_setSpdm_self ..⟩
  · rw [hmod]
  · simpa only [hbusy, hout, hsent] using hdoe hb
  · simpa only [hsent] using hmctp hb
  · exact (Mod.spdm_setSpdm_ne _ _ hb).trans (hother b' hb)

/-- Every answer ends with no bytes. -/
theorem State.Answered.nil {tail : List Byte} {x : Spdm} {t : State} (h : s.Answered b tail x t) : s.Answered b [] x t := by
  obtain ⟨hmod, hdoe, hmctp, hrest⟩ := h
  refine ⟨hmod, hdoe, fun hb => ?_, hrest⟩
  obtain ⟨head, hsent⟩ := hmctp hb
  exact ⟨head ++ tail, by rw [hsent, List.append_nil]⟩

/-! ### The SPDM requests -/

variable (h : s.spdmUp b = true)
include h

/-- What a request does that SEC answers (R474). -/
theorem State.spdm_answered (code : Nat) (fields : List Nat) (move : Spdm → Spdm) (more : List Byte) :
    ∃ t, s.spdm b code fields move more = .next t ∧ s.Answered b more (move (s.mod.spdm b)) t :=
  ⟨_, congrArg Host.Outcome.next (if_neg (by simp [h])), (s.answer_answered b (s.spdmHead b code fields) more).move _⟩

/-- As `spdm_answered`, where the bytes that SEC adds do not matter. -/
theorem State.spdm_answered_nil (code : Nat) (fields : List Nat) (move : Spdm → Spdm) (more : List Byte) :
    ∃ t, s.spdm b code fields move more = .next t ∧ s.Answered b [] (move (s.mod.spdm b)) t := by
  obtain ⟨t, ht, hans⟩ := State.spdm_answered h code fields move more
  exact ⟨t, ht, hans.nil⟩

/-- A session request is answered with an error, and the connection stands (R474). -/
theorem exec_spdmSessionRequest (code : Nat) :
    ∃ t, exec (.spdmSessionRequest b code) s = .next t ∧ s.Answered b [] (s.mod.spdm b) t :=
  ⟨_, congrArg Host.Outcome.next (if_pos h), by
    simpa only [List.append_nil] using s.answer_answered b (Config.spdmBytes 0x7F [0x07, code]) []⟩

end

/-- How a request moves its connection on (R474). -/
def spdmMove : Instr → Spdm → Spdm
  | .getVersion _, _ => { version := true }
  | .getCapabilities _, x => if x.version then { x with caps := true } else x
  | .negotiateAlgorithms _ asym hash, x => if x.caps && asym != 0 && hash != 0 then { x with algs := true } else x
  | _, x => x

/-- The bytes of a certificate that SEC adds to its answer (R474). -/
def State.certPart (s : State) (b : Bus) : Instr → List Byte
  | .getCertificate _ slot off len => s.ready b slot ((Config.certChain.drop off).take len)
  | _ => []

/-- Each SPDM request is answered once, the way it came (R474). -/
theorem exec_spdm {s : State} {b : Bus} {i : Instr} {slot off len index code asym hash : Nat} {nonce : List Byte}
    (h : s.spdmUp b = true)
    (hi : i ∈ [Instr.getVersion b, .getCapabilities b, .negotiateAlgorithms b asym hash, .getDigests b,
      .getCertificate b slot off len, .challenge b slot nonce, .getMeasurements b index nonce,
      .spdmSessionRequest b code]) :
    ∃ t, exec i s = .next t ∧ s.Answered b (s.certPart b i) (spdmMove i (s.mod.spdm b)) t := by
  simp only [List.mem_cons, List.not_mem_nil, or_false] at hi
  rcases hi with rfl | rfl | rfl | rfl | rfl | rfl | rfl | rfl
  · exact State.spdm_answered h 0x84 [] (fun _ => { version := true }) []
  · exact State.spdm_answered h ..
  · exact State.spdm_answered h ..
  · exact State.spdm_answered_nil h ..
  · exact State.spdm_answered h ..
  · exact State.spdm_answered_nil h ..
  · exact State.spdm_answered_nil h ..
  · exact exec_spdmSessionRequest h code

/-- Algorithms are negotiated once capabilities were read and the request offers them (R474). -/
theorem spdmMove_negotiate_algs (b : Bus) (asym hash : Nat) (x : Spdm) :
    (spdmMove (.negotiateAlgorithms b asym hash) x).algs = true ↔
      x.algs = true ∨ (x.caps = true ∧ asym ≠ 0 ∧ hash ≠ 0) := by
  simp only [spdmMove]
  split
  next hc => simp_all
  next hc => simp_all

/-- With algorithms negotiated, slot 0 gives the chain (R474). -/
theorem State.certPart_slot_zero {s : State} {b : Bus} (h : (s.mod.spdm b).algs = true) (off len : Nat) :
    s.certPart b (.getCertificate b 0 off len) = (Config.certChain.drop off).take len :=
  if_pos (by simp [h])

/-! ### The DOE mailbox and MCTP control -/

section
variable {s : State}

theorem exec_doeRequest {proto : Nat} {obj : List Byte} (h : s.doeTakes proto obj = true) :
    exec (.doeRequest proto obj) s = .next { s with mod := { s.mod with doeBusy := true, doeObj := some (proto, obj) } } :=
  congrArg _ (if_pos h)

theorem exec_doeRequest_of_busy (proto : Nat) (obj : List Byte) (h : s.mod.doeBusy = true) :
    exec (.doeRequest proto obj) s = .next s :=
  congrArg _ (if_neg (by simp [State.doeTakes, h]))

theorem exec_doeDiscovery (n : Nat) (h : s.doeHolds 0 = true) :
    exec (.doeDiscovery n) s = .next (s.doeAnswer (Config.spdmBytes 0 [n])) :=
  congrArg _ (if_pos h)

theorem exec_setEndpointId_vdm (eid : Nat) (h : s.mctpUp .vdm = true) : exec (.setEndpointId .vdm eid) s =
    .next ({ s with mod := { s.mod with eidVdm := some (eid % 256) } }.mctpSend .vdm (Config.mctpBytes 1 [eid % 256])) :=
  congrArg Host.Outcome.next (if_neg (ne_true_of_eq_false (congrArg not h)))

theorem exec_setEndpointId_smbus (eid : Nat) (h : s.mctpUp .smbus = true) : exec (.setEndpointId .smbus eid) s =
    .next ({ s with mod := { s.mod with eidSmbus := some (eid % 256) } }.mctpSend .smbus
      (Config.mctpBytes 1 [eid % 256])) :=
  congrArg Host.Outcome.next (if_neg (ne_true_of_eq_false (congrArg not h)))

theorem exec_mctpControl {b : Bus} (code : Nat) (h : s.mctpUp b = true) :
    ∃ l, exec (.mctpControl b code) s = .next (s.mctpSend b l) :=
  ⟨_, congrArg Host.Outcome.next (if_neg (ne_true_of_eq_false (congrArg not h)))⟩

end

end Sys2Proof.Machine

open Sys2Proof Sys2Proof.Machine

/-- Settles O59: an answer leaves everything but the mailbox or what MCTP sends, and a request moves its own connection
alone. -/
theorem managementRequestsAreAnswered : Obligations.ManagementRequestsAreAnswered := by
  unfold Obligations.ManagementRequestsAreAnswered
  refine ⟨fun proto obj s => ⟨exec_doeRequest, exec_doeRequest_of_busy proto obj, rfl⟩,
    fun n s hholds => ⟨_, exec_doeDiscovery n hholds, rfl, rfl, rfl⟩,
    fun b s i slot off len index code asym hash nonce hup hi => ?_,
    fun eid s => ⟨fun hup => ⟨_, exec_setEndpointId_vdm eid hup, rfl, rfl, rfl⟩,
      fun hup => ⟨_, exec_setEndpointId_smbus eid hup, rfl, rfl, rfl⟩⟩,
    fun b code s hup => ?_⟩
  · obtain ⟨t, hexec, hmod, hdoe, hmctp, hother, hself⟩ := exec_spdm hup hi
    refine ⟨t, hexec, hmod, hdoe, fun hb => ?_, hother, ?_, ?_, ?_, ?_⟩
    · obtain ⟨head, hsent⟩ := hmctp hb
      exact ⟨_, hsent⟩
    · rintro rfl
      exact hself
    · rintro rfl hversion
      rw [hself, spdmMove, if_pos hversion]
    · rintro rfl
      rw [hself]
      exact spdmMove_negotiate_algs b asym hash _
    · rintro rfl halgs hb
      simpa only [State.certPart_slot_zero halgs] using hmctp hb
  · obtain ⟨l, hexec⟩ := exec_mctpControl code hup
    exact ⟨_, l, hexec, rfl⟩

end

section
/-! SUPPORT. Firmware images: what a change of one slot leaves of the other, and what every row keeps of an image: at most one
slot in force, and the minimum SVN (R459, R463, R468). -/

namespace Sys2Proof.Machine

/-! ### Slots -/

section
variable (i : Image) (b : Bool) (v : ISlot)

@[simp] theorem Image.slot_setSlot_self : (i.setSlot b v).slot b = v := by cases b <;> rfl
@[simp] theorem Image.slot_not_setSlot : (i.setSlot b v).slot (!b) = i.slot (!b) := by cases b <;> rfl
@[simp] theorem Image.slot_setSlot_not : (i.setSlot (!b) v).slot b = i.slot b := by cases b <;> rfl
@[simp] theorem Image.setSlot_svnMin : (i.setSlot b v).svnMin = i.svnMin := by cases b <;> rfl

variable {i b}

theorem Image.find_some {st : SState} (h : i.find st = some b) : (i.slot b).state = st := by
  unfold Image.find at h
  split at h
  · next ha => cases h; simpa [Image.slot] using ha
  split at h
  · next hb => cases h; simpa [Image.slot] using hb
  · cases h

theorem Image.find_none {st : SState} : i.find st = none ↔ ∀ c, (i.slot c).state ≠ st := by
  unfold Image.find
  simp only [Bool.forall_bool, Image.slot]
  grind

/-- The one slot in a state is the one that is found in it. -/
theorem Image.find_eq {st : SState} (h : (i.slot b).state = st) (h' : (i.slot !b).state ≠ st) : i.find st = some b := by
  cases b <;> simp_all [Image.find, Image.slot]

theorem Image.inTrial_iff : i.inTrial = true ↔ ∃ c, (i.slot c).state = .trial := by
  simp [Image.inTrial, Image.slot]

end

/-! ### At most one slot in force -/

/-- At most one slot is ACTIVE or TRIAL (R463). -/
def Image.Single (i : Image) : Prop := ¬ (i.a.state.inForce = true ∧ i.b.state.inForce = true)

theorem Fw.oneInForce_iff (f : Fw) : f.oneInForce ↔ ∀ k, (f.image k).Single := .rfl

section
variable {i : Image} {b : Bool} {v : ISlot}

theorem Image.single_iff (b : Bool) : i.Single ↔ ((i.slot b).state.inForce = true → (i.slot !b).state.inForce = false) := by
  cases b <;> simp [Image.Single, Image.slot]

/-- Beside a slot that is not in force any other may be. -/
theorem Image.single_setSlot (h : (i.slot !b).state.inForce = false) : (i.setSlot b v).Single := by
  rw [Image.single_iff b]
  simp [h]

/-- A slot that leaves force, or stays out of it. -/
theorem Image.Single.setSlot (h : i.Single) (hv : v.state.inForce = true → (i.slot b).state.inForce = true) :
    (i.setSlot b v).Single := by
  rw [Image.single_iff b] at h ⊢
  simpa using fun hv' => h (hv hv')

theorem Image.Single.other (h : i.Single) (hb : (i.slot b).state.inForce = true) : (i.slot !b).state.inForce = false :=
  (Image.single_iff b).1 h hb

end

/-! ### What every row but FW_CONFIRM keeps of an image -/

/-- From `i` to `j` the minimum SVN is the same, and of two slots in force there is no more than there was. -/
structure Image.Evolves (i j : Image) : Prop where
  svnMin : j.svnMin = i.svnMin
  single : i.Single → j.Single

/-- What an image has in flash and fuses: its slots and its minimum SVN (R459, R463). -/
abbrev Image.flash (i : Image) : ISlot × ISlot × Nat := (i.a, i.b, i.svnMin)

theorem Image.flash_eq {i j : Image} : j.flash = i.flash ↔ j.a = i.a ∧ j.b = i.b ∧ j.svnMin = i.svnMin := by simp [Image.flash]

/-- The images of `g` are those of `f`, evolved. -/
structure Fw.Evolves (f g : Fw) : Prop where
  image : ∀ k, (f.image k).Evolves (g.image k)

theorem Image.Evolves.refl (i : Image) : i.Evolves i := ⟨rfl, id⟩

theorem Image.Evolves.trans {i j k : Image} (h : i.Evolves j) (h' : j.Evolves k) : i.Evolves k :=
  ⟨h'.svnMin.trans h.svnMin, h'.single ∘ h.single⟩

/-- A slot that stays out of force, or leaves it. -/
theorem Image.Evolves.setSlot (i : Image) {b : Bool} {v : ISlot}
    (hv : v.state.inForce = true → (i.slot b).state.inForce = true) : i.Evolves (i.setSlot b v) :=
  ⟨Image.setSlot_svnMin .., fun h => h.setSlot hv⟩

/-- A change of other fields than the slots and the minimum SVN. -/
theorem Image.Evolves.same {i j k : Image} (h : i.Evolves j) (hk : k.flash = j.flash) : i.Evolves k := by
  obtain ⟨ha, hb, hs⟩ := Image.flash_eq.1 hk
  exact h.trans ⟨hs, fun h => by simpa [Image.Single, ha, hb] using h⟩

theorem Fw.image_updImage (f : Fw) (k j : Nat) (g : Image → Image) :
    (f.updImage k g).image j = if j = k then g (f.image k) else f.image j := by
  have hget (t : Fw) (ht : t.images = Tab.upd {} f.images k g) : t.image j = if j = k then g (f.image k) else f.image j := by
    simp only [Fw.image, ht, Tab.get_upd]
  unfold Fw.updImage
  simp only
  split
  · exact hget _ rfl
  · unfold Fw.writeDir
    split <;> exact hget _ rfl

@[simp] theorem Fw.image_updImage_self (f : Fw) (k : Nat) (g : Image → Image) : (f.updImage k g).image k = g (f.image k) := by
  rw [Fw.image_updImage, if_pos rfl]

/-- A change of an image is one of its table and of the directory (R457). -/
theorem Fw.updImage_eq (f : Fw) (k : Nat) (g : Image → Image) :
    ∃ a b, f.updImage k g = { f with images := Tab.upd {} f.images k g, dirA := a, dirB := b } := by
  unfold Fw.updImage
  simp only
  split
  · exact ⟨_, _, rfl⟩
  · unfold Fw.writeDir
    split <;> exact ⟨_, _, rfl⟩

namespace Fw.Evolves

variable {f g u : Fw}

theorem refl (f : Fw) : f.Evolves f := ⟨fun _ => .refl _⟩

theorem trans (h : f.Evolves g) (h' : g.Evolves u) : f.Evolves u :=
  ⟨fun k => (h.image k).trans (h'.image k)⟩

/-- A change of other parts of the firmware. -/
theorem same (h : f.Evolves g) (hi : u.images = g.images) : f.Evolves u := ⟨fun k => by
  simp only [Fw.image, hi]
  exact h.image k⟩

theorem ite {p : Prop} [Decidable p] (hg : f.Evolves g) (hu : f.Evolves u) : f.Evolves (if p then g else u) := by
  split
  · exact hg
  · exact hu

theorem set {t : Fw} {k : Nat} {j : Image} (ht : t.images = Tab.set {} f.images k j) (hj : (f.image k).Evolves j) :
    f.Evolves t := ⟨fun n => by
  simp only [Fw.image, ht, Tab.get_set]
  split
  · next h => exact h ▸ hj
  · exact .refl _⟩

theorem updImage (f : Fw) {k : Nat} {u : Image → Image} (hu : (f.image k).Evolves (u (f.image k))) :
    f.Evolves (f.updImage k u) := by
  obtain ⟨a, b, h⟩ := f.updImage_eq k u
  rw [h]
  exact set rfl hu

theorem putImage (f : Fw) {k : Nat} {j : Image} (hj : (f.image k).Evolves j) : f.Evolves (f.updImage k fun _ => j) :=
  updImage f hj

theorem foldl {α : Type} (l : List α) {u : Fw → α → Fw} (hu : ∀ (f : Fw) x, f.Evolves (u f x)) (f : Fw) :
    f.Evolves (l.foldl u f) :=
  List.foldlRecOn (motive := fun g : Fw => f.Evolves g) l u (refl f) fun _ hg x _ => hg.trans (hu _ x)

/-- Images whose slots and minimum SVN stay. -/
theorem mapAll {t : Fw} {u : Nat → Image → Image} (ht : t.images = Tab.mapAll {} f.images u)
    (hu : ∀ k i, (u k i).flash = i.flash) : f.Evolves t := ⟨fun k => by
  have hflash : (t.image k).flash = (f.image k).flash := by
    simp only [Fw.image, ht]
    exact Tab.get_mapAll_of_keeps hu ..
  exact (Image.Evolves.refl _).same hflash⟩

end Fw.Evolves

end Sys2Proof.Machine
end

section
/-! SUPPORT. What hardly any row moves: the images beyond their staging, the edges of TICK_OUT, the sampled straps, THERMTRIP#
(R434, R459, R463, R479, R484). First the operations that rows share: each takes a state that has kept these to one that does. -/

namespace Sys2Proof.Machine

/-! ### The relation -/

/-- Edges of TICK_OUT, the straps that were sampled, and THERMTRIP#. -/
abbrev State.fixed (s : State) : Nat × Bool × Straps × Bool := (s.tick.outEdges, s.link.strap, s.mod.straps, s.mod.thermtrip)

/-- What is fixed, with the images. -/
abbrev State.kept (s : State) : Tab Image × Nat × Bool × Straps × Bool := (s.fw.images, s.fixed)

theorem State.fixed_eq {s t : State} : t.fixed = s.fixed ↔ t.tick.outEdges = s.tick.outEdges ∧ t.link.strap = s.link.strap ∧
    t.mod.straps = s.mod.straps ∧ t.mod.thermtrip = s.mod.thermtrip := by
  simp [State.fixed]

/-- From `s` to `t` the images have evolved, and what is fixed is as it was. -/
structure State.Evolves (s t : State) : Prop where
  fw : s.fw.Evolves t.fw
  fixed : t.fixed = s.fixed

/-- The next state of a row has a property, where the row answers one. -/
def Next (P : State → Prop) : Host.Outcome State Fault Refusal → Prop
  | .next t => P t
  | _ => True

theorem Next.of_eq {P : State → Prop} {o : Host.Outcome State Fault Refusal} {t : State} (h : Next P o) (ho : o = .next t) : P t := by
  subst ho
  exact h

theorem Next.mono {P Q : State → Prop} {o : Host.Outcome State Fault Refusal} (h : Next P o) (hPQ : ∀ t, P t → Q t) : Next Q o := by
  cases o with
  | next t => exact hPQ _ h
  | fault | refused => trivial

theorem Next.ite {P : State → Prop} {p : Prop} [Decidable p] {a b : State} (ha : P a) (hb : P b) :
    Next P (.next (if p then a else b)) := by
  unfold Next
  simp only
  split
  · exact ha
  · exact hb

/-- What a command's body answers has a property, where it answers. -/
def Yields (P : State → Prop) (x : Except Stop (State × Option Run)) : Prop := ∀ t r, x = .ok (t, r) → P t

namespace Yields

variable {P : State → Prop}

theorem error (x : Stop) : Yields P (.error x) := fun _ _ h => nomatch h

theorem ok {t : State} {r : Option Run} (h : P t) : Yields P (.ok (t, r)) := by
  rintro _ _ ⟨⟩
  exact h

theorem bind {α : Type} {x : Except Stop α} {f : α → Except Stop (State × Option Run)} (h : ∀ a, Yields P (f a)) :
    Yields P (x >>= f) := by
  cases x with
  | error e => exact error e
  | ok a => exact h a

end Yields

/-- A command does what its body does, beside the core. -/
theorem State.command_next {P : State → Prop} {s : State} {op : Nat} {c : Cmd}
    {f : State → Env → Except Stop (State × Option Run)} (hs : P s) (hcore : ∀ t k, P t → P { t with core := k })
    (hf : ∀ e, Yields P (f s e)) : Next P (State.command op c f s) := by
  unfold State.command
  split
  · exact hs
  · next e _ =>
    have hbody : Yields P (do s.core.gate e; f s e) := .bind fun _ => hf e
    split
    · exact hs
    · exact hcore s _ hs
    · exact hcore s _ hs
    · next t r h =>
      have ht := hbody t r h
      split
      · exact hcore t _ ht
      · exact .ite hs (hcore t _ ht)

/-! ### What goes out over the links -/

@[simp] theorem Link.launch_strap (l : Link) (from_ : Option Nat) (f : Flit) : (l.launch from_ f).strap = l.strap := by
  obtain ⟨ports, n, h⟩ := l.launch_eq from_ f
  rw [h]

namespace State.Evolves

variable {s t u : State}

theorem refl (s : State) : s.Evolves s := ⟨.refl _, rfl⟩

theorem trans (h : s.Evolves t) (h' : t.Evolves u) : s.Evolves u := ⟨h.fw.trans h'.fw, h'.fixed.trans h.fixed⟩

/-- A change of other parts of the machine. -/
theorem same (h : s.Evolves t) (hu : u.kept = t.kept) : s.Evolves u := by
  obtain ⟨hi, hf⟩ := Prod.ext_iff.1 hu
  exact h.trans ⟨Fw.Evolves.same (.refl _) hi, hf⟩

theorem of_eq (h : s.Evolves t) (hi : u.fw.images = t.fw.images) (hf : u.fixed = t.fixed) : s.Evolves u :=
  h.trans ⟨Fw.Evolves.same (.refl _) hi, hf⟩

theorem withCore (h : s.Evolves t) (c : Core) : s.Evolves { t with core := c } := h.same (by rfl)

theorem ite {p : Prop} [Decidable p] (ht : s.Evolves t) (hu : s.Evolves u) : s.Evolves (if p then t else u) := by
  split
  · exact ht
  · exact hu

/-- Operations that follow one another. -/
theorem foldl {α : Type} (h : s.Evolves t) (l : List α) {f : State → α → State} (hf : ∀ u x, s.Evolves u → s.Evolves (f u x)) :
    s.Evolves (l.foldl f t) :=
  List.foldlRecOn (motive := fun u : State => s.Evolves u) l f h fun u hu x _ => hf u x hu

theorem command {op : Nat} {c : Cmd} {f : State → Env → Except Stop (State × Option Run)}
    (hf : ∀ e, Yields s.Evolves (f s e)) : Next s.Evolves (State.command op c f s) :=
  State.command_next (refl s) (fun _ _ h => h.same (by rfl)) hf

/-- A flit that leaves. -/
theorem launch (h : s.Evolves t) (from_ : Option Nat) (f : Flit) (hi : u.fw.images = t.fw.images)
    (hf : u.fixed = { t with link := t.link.launch from_ f }.fixed) : s.Evolves u :=
  h.of_eq hi (hf.trans (by simp [State.fixed]))

theorem sendMgmt (h : s.Evolves t) (dest unit : Nat) (what : SentFor) : s.Evolves (t.sendMgmt dest unit what) := by
  unfold State.sendMgmt
  split
  · exact h.launch none (t.mgmtFlit dest unit) rfl rfl
  · exact h.same (by rfl)

theorem sendHeld (h : s.Evolves t) : s.Evolves t.sendHeld := by
  unfold State.sendHeld
  exact .foldl (h.same (by rfl)) _ fun u _ hu => hu.sendMgmt ..

theorem tellMembers (h : s.Evolves t) : s.Evolves t.tellMembers := by
  unfold State.tellMembers
  exact .foldl (h.same (by rfl)) _ fun u _ hu => hu.sendMgmt ..

theorem reply (h : s.Evolves t) (dest id : Nat) (r : Reply) : s.Evolves (t.reply dest id r) :=
  h.launch none (t.mgmtFlit dest 0x20) rfl rfl

theorem broadcast (h : s.Evolves t) : s.Evolves t.broadcast := h.launch none (t.mgmtFlit 0xFFFF 0x20) rfl rfl

theorem sendTick (h : s.Evolves t) (from_ : Option Nat) (k : TickPay) : s.Evolves (t.sendTick from_ k) :=
  h.launch from_ (t.tickFlitOf k) rfl rfl

theorem portDown (h : s.Evolves t) (p : Nat) : s.Evolves (t.portDown p) := by
  unfold State.portDown
  exact .ite (h.same (by rfl)) (.broadcast (h.same (by rfl)))

theorem deadLetter (h : s.Evolves t) (src id : Nat) : s.Evolves (t.deadLetter src id) := by
  unfold State.deadLetter
  exact .reply (h.same (by rfl)) ..

theorem deliver (h : s.Evolves t) (p cls : Nat) (m : Msg) : s.Evolves (t.deliver p cls m) := by
  unfold State.deliver
  split
  · exact h.same (by rfl)
  · exact h.deadLetter ..
  · exact .ite (h.deadLetter ..) (.reply (h.same (by rfl)) ..)

theorem deliverFlit (h : s.Evolves t) (p : Nat) (f : Flit) : s.Evolves (t.deliverFlit p f) := by
  unfold State.deliverFlit
  refine .ite h (.ite (.ite (h.same (by rfl)) (.ite (h.deadLetter ..) h)) ?_)
  split
  · exact h.same (by rfl)
  · exact h

theorem routeFlit (h : s.Evolves t) (p : Nat) (f : Flit) : s.Evolves (t.routeFlit p f) := by
  unfold State.routeFlit
  refine .ite h (.ite (h.same (by rfl)) (.ite h (.ite (.ite h (.deliverFlit ?_ ..))
    (.ite (h.deliverFlit p f) (h.launch (some p) f rfl rfl)))))
  exact h.launch (some p) f rfl rfl

theorem dropSent (h : s.Evolves t) (id : Nat) : s.Evolves (t.dropSent id) := by
  unfold State.dropSent
  exact .sendHeld (h.same (by rfl))

theorem askMembers (h : s.Evolves t) (k : Nat) (g : Grants) : s.Evolves (t.askMembers k g) := by
  unfold State.askMembers
  exact .foldl h _ fun _ _ hu => hu.sendMgmt ..

theorem sendSteps (h : s.Evolves t) (x : Sheaf) : s.Evolves (t.sendSteps x) := by
  unfold State.sendSteps
  exact .foldl h _ fun _ _ hu => .foldl hu _ fun _ _ hv => hv.sendMgmt ..

theorem sendSeam (h : s.Evolves t) (r : Run) (p : Nat) : s.Evolves (t.sendSeam r p) := by
  unfold State.sendSeam
  simp only
  split
  · exact h
  · exact h.launch none _ rfl rfl

/-! ### Mending -/

theorem mendBit (h : s.Evolves t) (b : Nat) : s.Evolves (t.mendBit b) := by
  unfold State.mendBit
  exact .ite h (h.same (by rfl))

theorem mendLog (h : s.Evolves t) (e : LogEntry) : s.Evolves (t.mendLog e) := by
  unfold State.mendLog
  exact .mendBit (.ite (.mendBit (h.same (by rfl)) _) (h.same (by rfl))) _

theorem logError (h : s.Evolves t) (tier unit : Nat) (w : Option ErrAt) : s.Evolves (t.logError tier unit w) := by
  unfold State.logError
  split
  · exact h.mendLog _
  · exact .ite (.mendLog (h.same (by rfl)) _) (.ite (h.same (by rfl)) (.mendLog (h.same (by rfl)) _))

theorem darnWhole (h : s.Evolves t) (x p : Nat) : s.Evolves (t.darnWhole x p) := by
  have hdrop : s.Evolves (if (t.mend.arr x p).state == 0 then { t with core := t.core.dropArray x (t.mend.arr x p).slot } else t) :=
    .ite (h.same (by rfl)) h
  unfold State.darnWhole
  refine .ite (.mendLog (hdrop.same (by rfl)) _) ?_
  split
  · exact .mendLog (hdrop.same (by rfl)) _
  · exact .mendLog (hdrop.same (by rfl)) _

theorem darn (h : s.Evolves t) (x p : Nat) : s.Evolves (t.darn x p) := by
  have hdrop : s.Evolves (if (t.mend.arr x p).state == 0 then { t with core := t.core.dropArray x (t.mend.arr x p).slot } else t) :=
    .ite (h.same (by rfl)) h
  unfold State.darn
  simp only
  split
  · exact .ite (.mendLog (hdrop.same (by rfl)) _) (h.darnWhole ..)
  · exact h.darnWhole ..

theorem darnings (h : s.Evolves t) : s.Evolves t.darnings := by
  unfold State.darnings
  exact .foldl h _ fun u _ hu => .ite hu (hu.darn ..)

theorem retirements (h : s.Evolves t) (moved : List Nat) (lost : List ErrAt) : s.Evolves (t.retirements moved lost) := by
  unfold State.retirements
  simp only
  split
  · exact .withCore (.foldl h _ fun _ _ hu => .mendLog (hu.same (by rfl)) _) _
  · exact .withCore (.foldl (.foldl h _ fun _ _ hu => .mendLog (hu.same (by rfl)) _) _ fun _ _ hu => .mendLog (hu.same (by rfl)) _) _

theorem startActs (h : s.Evolves t) : s.Evolves t.startActs := by
  unfold State.startActs
  refine .foldl h _ fun u x hu => ?_
  simp only
  split
  · split <;> exact hu.same (by rfl)
  · split
    · split <;> exact hu.same (by rfl)
    · split <;> exact hu.same (by rfl)

end State.Evolves

end Sys2Proof.Machine
end

section
/-! SUPPORT. What firmware does to its images: staging, activation and its withdrawal, the switch, trials that fail, the mailbox
(R463 to R472). -/

namespace Sys2Proof.Machine

/-! ### Images that change place -/

/-- The slot in one state, if there is one, goes to another. -/
def Image.restate (i : Image) (old new : SState) : Image :=
  match i.find old with
  | some b => i.setSlot b { (i.slot b) with state := new }
  | none => i

/-- A trial that fails: the slot in TRIAL is REJECTED, the fall-back ACTIVE (R469). -/
def Image.fallBack (i : Image) : Image := (i.restate .trial .rejected).restate .fallback .active

/-- The VALID slot `b` on trial; a slot that was in force falls back (R466). -/
def Image.onSwitch (i : Image) (b : Bool) : Image :=
  let i := i.setSlot b { (i.slot b) with state := .trial }
  if (i.slot !b).state.inForce then i.setSlot (!b) { (i.slot !b) with state := .fallback } else i

/-- The VALID slot `b` in force, with no fall-back (R472). -/
def Image.onCommit (i : Image) (b : Bool) : Image :=
  let i := i.setSlot b { (i.slot b) with state := .active }
  if (i.slot !b).state.inForce || (i.slot !b).state == .fallback then i.setSlot (!b) { (i.slot !b) with state := .valid } else i

section
variable {i : Image} {b : Bool}

theorem Image.single_of_other (h : (i.slot !b).state.inForce = false) : i.Single := by
  rw [Image.single_iff b]
  exact fun _ => h

@[simp] theorem Image.restate_svnMin (old new : SState) : (i.restate old new).svnMin = i.svnMin := by
  unfold Image.restate
  split <;> simp

theorem Image.restate_of_find {old new : SState} (h : i.find old = some b) :
    i.restate old new = i.setSlot b { (i.slot b) with state := new } := by
  simp only [Image.restate, h]

theorem Image.restate_of_none {old new : SState} (h : i.find old = none) : i.restate old new = i := by
  simp only [Image.restate, h]

/-- Only a slot that is not in force comes to another state. -/
theorem Image.Evolves.restate (i : Image) {old new : SState} (h : new.inForce = true → old.inForce = true) :
    i.Evolves (i.restate old new) := by
  unfold Image.restate
  split
  · next b hb => exact .setSlot i fun hv => by rw [Image.find_some hb]; exact h hv
  · exact .refl i

/-- The slot that was on trial is REJECTED, and its fall-back ACTIVE. -/
theorem Image.fallBack_evolves (ht : i.inTrial = true) : i.Evolves i.fallBack := by
  refine ⟨by simp [Image.fallBack], fun hi => ?_⟩
  obtain ⟨b, hb⟩ : ∃ b, i.find .trial = some b := by
    rw [← Option.ne_none_iff_exists', Ne, Image.find_none]
    exact fun h => (Image.inTrial_iff.1 ht).elim h
  have hrej : ((i.restate .trial .rejected).slot b).state = .rejected := by simp [Image.restate_of_find hb]
  have hsingle : (i.restate .trial .rejected).Single := (Image.Evolves.restate i (by simp [SState.inForce])).single hi
  cases hf : (i.restate .trial .rejected).find .fallback with
  | none => rwa [Image.fallBack, Image.restate_of_none hf]
  | some c =>
    have hc : c = !b := by
      have := Image.find_some hf
      cases b <;> cases c <;> simp_all
    rw [Image.fallBack, Image.restate_of_find hf, hc]
    exact Image.single_setSlot (by simp [hrej, SState.inForce])

theorem Image.onSwitch_evolves : i.Evolves (i.onSwitch b) := by
  unfold Image.onSwitch
  refine ⟨?_, fun _ => Image.single_of_other (b := b) ?_⟩
  · simp only
    split <;> simp
  · simp only
    split
    · simp [SState.inForce]
    · next h => simpa using h

theorem Image.onCommit_evolves : i.Evolves (i.onCommit b) := by
  unfold Image.onCommit
  refine ⟨?_, fun _ => Image.single_of_other (b := b) ?_⟩
  · simp only
    split <;> simp
  · simp only
    split
    · simp [SState.inForce]
    · next h =>
      simp only [Image.slot_not_setSlot, Bool.or_eq_true, not_or] at h ⊢
      simpa using h.1

end

/-! ### Staging -/

section
variable {f : Fw} {kind : Nat}

theorem Fw.stageBegin_evolves (inB rcv : Bool) : f.Evolves (f.stageBegin kind inB rcv).1 := by
  unfold Fw.stageBegin
  split
  · exact Fw.Evolves.same (.refl _) (by rfl)
  · simp only
    split
    · exact .refl f
    · exact .updImage f (.setSlot _ nofun)

theorem Fw.stageWrite_evolves (first : Nat) (bs : List (List Byte × Nat)) : f.Evolves (f.stageWrite kind first bs).1 := by
  unfold Fw.stageWrite
  simp only
  split
  · split
    · exact .refl f
    · exact Fw.Evolves.same (.refl f) (by rfl)
  · split
    · exact .refl f
    · refine .set rfl (.setSlot _ id)

theorem Fw.ownerVerify_evolves (t : Tab (List Byte × Nat)) : f.Evolves (f.ownerVerify t).1 := by
  unfold Fw.ownerVerify
  simp only
  repeat' split
  all_goals exact Fw.Evolves.same (.refl f) (by rfl)

theorem Fw.stageVerify_evolves (num : Nat) : f.Evolves (f.stageVerify kind num).1 := by
  unfold Fw.stageVerify
  split
  · split
    · exact .refl f
    · exact Fw.ownerVerify_evolves _
  · simp only
    split
    · exact .refl f
    · exact .ite (.updImage f (.setSlot _ nofun)) (.refl f)

theorem Fw.stageAbort_evolves : f.Evolves (f.stageAbort kind).1 := by
  unfold Fw.stageAbort
  split
  · split
    · exact Fw.Evolves.same (.refl f) (by rfl)
    · exact .refl f
  · split
    · exact .refl f
    · exact .updImage f (.setSlot _ nofun)

theorem Fw.stageCommit_evolves : f.Evolves (f.stageCommit kind).1 := by
  unfold Fw.stageCommit
  simp only
  split
  · exact .refl f
  · next b _ =>
    refine .updImage f ?_
    exact (Image.onCommit_evolves (b := b)).same (by rfl)

theorem Fw.rcvWrite_evolves (first : Nat) (bs : List (List Byte × Nat)) : f.Evolves (f.rcvWrite kind first bs).1 := by
  unfold Fw.rcvWrite
  split
  · exact .refl f
  · exact Fw.stageWrite_evolves first bs

/-! ### Activations -/

theorem Fw.schedule_evolves (a : Activate) : f.Evolves (f.schedule a) := by
  unfold Fw.schedule
  refine Fw.Evolves.same (.foldl (maskKinds a.mask) (fun f k => .updImage f ?_) f) (by rfl)
  exact (Image.Evolves.refl _).same (by rfl)

theorem Fw.withdraw_evolves (a : Activate) : f.Evolves (f.withdraw a) := by
  unfold Fw.withdraw
  refine Fw.Evolves.same (.foldl (maskKinds a.mask) (fun f k => .updImage f ?_) f) (by rfl)
  exact (Image.Evolves.refl _).same (by rfl)

end

@[simp] theorem Fw.writeDir_images (f : Fw) : f.writeDir.images = f.images := by
  unfold Fw.writeDir
  split <;> rfl

/-- Images whose activation is cancelled (R465). -/
theorem Fw.unscheduled_evolves (f : Fw) (ks : List Nat) :
    f.Evolves { f with images := ks.foldl (fun t k => Tab.upd {} t k fun i => { i with sched := none }) f.images } := by
  refine List.foldlRecOn (motive := fun t : Tab Image => f.Evolves { f with images := t }) ks _ (.refl f) fun t ht k _ => ?_
  exact ht.trans (.set rfl ((Image.Evolves.refl _).same (by rfl)))

/-! ### The switch, and the tick that a trial ends -/

/-- An image on trial for a window (R466). -/
def Image.trialled (i : Image) (window : Nat) (b : Bool) : Image :=
  { i.onSwitch b with sched := none, left := window, window := window, counted := 0, healthy := 0, failed := false }

theorem Image.trialled_evolves {i : Image} {window : Nat} {b : Bool} : i.Evolves (i.trialled window b) := by
  unfold Image.trialled
  exact Image.onSwitch_evolves.same (by rfl)

/-- Firmware with one image on trial, its measurement fixed anew. -/
def Fw.switched (f : Fw) (k window : Nat) (b : Bool) : Fw := (f.updImage k fun _ => (f.image k).trialled window b).measureKind k

theorem Fw.Evolves.measureKind {f g : Fw} (h : f.Evolves g) {k : Nat} : f.Evolves (g.measureKind k) := h.same (by rfl)

theorem Fw.Evolves.withUpAt {f g : Fw} (h : f.Evolves g) (l : List Nat) : f.Evolves { g with upAt := l } := h.same (by rfl)

theorem State.switchKind_none {s : State} {k : Nat} (h : (s.fw.image k).find .valid = none) (window : Nat) :
    s.switchKind k window = s := by
  simp only [State.switchKind, h]

theorem State.switchKind_valid {s : State} {k : Nat} {b : Bool} (h : (s.fw.image k).find .valid = some b) (window : Nat) :
    s.switchKind k window =
      if k == 6 then { s with fw := s.fw.updImage k fun i => { i with nextStart := true } }
      else if k == 5 then { s with fw := s.fw.switched k window b }.tablesOf
      else if k == 4 then { s with fw := { s.fw.switched k window b with upAt := s.link.upPorts } }
      else { s with fw := s.fw.switched k window b } := by
  simp only [State.switchKind, h, Fw.switched, Image.trialled, Image.onSwitch]

/-- A tick ends for the trial of one image, if it is in one (R468, R469). -/
def State.trialTick (s : State) (summary : Bool) (k : Nat) : State :=
  let i := s.fw.image k
  if !i.inTrial then s
  else if i.failed || i.left == 0 then s.failTrial k
  else if s.core.mstate == .quiet then s
  else { s with fw := { s.fw with images := Tab.set {} s.fw.images k { i with
    left := i.left - 1, counted := i.counted + 1
    healthy := if s.criterion k summary then min 60 (i.healthy + 1) else 0 } } }

/-- The trials go through the kinds in their order. -/
theorem State.countTrials_eq (s : State) (summary : Bool) : s.countTrials summary =
    (fun u : State => { u with fw := { u.fw with trapped := [], reload := [], lostAt := u.link.lost, ueAt := u.dram.errors } })
      ([1, 2, 3, 4, 5, 6].foldl (fun s k => s.trialTick summary k) s) := by
  simp only [State.countTrials, State.trialTick]

namespace State.Evolves

variable {s t u : State}

/-- Firmware that has evolved. -/
theorem withFw (h : s.Evolves t) {f : Fw} (hf : t.fw.Evolves f) : s.Evolves { t with fw := f } := h.trans ⟨hf, rfl⟩

theorem activateAccept (h : s.Evolves t) (m mask : Nat) : s.Evolves (t.activateAccept m mask) := by
  unfold State.activateAccept
  split
  · exact h
  · exact h.same (by rfl)

theorem activateFail (h : s.Evolves t) (o : Option Activate) (id : Nat) : s.Evolves (t.activateFail o id) := by
  unfold State.activateFail
  split
  · exact h
  · next a =>
    have hw : s.Evolves { t.broadcast with fw := t.broadcast.fw.withdraw a } := h.broadcast.withFw (Fw.withdraw_evolves a)
    simp only
    split
    · exact hw.same (by rfl)
    · exact hw.same (by rfl)

theorem fwBit (h : s.Evolves t) (b : Nat) : s.Evolves (t.fwBit b) := by
  unfold State.fwBit
  exact .ite h (h.same (by rfl))

theorem switchKind (h : s.Evolves t) (k window : Nat) : s.Evolves (t.switchKind k window) := by
  cases hfind : (t.fw.image k).find .valid with
  | none => rwa [State.switchKind_none hfind]
  | some b =>
    have htrial : t.fw.Evolves (t.fw.switched k window b) := (Fw.Evolves.putImage t.fw Image.trialled_evolves).measureKind
    have hsw : s.Evolves { t with fw := t.fw.switched k window b } := h.withFw htrial
    rw [State.switchKind_valid hfind]
    exact .ite (h.withFw (.updImage _ ((Image.Evolves.refl _).same (by rfl)))) (.ite (hsw.same (by rfl)) (.ite (h.withFw (htrial.withUpAt _)) hsw))

theorem switches (h : s.Evolves t) (tick : Nat) : s.Evolves (t.switches tick) := by
  unfold State.switches
  refine .foldl (h.same (by rfl)) _ fun u a hu => ?_
  have hkinds : s.Evolves ((maskKinds a.mask).foldl (fun s k => s.switchKind k a.window) u) :=
    hu.foldl _ fun _ _ hv => hv.switchKind ..
  simp only
  split
  · exact hkinds.same (by rfl)
  · exact hkinds.same (by rfl)

theorem failTrial (h : s.Evolves t) {k : Nat} (ht : (t.fw.image k).inTrial = true) : s.Evolves (t.failTrial k) := by
  have himg : (t.fw.image k).Evolves { (t.fw.image k).fallBack with left := 0, failed := false } :=
    ((Image.fallBack_evolves ht).same (by rfl))
  have hback : s.Evolves { t with fw := (t.fw.updImage k fun _ =>
      { (t.fw.image k).fallBack with left := 0, failed := false }).measureKind k } :=
    h.withFw (Fw.Evolves.putImage t.fw himg).measureKind
  unfold State.failTrial
  split
  · exact h.same (by rfl)
  · split
    · exact h.same (by rfl)
    · refine .fwBit ?_ 0
      split
      · exact hback.same (by rfl)
      · exact hback

theorem trialTick (h : s.Evolves t) (summary : Bool) (k : Nat) : s.Evolves (t.trialTick summary k) := by
  unfold State.trialTick
  simp only
  split
  · exact h
  · next ht =>
    have ht : (t.fw.image k).inTrial = true := by simpa using ht
    split
    · exact h.failTrial ht
    · split
      · exact h
      · exact h.withFw (.set rfl ((Image.Evolves.refl _).same (by rfl)))

theorem countTrials (h : s.Evolves t) (summary : Bool) : s.Evolves (t.countTrials summary) := by
  have hkinds : s.Evolves ([1, 2, 3, 4, 5, 6].foldl (fun s k => s.trialTick summary k) t) :=
    h.foldl _ fun u k hu => hu.trialTick summary k
  rw [State.countTrials_eq]
  generalize List.foldl _ t _ = u at hkinds ⊢
  exact hkinds.same (by rfl)

theorem cancelKind (h : s.Evolves t) (kind : Nat) : s.Evolves (t.cancelKind kind) := by
  unfold State.cancelKind
  split
  · exact h
  · next a _ =>
    exact h.trans ⟨.trans (t.fw.unscheduled_evolves _) (Fw.Evolves.same (.refl _) (Fw.writeDir_images _)), rfl⟩

theorem rcvRun (h : s.Evolves t) (op : Nat) (v : Word) {f : Fw → Fw × Status × Nat} (hf : ∀ g : Fw, g.Evolves (f g).1) :
    s.Evolves (t.rcvRun op v f) := by
  unfold State.rcvRun
  refine .ite h (h.withFw ?_)
  split
  · exact Fw.Evolves.same (hf _) (by rfl)
  · exact Fw.Evolves.same (.refl _) (by rfl)

end State.Evolves

end Sys2Proof.Machine
end

section
/-! SUPPORT. What firmware commands, administration, the host interface, DRAM, the build and the boundary leave of the same parts. -/

namespace Sys2Proof.Machine

/-- The passes of a build plan; of the tick they set no more. -/
theorem State.passes_plan (s : State) (b : Build) (insts runs : Nat) : ∃ c p m x, s.passes b insts runs =
    { s with core := c, tick := { s.tick with plan := p, made := m }, led := { s.led with nextShort := x } } :=
  ⟨_, _, _, _, rfl⟩

namespace State.Evolves

variable {s t u : State}

/-! ### Bodies of commands -/

theorem partCreate (s : State) (e : Env) : Yields s.Evolves (partCreate s e) := by
  unfold Sys2Proof.Machine.partCreate
  repeat' refine .bind fun _ => ?_
  split
  · exact .error _
  · split
    · exact .ok ((refl s).same (by rfl))
    · exact .ok (.askMembers ((refl s).same (by rfl)) ..)

theorem partLimits (s : State) (e : Env) : Yields s.Evolves (partLimits s e) := by
  unfold Sys2Proof.Machine.partLimits
  repeat' refine .bind fun _ => ?_
  split
  · exact .error _
  · exact .ok (.askMembers ((refl s).same (by rfl)) ..)

theorem partDestroyAll (s : State) (e : Env) : Yields s.Evolves (partDestroyAll s e) :=
  .bind fun _ => .ok (.tellMembers ((refl s).same (by rfl)))

theorem mendStart (s : State) (e : Env) : Yields s.Evolves (mendStart s e) := by
  unfold Sys2Proof.Machine.mendStart
  split
  · exact .error _
  · repeat' refine .bind fun _ => ?_
    split <;> exact .ok ((refl s).same (by rfl))

theorem mendStatus (s : State) (e : Env) : Yields s.Evolves (mendStatus s e) := .bind fun _ => .ok ((refl s).same (by rfl))

theorem fwStage (s : State) (e : Env) : Yields s.Evolves (fwStage s e) := by
  refine .bind fun _ => ?_
  simp only
  split
  · exact .ok ((refl s).withFw (Fw.stageBegin_evolves ..))
  · exact .bind fun _ => .bind fun _ => .ok ((refl s).withFw (Fw.stageWrite_evolves ..))
  · exact .ok ((refl s).withFw (Fw.stageVerify_evolves _))
  · exact .ok ((refl s).withFw Fw.stageAbort_evolves)

theorem fwActivate (s : State) (e : Env) : Yields s.Evolves (fwActivate s e) := by
  unfold Sys2Proof.Machine.fwActivate
  split
  · exact .error _
  · split
    · exact .error _
    · refine .ok (.foldl (withFw (refl s) ?_) _ fun _ _ hu => hu.sendMgmt ..)
      exact Fw.Evolves.same (Fw.schedule_evolves _) (by rfl)

theorem attest (s : State) (e : Env) : Yields s.Evolves (attest s e) := by
  unfold Sys2Proof.Machine.attest
  simp only
  split
  · exact .bind fun _ => .bind fun _ => .ok ((refl s).same (by rfl))
  · exact .bind fun _ => .bind fun _ => .ok ((refl s).same (by rfl))

theorem thaw (s : State) (e : Env) : Yields s.Evolves (thaw s e) := by
  unfold Sys2Proof.Machine.thaw
  simp only
  split
  · exact .bind fun _ => .bind fun _ => .ok ((refl s).same (by rfl))
  · exact .bind fun _ => .bind fun _ => .ok ((refl s).same (by rfl))

theorem ledgerSet (s : State) (e : Env) : Yields s.Evolves (ledgerSet s e) := .bind fun _ => .ok ((refl s).same (by rfl))

theorem tickSet (s : State) (e : Env) : Yields s.Evolves (tickSet s e) :=
  .bind fun _ => .bind fun _ => .bind fun _ => .ok ((refl s).same (by rfl))

theorem chainForm (s : State) (e : Env) : Yields s.Evolves (chainForm s e) := by
  unfold Sys2Proof.Machine.chainForm
  simp only
  split
  · refine .bind fun _ => ?_
    split <;> exact .bind fun _ => .bind fun _ => .bind fun _ => .ok ((refl s).same (by rfl))
  · exact .bind fun _ => .bind fun _ => .bind fun _ => .ok ((refl s).same (by rfl))

theorem quiet (s : State) (e : Env) : Yields s.Evolves (quiet s e) := by
  unfold Sys2Proof.Machine.quiet
  split
  · refine .bind fun _ => ?_
    simp only
    split <;> exact .ok ((refl s).same (by rfl))
  · exact .bind fun _ => .bind fun _ => .ok ((refl s).same (by rfl))

theorem quietDone (h : s.Evolves t) : s.Evolves t.quietDone := by
  unfold State.quietDone
  split
  · exact h
  · split <;> exact h.same (by rfl)

/-! ### Queues, resets of functions, register writes -/

theorem qctl (h : s.Evolves t) (q v : Nat) : s.Evolves (t.qctl q v) := by
  unfold State.qctl
  simp only
  split <;> exact h.same (by rfl)

theorem pfReset (h : s.Evolves t) : s.Evolves t.pfReset := by
  unfold State.pfReset State.dropActs
  exact h.same (by rfl)

theorem linkGone (h : s.Evolves t) : s.Evolves t.linkGone := by
  unfold State.linkGone
  simp only
  split
  · exact .pfReset (h.same (by rfl))
  · exact h.same (by rfl)

theorem writeQueue (h : s.Evolves t) (fn slot r v : Nat) : s.Evolves (t.writeQueue fn slot r v) := by
  unfold State.writeQueue
  split
  · split <;> exact h.same (by rfl)
  · split
    · exact h
    · split
      · exact h.qctl ..
      · exact h.same (by rfl)

theorem writeDoorbell (h : s.Evolves t) (fn slot r v : Nat) : s.Evolves (t.writeDoorbell fn slot r v) := by
  unfold State.writeDoorbell
  simp only [execDoorbellSq, execDoorbellCq, execDoorbellRr, onCoreT_eq]
  repeat' split
  all_goals exact h.same (by rfl)

theorem writePf (h : s.Evolves t) (off v : Nat) : s.Evolves (t.writePf off v) := by
  unfold State.writePf
  simp only
  repeat' refine .ite ?_ ?_
  all_goals exact h.same (by rfl)

theorem recoveryBegin (h : s.Evolves t) (v : Word) : Next s.Evolves (execRecoveryBegin v t) :=
  (h.rcvRun _ _ fun _ => Fw.stageBegin_evolves ..).withCore _

theorem recoveryWrite (h : s.Evolves t) (v : Word) : Next s.Evolves (execRecoveryWrite v t) :=
  h.rcvRun _ _ fun _ => Fw.rcvWrite_evolves ..

theorem recoveryVerify (h : s.Evolves t) (v : Word) : Next s.Evolves (execRecoveryVerify v t) :=
  (h.rcvRun _ _ fun _ => Fw.stageVerify_evolves _).withCore _

theorem recoveryCommit (h : s.Evolves t) (v : Word) : Next s.Evolves (execRecoveryCommit v t) :=
  h.rcvRun _ _ fun _ => Fw.stageCommit_evolves

theorem writeMailbox (h : s.Evolves t) (off v : Nat) : s.Evolves (t.writeMailbox off v) := by
  unfold State.writeMailbox
  refine .ite (.ite ?_ (.ite ?_ (.ite ?_ ?_))) (.ite (h.same (by rfl)) (.ite (h.same (by rfl)) h))
  · exact h.recoveryBegin _
  · exact h.recoveryWrite _
  · exact h.recoveryVerify _
  · exact h.recoveryCommit _

theorem writeMsix (h : s.Evolves t) (fn off v : Nat) : s.Evolves (t.writeMsix fn off v) := by
  unfold State.writeMsix
  simp only
  repeat' refine .ite ?_ ?_
  all_goals exact h.same (by rfl)

theorem writeConfig (h : s.Evolves t) (fn off v : Nat) : s.Evolves (t.writeConfig fn off v) := by
  unfold State.writeConfig
  simp only
  repeat' refine .ite ?_ ?_
  all_goals exact h.same (by rfl)

theorem write32 (h : s.Evolves t) (fn bar off v : Nat) : s.Evolves (t.write32 fn bar off v) := by
  unfold State.write32
  refine .ite (.ite (h.writeConfig ..) h) (.ite h (.ite (h.writeMsix ..) (.ite h (.ite (.ite (h.writeMailbox ..) h) (.ite h
    (.ite (.ite ?_ (.ite ?_ ?_)) (.ite ?_ (.ite ?_ h))))))))
  · exact h.writeQueue ..
  · exact h.writeDoorbell ..
  · exact h.writePf ..
  · exact h.writeQueue ..
  · exact h.writeDoorbell ..

/-! ### Commands that fail at a step -/

theorem moveFails (h : s.Evolves t) (run n : Nat) : s.Evolves (t.moveFails run n) := by
  unfold State.moveFails
  simp only
  split
  · exact h.same (by rfl)
  · split
    · exact h.same (by rfl)
    · exact .mendLog (h.same (by rfl)) _

theorem failAt (h : s.Evolves t) (run : Nat) (st : Status) (which : Run → Bool) : s.Evolves (t.failAt run st which) := by
  unfold State.failAt
  simp only
  split
  · exact h
  · split
    · exact h.same (by rfl)
    · exact .moveFails (h.same (by rfl)) ..
    · exact h.same (by rfl)
    · exact h.same (by rfl)
    · split <;> exact h.same (by rfl)

theorem lostAt (h : s.Evolves t) (r : Run) (dram : Bool) (w : Option ErrAt) : s.Evolves (t.lostAt r dram w) := by
  unfold State.lostAt
  simp only
  split
  · exact h.same (by rfl)
  · exact h.same (by rfl)
  · split
    · exact h.failAt ..
    · split
      · exact h.failAt ..
      · exact .ite ((h.failAt ..).same (by rfl)) (h.failAt ..)

/-! ### Management -/

theorem answer (h : s.Evolves t) (b : Bus) (l : List Byte) : s.Evolves (t.answer b l) := by
  cases b <;> exact h.same (by rfl)

/-! ### The build, the seal and the steps -/

theorem passes (h : s.Evolves t) (b : Build) (insts runs : Nat) : s.Evolves (t.passes b insts runs) := by
  obtain ⟨c, p, m, x, hx⟩ := t.passes_plan b insts runs
  rw [hx]
  exact h.same (by rfl)

theorem sealSheaf (h : s.Evolves t) (done : Nat) : s.Evolves (t.sealSheaf done) := by
  unfold State.sealSheaf
  simp only
  split
  · exact h.same (by rfl)
  · exact h.same (by rfl)

theorem begin (h : s.Evolves t) (r : Run) (e : Engine) (n : Nat) (p : PStep) (slot : Option PSlot) :
    s.Evolves (t.begin r e n p slot) := by
  unfold State.begin
  simp only
  split
  · exact h.same (by rfl)
  · exact h.same (by rfl)

theorem launchStep (h : s.Evolves t) (r : Run) (e : Engine) (n : Nat) (p : PStep) (slot : Option PSlot) :
    s.Evolves (t.launchStep r e n p slot) := by
  have hgo (c : Core) : s.Evolves ({ t with core := c }.begin r e n p slot) := (h.withCore c).begin ..
  unfold State.launchStep
  simp only
  split
  · split
    · exact (hgo _).sendSeam ..
    · exact hgo _
  · split
    · exact (hgo _).sendSeam ..
    · exact hgo _
  · exact h
  · exact h.withCore _

theorem shareStart (h : s.Evolves t) (r : Run) : s.Evolves (t.shareStart r) := by
  unfold State.shareStart
  split
  · split <;> exact h.same (by rfl)
  · exact h

theorem overrun (h : s.Evolves t) (r : Run) (a : Active) (n : Nat) : s.Evolves (t.overrun r a n) := by
  unfold State.overrun
  split
  · split <;> exact h.same (by rfl)
  · exact h

theorem meter (h : s.Evolves t) (r : Run) (a : Active) (n grains : Nat) : s.Evolves (t.meter r a n grains) := by
  unfold State.meter
  exact .overrun (h.same (by rfl)) ..

theorem stepEnds (h : s.Evolves t) (r : Run) (a : Active) (n : Nat) (how : StepHow) : s.Evolves (t.stepEnds r a n how) := by
  have hlost (tier : Tier) (unit : Nat) (w : Option ErrAt) :
      s.Evolves ((State.logError { t with mend := t.mend.lostWords tier 1 } (tierNo tier) unit w).lostAt r (tier == Tier.dram) w) :=
    .lostAt (.logError (h.same (by rfl)) ..) ..
  unfold State.stepEnds
  simp only
  split
  · exact h.withCore _
  · exact h.withCore _
  · split
    · exact h.withCore _
    · exact h
  · split
    · exact hlost ..
    · exact hlost ..
    · exact (hlost ..).withCore _
  · exact .failAt (h.same (by rfl)) ..
  · exact (h.failAt ..).withCore _
  · exact h.withCore _

end State.Evolves

end Sys2Proof.Machine
end

section
/-! SUPPORT. The boundary: its parts evolve the images and leave straps and THERMTRIP# alone, and the tick that begins has one more
edge of TICK_OUT (R40, R434). -/

namespace Sys2Proof.Machine

@[simp] theorem Tick.changeAt_outEdges (t : Tick) (next : Nat) : (t.changeAt next).outEdges = t.outEdges := by
  unfold Tick.changeAt
  split
  · rfl
  · split
    · rfl
    · simp only
      split <;> rfl

/-- Operations on the link that follow one another, none of which touches its strap. -/
theorem Link.foldl_strap {α : Type} (xs : List α) {f : Link → α → Link} (h : ∀ m x, (f m x).strap = m.strap) (l : Link) :
    (xs.foldl f l).strap = l.strap :=
  List.foldlRecOn (motive := fun m : Link => m.strap = l.strap) xs f rfl fun m hm x _ => (h m x).trans hm

@[simp] theorem Link.revoke_strap (l : Link) (next : Nat) (ws : List Nat) : (l.revoke next ws).strap = l.strap := by
  unfold Link.revoke
  refine Link.foldl_strap ws ?_ l
  exact fun _ _ => rfl

@[simp] theorem Link.applyNotices_strap (l : Link) : l.applyNotices.strap = l.strap := rfl

@[simp] theorem State.tillerEpochs_strap (s : State) (old : Nat → List (Nat × Nat × Nat)) :
    (s.tillerEpochs old).link.strap = s.link.strap := by
  unfold State.tillerEpochs
  refine Link.foldl_strap _ ?_ _
  exact fun _ _ => rfl

namespace State.Evolves

variable {s t : State}

/-! ### The tick that ends -/

theorem healthRec (h : s.Evolves t) (moves : List Nat) (k : Nat) (p : Part) : s.Evolves (t.healthRec moves k p) := by
  unfold State.healthRec
  exact .ite h (h.same (by rfl))

theorem healthRecs (h : s.Evolves t) (moves : List Nat) (gone : Nat → Bool) : s.Evolves (t.healthRecs moves gone) := by
  unfold State.healthRecs
  exact .foldl h _ fun _ _ hu => hu.healthRec ..

theorem streamRec (h : s.Evolves t) (next k : Nat) (x : Ctx) : s.Evolves (t.streamRec next k x) := by
  unfold State.streamRec
  exact .ite (h.same (by rfl)) h

theorem streamRecs (h : s.Evolves t) (next : Nat) : s.Evolves (t.streamRecs next) := by
  unfold State.streamRecs
  exact .withCore (.foldl h _ fun _ _ hu => hu.streamRec ..) _

theorem boundaryRecs (h : s.Evolves t) (next floor : Nat) (m : Boundary) (moves : List Nat) (gone : Nat → Bool) :
    s.Evolves (t.boundaryRecs next floor m moves gone).1 := by
  unfold State.boundaryRecs
  exact .streamRecs (.withCore (.healthRecs (h.withCore _) ..) _) _

theorem closeLedger (h : s.Evolves t) (next floor : Nat) (m : Boundary) : s.Evolves (t.closeLedger next floor m) := by
  unfold State.closeLedger
  exact h.same (by rfl)

theorem decideMoves (h : s.Evolves t) (next : Nat) (m : Boundary) : s.Evolves (t.decideMoves next m).1 := by
  unfold State.decideMoves
  exact h.withCore _

theorem tickEnds (h : s.Evolves t) (next : Nat) (m : Boundary) : s.Evolves (t.tickEnds next m).1 := by
  unfold State.tickEnds
  refine .countTrials (.closeLedger (.boundaryRecs (.decideMoves (.foldl ?_ _ fun u x hu => .logError (hu.same (by rfl)) ..) ..) ..) ..) _
  exact h.same (by rfl)

/-! ### What changes at the boundary -/

theorem withCoreMend (h : s.Evolves t) (c : Core) (m : Mend) : s.Evolves { t with core := c, mend := m } := h.same (by rfl)

theorem chooseMaster (h : s.Evolves t) (lost : Option Nat) : s.Evolves (t.chooseMaster lost) := by
  unfold State.chooseMaster
  exact h.same (by rfl)

theorem formAt (h : s.Evolves t) (next : Nat) : s.Evolves (t.formAt next) := by
  unfold State.formAt
  split
  · exact h
  · refine .ite h ?_
    simp only
    split
    · exact .chooseMaster (h.same (by rfl)) _
    · exact h.same (by rfl)

theorem remaster (h : s.Evolves t) : s.Evolves t.remaster := by
  unfold State.remaster
  exact .ite h ((h.chooseMaster none).same (by rfl))

theorem adopt (h : s.Evolves t) (next : Nat) : s.Evolves (t.adopt next).1 := by
  unfold State.adopt
  split
  · exact h
  · split
    · exact h
    · exact h.same (by rfl)

theorem holdOver (h : s.Evolves t) : s.Evolves t.holdOver := by
  unfold State.holdOver
  exact .ite h (.ite (h.same (by rfl)) (h.same (by rfl)))

theorem agePorts (h : s.Evolves t) : s.Evolves t.agePorts := by
  unfold State.agePorts
  exact .foldl h _ fun u p hu => .ite hu (.ite (.broadcast (hu.same (by rfl))) (hu.same (by rfl)))

theorem tillerEpochs (h : s.Evolves t) (old : Nat → List (Nat × Nat × Nat)) : s.Evolves (t.tillerEpochs old) :=
  h.of_eq rfl (by simp only [State.fixed, State.tillerEpochs_strap]; rfl)

theorem boundaryActs (h : s.Evolves t) (next : Nat) (m : Boundary) (streams : List (Nat × Nat))
    (old : Nat → List (Nat × Nat × Nat)) : s.Evolves (t.boundaryActs next m streams old) := by
  have hchanged (u : State) (hu : s.Evolves u) : s.Evolves { u with
      tick := { (u.tick.changeAt next) with noPlan := m.planLost }, led := u.led.changeAt next
      link := u.link.applyNotices.revoke next m.revoke, mend := (u.mend.lostWords .internal m.planLost.length).learn } :=
    hu.of_eq rfl (by simp [State.fixed])
  have hmaster (u : State) (hu : s.Evolves u) : s.Evolves (if u.link.masterDue then u.chooseMaster (some u.link.master) else u) :=
    .ite (hu.chooseMaster _) hu
  unfold State.boundaryActs
  refine .tellMembers (.quietDone (.agePorts (.tillerEpochs (.withCoreMend (.startActs (.retirements (.darnings (.withCore ?_ _)) ..)) ..) _)))
  exact hmaster _ (hchanged _ (.formAt (h.switches next) next))

end State.Evolves

/-! ### The tick that begins -/

/-- A boundary that comes: the images evolve, TICK_OUT has one more edge, and straps and THERMTRIP# are as they were. -/
structure State.Turns (s t : State) : Prop where
  fw : s.fw.Evolves t.fw
  fixed : t.fixed = (s.tick.outEdges + 1, s.link.strap, s.mod.straps, s.mod.thermtrip)

theorem State.Turns.fixed_eq {s t : State} (h : s.Turns t) : t.tick.outEdges = s.tick.outEdges + 1 ∧
    t.link.strap = s.link.strap ∧ t.mod.straps = s.mod.straps ∧ t.mod.thermtrip = s.mod.thermtrip := by
  simpa [State.fixed] using h.fixed

theorem State.Evolves.turns {s t u : State} (h : s.Evolves t) (h' : t.Turns u) : s.Turns u where
  fw := h.fw.trans h'.fw
  fixed := by
    obtain ⟨hedges, hstrap, hstraps, htrip⟩ := State.fixed_eq.1 h.fixed
    rw [h'.fixed, hedges, hstrap, hstraps, htrip]

theorem State.Turns.evolves {s t u : State} (h : s.Turns t) (h' : t.Evolves u) : s.Turns u :=
  ⟨h.fw.trans h'.fw, h'.fixed.trans h.fixed⟩

theorem State.tickBegins_turns (s : State) (next len : Nat) : s.Turns (s.tickBegins next len) := by
  unfold State.tickBegins
  simp only
  split
  · refine .evolves ?_ (.sendTick (.refl _) ..)
    exact ⟨Fw.Evolves.refl _, rfl⟩
  · exact ⟨Fw.Evolves.refl _, rfl⟩

/-- A boundary that does not come changes nothing. -/
theorem execTickBoundary_idle {m : Boundary} {s : State} (h : (!mlive s.core.mstate || (s.tick.waits && !s.tick.due)) = true) :
    execTickBoundary m s = .next s := by
  simp only [execTickBoundary, h, if_true]

/-- A boundary that comes closes the tick, carries out what is due, and begins the next tick (R40, R434). -/
theorem execTickBoundary_turns {m : Boundary} {s : State} (h : (!mlive s.core.mstate || (s.tick.waits && !s.tick.due)) = false) :
    Next s.Turns (execTickBoundary m s) := by
  have hsealed : s.Evolves (if s.tick.sealed then s else s.sealSheaf 0) := .ite (.refl s) (.sealSheaf (.refl s) 0)
  simp only [execTickBoundary, h, Next, Bool.false_eq_true, if_false]
  generalize (if s.tick.sealed = true then s else s.sealSheaf 0) = u at hsealed ⊢
  have hends : s.Evolves ((u.holdOver.remaster.adopt (u.holdOver.remaster.tick.count + 1)).1.tickEnds
      (u.holdOver.remaster.adopt (u.holdOver.remaster.tick.count + 1)).2 m).1 := .tickEnds (.adopt hsealed.holdOver.remaster _) ..
  exact (hends.boundaryActs ..).turns (State.tickBegins_turns ..)

end Sys2Proof.Machine
end

section
/-! SUPPORT. The rows, one by one: but for FW_CONFIRM, the boundary, the end of BOOT, resets and THERMTRIP# each evolves the images and
leaves the edges of TICK_OUT, the straps and THERMTRIP# alone. -/

namespace Sys2Proof.Machine

namespace State.Evolves

variable {s t : State}

theorem withMend (h : s.Evolves t) (m : Mend) : s.Evolves { t with mend := m } := h.same (by rfl)

theorem withMctpOut (h : s.Evolves t) (l : List (Bus × List Byte)) : s.Evolves { t with mod := { t.mod with mctpOut := l } } := h.same (by rfl)

theorem updPort (h : s.Evolves t) (p : Nat) (f : Port → Port) : s.Evolves (t.updPort p f) := h.same (by rfl)

theorem updLink (h : s.Evolves t) (f : Link → Link) (hf : (f t.link).strap = t.link.strap) : s.Evolves (t.updLink f) :=
  h.of_eq rfl (by simp only [State.fixed, State.updLink, hf])

theorem grantWindow (h : s.Evolves t) (src unit : Nat) (seam bulk : Bool) : s.Evolves (t.grantWindow src unit seam bulk) := h.same (by rfl)

end State.Evolves

section
variable (s : State)

/-! ### Mending -/

theorem execArraySelfTest_evolves (rows : List Nat) (on : List Metered) : Next s.Evolves (execArraySelfTest rows s on) := by
  unfold execArraySelfTest Next
  simp only
  split
  · exact .refl s
  · refine .foldl (.withMend ?_ _) _ fun _ _ hu => hu.mendLog _
    exact .ite ((State.Evolves.refl s).same (by rfl)) ((State.Evolves.refl s).same (by rfl))

theorem execSramPatrolScrub_evolves (st : Store) (corrected bad : Nat) (w : Option ErrAt) (on : List Metered) :
    Next s.Evolves (execSramPatrolScrub st corrected bad w s on) := by
  unfold execSramPatrolScrub Next
  simp only
  split
  · exact .ite (.refl s) (.ite ((State.Evolves.refl s).same (by rfl)) (.logError ((State.Evolves.refl s).same (by rfl)) ..))
  · exact .ite ((State.Evolves.refl s).same (by rfl)) (.logError ((State.Evolves.refl s).same (by rfl)) ..)
  · exact .ite ((State.Evolves.refl s).same (by rfl)) (.logError ((State.Evolves.refl s).same (by rfl)) ..)

theorem execDramPatrolScrub_evolves (ch : Nat) (e : Ecc) (w : Option ErrAt) (on : List Metered) :
    Next s.Evolves (execDramPatrolScrub ch e w s on) := by
  refine .ite (.refl s) ?_
  simp only
  split
  · exact .logError ((State.Evolves.refl s).same (by rfl)) ..
  · exact (State.Evolves.refl s).same (by rfl)

theorem execFlashReadVerify_evolves (ok : Bool) : Next s.Evolves (execFlashReadVerify ok s) := by
  have hread (m : Mend) : s.Evolves { s with mend := m } := .withMend (.refl s) m
  refine .ite (hread _) ?_
  split
  · exact .mendLog (hread _) _
  · have hlog (m : Mend) (c : Core) (e : LogEntry) : s.Evolves (State.mendLog { s with mend := m, core := c } e) :=
      .mendLog ((State.Evolves.refl s).same (by rfl)) e
    have hbad (u : State) (hu : s.Evolves u) (k : Nat) (b : Bool) :
        s.Evolves { u with fw := u.fw.updImage k fun i => i.setSlot b { (i.slot b) with state := .invalid } } :=
      hu.withFw (.updImage u.fw (.setSlot _ nofun))
    exact .ite (hread _) (.ite (hlog ..) (.cancelKind (hbad _ (hlog ..) ..) _))

theorem execDeferredActivityStart_evolves (code target : Nat) : Next s.Evolves (execDeferredActivityStart code target s) := by
  unfold execDeferredActivityStart Next
  simp only
  split
  · exact .refl s
  · exact .ite ((State.Evolves.refl s).same (by rfl)) (.ite ((State.Evolves.refl s).same (by rfl)) ((State.Evolves.refl s).same (by rfl)))

/-! ### Firmware -/

theorem execActivateNotice_evolves (p : Nat) (n : ActNotice) : Next s.Evolves (execActivateNotice p n s) := by
  refine .ite (.refl s) (.ite ?_ (.reply (.refl s) ..))
  exact .reply (State.Evolves.withFw (.refl s) (Fw.schedule_evolves _)) ..

theorem execActivateCancel_evolves (p origin mask : Nat) : Next s.Evolves (execActivateCancel p origin mask s) := by
  refine .ite (.refl s) ?_
  split
  · exact .refl s
  · exact .withFw (.refl s) (Fw.withdraw_evolves _)

theorem execTrialWindowExpiry_evolves (kind : Nat) : Next s.Evolves (execTrialWindowExpiry kind s) := by
  unfold execTrialWindowExpiry Next
  simp only
  split
  · next h =>
    simp only [Bool.and_eq_true] at h
    obtain ⟨⟨htrial, -⟩, -⟩ := h
    exact .failTrial (.refl s) htrial
  · exact .refl s

theorem execProcessorTrap_evolves (cpu : Nat) : Next s.Evolves (execProcessorTrap cpu s) := by
  unfold execProcessorTrap Next
  simp only
  split
  · exact .refl s
  · next k _ =>
    have htrapped : s.Evolves { s with fw := { s.fw with trapped := (s.fw.trapped ++ [k]).dedup } } := (State.Evolves.refl s).same (by rfl)
    refine .ite (.refl s) (.ite ?_ (.ite (htrapped.same (by rfl)) (htrapped.same (by rfl))))
    exact htrapped.withFw (.updImage _ ((Image.Evolves.refl _).same (by rfl)))

theorem execWatchdogExpiry_evolves (cpu : Nat) : Next s.Evolves (execWatchdogExpiry cpu s) := by
  unfold execWatchdogExpiry Next
  simp only
  split
  · exact .refl s
  · exact .ite (.withFw (.refl s) (.updImage s.fw ((Image.Evolves.refl _).same (by rfl)))) (.refl s)

theorem execRecoveryDownloadMessage_evolves (b : Bus) (v : Word) (off : Nat) (data : List Byte) :
    Next s.Evolves (execRecoveryDownloadMessage b v off data s) := by
  refine .ite (.refl s) ?_
  have hdata : s.Evolves { s with mod := { s.mod with rcvBytes := Memory.write s.mod.rcvBytes off data } } :=
    ((State.Evolves.refl s).same (by rfl))
  refine .withMctpOut (.withCore ?_ _) _
  simp only
  split
  · exact hdata.rcvRun _ _ fun _ => Fw.stageBegin_evolves ..
  · exact .ite (hdata.rcvRun _ _ fun _ => Fw.rcvWrite_evolves ..) hdata
  · exact hdata.rcvRun _ _ fun _ => Fw.stageVerify_evolves _
  · exact hdata.rcvRun _ _ fun _ => Fw.stageCommit_evolves

/-! ### The host interface -/

theorem execQueueEnable_evolves (fn slot : Nat) (v : Word) : Next s.Evolves (execQueueEnable fn slot v s) := by
  unfold execQueueEnable Next
  simp only
  split
  · exact .refl s
  · exact .ite (.qctl (.refl s) ..) (.refl s)

theorem execQueueDisable_evolves (fn slot : Nat) (v : Word) : Next s.Evolves (execQueueDisable fn slot v s) := by
  unfold execQueueDisable Next
  simp only
  split
  · exact .refl s
  · exact .ite (.refl s) (.qctl (.refl s) ..)

theorem execRegisterWrite_evolves (fn bar off size be : Nat) (v : DWord) :
    Next s.Evolves (execRegisterWrite fn bar off size be v s) := by
  have hlow : s.Evolves (if be % 16 == 0xF then s.write32 fn bar off (v.toNat % 2 ^ 32) else s) :=
    .ite (.write32 (.refl s) ..) (.refl s)
  exact .ite (.refl s) (.ite hlow (.ite (.ite (hlow.write32 ..) hlow) (.refl s)))

/-! ### DRAM -/

theorem execDramUrgencyRise_evolves (ch id t : Nat) : Next s.Evolves (execDramUrgencyRise ch id t s) := by
  unfold execDramUrgencyRise Next
  simp only
  split
  · exact .refl s
  · exact (State.Evolves.refl s).same (by rfl)

theorem execDramReadReturn_evolves (ch id t : Nat) (e0 e1 : Ecc) (w : Option ErrAt) :
    Next s.Evolves (execDramReadReturn ch id t e0 e1 w s) := by
  unfold execDramReadReturn Next
  simp only
  split
  · exact .refl s
  · refine .ite ((State.Evolves.refl s).same (by rfl)) ?_
    split
    · exact .logError ((State.Evolves.refl s).same (by rfl)) ..
    · split
      · exact .logError ((State.Evolves.refl s).same (by rfl)) ..
      · exact .lostAt (.logError ((State.Evolves.refl s).same (by rfl)) ..) ..

/-! ### Links -/

theorem execHello_evolves (p : Nat) (h : Hello) : Next s.Evolves (execHello p h s) := by
  refine .ite (.refl s) ?_
  exact .updPort (.ite ((State.Evolves.refl s).same (by rfl)) ((State.Evolves.refl s).same (by rfl))) ..

theorem execFlitReceive_evolves (p : Nat) (f : Flit) (crcOk : Bool) (fec : Nat) :
    Next s.Evolves (execFlitReceive p f crcOk fec s) :=
  .ite (.refl s) (.ite ((State.Evolves.refl s).same (by rfl)) (.ite ((State.Evolves.refl s).same (by rfl)) (.routeFlit ((State.Evolves.refl s).same (by rfl)) ..)))

theorem execMgmtReply_evolves (id : Nat) (r : Reply) : Next s.Evolves (execMgmtReply id r s) := by
  refine .ite (.refl s) ?_
  split
  · exact .refl s
  · have hdrop : s.Evolves (s.dropSent id) := .dropSent (.refl s) id
    simp only
    split
    · exact hdrop.failAt ..
    · exact hdrop.withCore _
    · exact .tellMembers (hdrop.withCore _)
    · exact hdrop.activateAccept ..
    · exact hdrop.activateFail ..
    · exact hdrop

theorem execReplyTimeout_evolves (id : Nat) : Next s.Evolves (execReplyTimeout id s) := by
  refine .ite (.refl s) ?_
  split
  · exact .refl s
  · have hdrop : s.Evolves (s.dropSent id) := .dropSent (.refl s) id
    split
    · exact hdrop.failAt ..
    · exact hdrop
    · exact .refl s

theorem execGrantTimeout_evolves (part : Nat) : Next s.Evolves (execGrantTimeout part s) := by
  unfold execGrantTimeout Next
  simp only
  split
  · exact .refl s
  · exact .tellMembers (.sendHeld ((State.Evolves.refl s).same (by rfl)))

theorem execGrantRequest_evolves (p : Nat) (g : GrantReq) : Next s.Evolves (execGrantRequest p g s) := by
  refine .ite (.refl s) ?_
  split
  · next t h =>
    rw [State.takeGrant_eq h]
    exact .reply (.grantWindow (State.Evolves.withCore (.refl s) _) ..) ..
  · exact .reply (.refl s) ..

theorem execMasterLost_evolves : Next s.Evolves (execMasterLost s) :=
  .ite (.refl s) (.ite ((State.Evolves.refl s).same (by rfl)) (.chooseMaster (.refl s) _))

theorem execTickFlit_evolves (p : Nat) (k : TickPay) (t : Nat) : Next s.Evolves (execTickFlit p k t s) :=
  .ite (.refl s) (.ite ((State.Evolves.refl s).same (by rfl)) (.sendTick ((State.Evolves.refl s).same (by rfl)) ..))

/-! ### Build, seal and steps -/

theorem execCutOff_evolves (b : Build) : Next s.Evolves (execCutOff b s) := by
  unfold execCutOff Next
  simp only
  split
  · exact .refl s
  · exact .sendSteps (.passes ((State.Evolves.refl s).same (by rfl)) ..) _

theorem execMemberStepList_evolves (p lead part : Nat) (steps : List MemberStep) :
    Next s.Evolves (execMemberStepList p lead part steps s) := by
  refine .ite (.refl s) ?_
  split
  · exact .refl s
  · have hdone (f : Link → Link) (hf : (f s.link).strap = s.link.strap) (unit id : Nat) :
        s.Evolves (((s.updLink f).grantWindow lead unit true false).reply lead id .done) :=
      .reply (.grantWindow (.updLink (.refl s) f hf) ..) ..
    simp only
    split
    · exact .ite (hdone _ rfl ..) (.passes (.withCore (hdone _ rfl ..) _) ..)
    · exact hdone _ rfl ..

theorem execSealDeadline_evolves (done : Nat) : Next s.Evolves (execSealDeadline done s) :=
  .ite (.sealSheaf (.refl s) done) (.refl s)

theorem execStepStart_evolves (run : Nat) (e : Engine) (t : Nat) : Next s.Evolves (execStepStart run e t s) := by
  unfold execStepStart Next
  simp only
  split
  · exact .refl s
  · next r _ =>
    have hshare : s.Evolves (s.shareStart r) := .shareStart (.refl s) r
    split
    · exact hshare
    · split
      · exact hshare
      · split
        · exact hshare
        · split
          · exact hshare.withCore _
          · exact .launchStep (hshare.withCore _) ..

theorem execStepEnd_evolves (run : Nat × Engine) (t grains : Nat) (how : StepHow) (fix : Fixed) :
    Next s.Evolves (execStepEnd run t grains how fix s) := by
  unfold execStepEnd Next
  simp only
  split
  · exact .refl s
  · next r _ =>
    split
    · exact .refl s
    · next a _ =>
      have hmeter : s.Evolves { s.meter r a t grains with mend := (s.meter r a t grains).mend.fixed fix } :=
        ((State.Evolves.meter (.refl s) r a t grains).same (by rfl))
      exact .ite (.refl s) (.ite hmeter (hmeter.stepEnds ..))

theorem execStepCut_evolves (run : Nat × Engine) : Next s.Evolves (execStepCut run s) := by
  unfold execStepCut Next
  simp only
  split
  · exact .refl s
  · split
    · exact .refl s
    · exact .refl s
    · refine .ite (.refl s) (.ite (.meter ((State.Evolves.refl s).same (by rfl)) ..) ?_)
      split
      · exact .withCore (.meter ((State.Evolves.refl s).same (by rfl)) ..) _
      · exact .withCore (.meter ((State.Evolves.refl s).same (by rfl)) ..) _
      · exact .failAt (.meter ((State.Evolves.refl s).same (by rfl)) ..) ..

end

end Sys2Proof.Machine
end

section
/-! SUPPORT. Every row but eight evolves the images and leaves the edges of TICK_OUT, the straps and THERMTRIP# alone; FW_CONFIRM and
the end of BOOT, and what they do. -/

namespace Sys2Proof.Machine

/-- The rows that do more: a trial that is confirmed (R468), a boundary and the start of tick 0 (R434), resets and their end (R479,
R483), THERMTRIP# (R484). -/
def movesFixed : Instr → Bool
  | .fwConfirm _ | .tickBoundary _ | .bootEnd _ | .undervoltage | .resetNAssert _ | .thermalTrip | .moduleResetEnd _ _
  | .thermtripRelease => true
  | _ => false

/-- An answer over SPDM moves its connection (R474). -/
theorem State.spdm_evolves (s : State) (b : Bus) (code : Nat) (fields : List Nat) (move : Spdm → Spdm) (more : List Byte) :
    Next s.Evolves (s.spdm b code fields move more) := by
  refine .ite (.refl s) (State.Evolves.trans (.answer (.refl s) ..) ⟨.refl _, ?_⟩)
  cases b <;> rfl

theorem execSetEndpointId_evolves (s : State) (b : Bus) (eid : Nat) : Next s.Evolves (execSetEndpointId b eid s) := by
  refine .ite (.refl s) ⟨.refl _, ?_⟩
  cases b <;> rfl

theorem exec_evolves {i : Instr} (hi : movesFixed i = false) (s : State) : Next s.Evolves (exec i s) := by
  have hs : s.Evolves s := .refl s
  cases i with
  | fwConfirm | tickBoundary | bootEnd | undervoltage | resetNAssert | thermalTrip | moduleResetEnd | thermtripRelease => cases hi
  -- commands that see the whole machine
  | partCreate c => exact State.Evolves.command (.partCreate s)
  | partDestroy c => exact State.Evolves.command (.partDestroyAll s)
  | partLimits c => exact State.Evolves.command (.partLimits s)
  | mendStart c => exact State.Evolves.command (.mendStart s)
  | mendStatus c => exact State.Evolves.command (.mendStatus s)
  | fwStage c => exact State.Evolves.command (.fwStage s)
  | fwActivate c => exact State.Evolves.command (.fwActivate s)
  | attest c => exact State.Evolves.command (.attest s)
  | thaw c => exact State.Evolves.command (.thaw s)
  | ledgerSet c => exact State.Evolves.command (.ledgerSet s)
  | tickSet c => exact State.Evolves.command (.tickSet s)
  | chainForm c => exact State.Evolves.command (.chainForm s)
  | quiet c => exact State.Evolves.command (.quiet s)
  -- build, seal and steps
  | cutOff b => exact execCutOff_evolves s b
  | sealDeadline n => exact execSealDeadline_evolves s n
  | memberStepList p lead part steps => exact execMemberStepList_evolves s p lead part steps
  | stepStart run e t => exact execStepStart_evolves s run e t
  | stepEnd run t grains how fix => exact execStepEnd_evolves s run t grains how fix
  | stepCut run => exact execStepCut_evolves s run
  -- mending and firmware
  | arraySelfTest rows on => exact execArraySelfTest_evolves s rows on
  | sramPatrolScrub st corrected bad w on => exact execSramPatrolScrub_evolves s st corrected bad w on
  | dramPatrolScrub ch e w on => exact execDramPatrolScrub_evolves s ch e w on
  | flashReadVerify ok => exact execFlashReadVerify_evolves s ok
  | deferredActivityStart code target => exact execDeferredActivityStart_evolves s code target
  | activateNotice p n => exact execActivateNotice_evolves s p n
  | activateCancel p origin mask => exact execActivateCancel_evolves s p origin mask
  | activateTimeout => exact .ite hs (.activateFail (hs.withCore _) ..)
  | trialWindowExpiry kind => exact execTrialWindowExpiry_evolves s kind
  | processorTrap cpu => exact execProcessorTrap_evolves s cpu
  | watchdogExpiry cpu => exact execWatchdogExpiry_evolves s cpu
  | recoveryBegin v => exact hs.recoveryBegin v
  | recoveryWrite v => exact hs.recoveryWrite v
  | recoveryVerify v => exact hs.recoveryVerify v
  | recoveryCommit v => exact hs.recoveryCommit v
  | recoveryDownloadMessage b v off data => exact execRecoveryDownloadMessage_evolves s b v off data
  -- the host interface
  | queueEnable fn slot v => exact execQueueEnable_evolves s fn slot v
  | queueDisable fn slot v => exact execQueueDisable_evolves s fn slot v
  | registerWrite fn bar off size be v => exact execRegisterWrite_evolves s fn bar off size be v
  | pfFlr => exact .ite hs.pfReset hs
  | hotReset => exact .ite hs.pfReset hs
  | perstAssert => exact (hs.withCore _).linkGone
  | pcieLinkDown => exact hs.linkGone
  -- DRAM
  | dramUrgencyRise ch id t => exact execDramUrgencyRise_evolves s ch id t
  | dramReadReturn ch id t e0 e1 w => exact execDramReadReturn_evolves s ch id t e0 e1 w
  -- links
  | hello p h => exact execHello_evolves s p h
  | flitReceive p f crcOk fec => exact execFlitReceive_evolves s p f crcOk fec
  | tickFlit p k t => exact execTickFlit_evolves s p k t
  | seamMessage p m => exact .ite (hs.deliver ..) hs
  | bulkMessage p m => exact .ite (hs.deliver ..) hs
  | mgmtReply id r => exact execMgmtReply_evolves s id r
  | grantRequest p g => exact execGrantRequest_evolves s p g
  | laneLockLoss p => exact .ite (hs.portDown p) hs
  | replayLimit p => exact .ite (hs.portDown p) hs
  | controlWordTimeout p => exact .ite (hs.portDown p) hs
  | replyTimeout id => exact execReplyTimeout_evolves s id
  | grantTimeout part => exact execGrantTimeout_evolves s part
  | masterLost => exact execMasterLost_evolves s
  | portTraining p lanes => exact .ite hs (.ite (hs.updPort ..) (hs.updPort ..))
  | tickInEdge t => exact .ite hs (.ite (.ite (hs.same (by rfl)) (.ite (hs.same (by rfl)) (hs.same (by rfl)))) (hs.same (by rfl)))
  -- management
  | getVersion b => exact (s.spdm_evolves .. : Next s.Evolves (execGetVersion b s))
  | getCapabilities b => exact (s.spdm_evolves .. : Next s.Evolves (execGetCapabilities b s))
  | negotiateAlgorithms b asym hash => exact (s.spdm_evolves .. : Next s.Evolves (execNegotiateAlgorithms b asym hash s))
  | getDigests b => exact (s.spdm_evolves .. : Next s.Evolves (execGetDigests b s))
  | getCertificate b slot off len => exact (s.spdm_evolves .. : Next s.Evolves (execGetCertificate b slot off len s))
  | challenge b slot nonce => exact (s.spdm_evolves .. : Next s.Evolves (execChallenge b slot nonce s))
  | getMeasurements b index nonce => exact (s.spdm_evolves .. : Next s.Evolves (execGetMeasurements b index nonce s))
  | spdmSessionRequest => exact .ite (hs.answer ..) hs
  -- one condition
  | tckCountLoRead | refreshWindowStart | linkDownNotice | linkUpNotice | doeRequest | doeDiscovery => exact .ite (hs.same (by rfl)) hs
  | setEndpointId b eid => exact execSetEndpointId_evolves s b eid
  | tickInWindowExpiry | tickInRelock | dramRequestEntry | dramBankIssue |
    controlWordReceive | vinRise | pwrgdRelease |
    mctpControl | smbusArp | alertResponse | temperatureReading | governorRaise | governorLower | telemetryRequest =>
    exact .ite hs (hs.same (by rfl))
  -- rows that act on the core alone, or without a condition
  | _ => exact hs.same (by rfl)

end Sys2Proof.Machine
end

section
/-! SUPPORT. The rows that do more than evolve: FW_CONFIRM (R468), a start with its straps (R461, R462, R479), a module reset and what
outlives it (R481 to R484). -/

namespace Sys2Proof.Machine

/-! ### A trial that is confirmed -/

/-- From `i` to `j` the minimum SVN is no lower, and of two slots in force there is no more than there was. -/
structure Image.Grows (i j : Image) : Prop where
  svnMin : i.svnMin ≤ j.svnMin
  single : i.Single → j.Single

theorem Image.Evolves.grows {i j : Image} (h : i.Evolves j) : i.Grows j := ⟨h.svnMin.ge, h.single⟩

theorem Image.Grows.trans {i j k : Image} (h : i.Grows j) (h' : j.Grows k) : i.Grows k :=
  ⟨h.svnMin.trans h'.svnMin, h'.single ∘ h.single⟩

/-- A trial that is confirmed: its slot is ACTIVE, a fall-back VALID, the minimum SVN what the manifest raises it to (R468). -/
theorem Image.confirm_of_trial {i : Image} {b : Bool} (h : i.find .trial = some b) (k : Nat) : i.confirm k =
    { (i.restate .trial .active).restate .fallback .valid with
      left := 0
      svnMin := if mfRaise ((i.slot b).manifest k) then max i.svnMin (mfSvn ((i.slot b).manifest k)) else i.svnMin } := by
  have hmin : ((i.restate .trial .active).restate .fallback .valid).svnMin = i.svnMin := by simp
  simp only [Image.confirm, h]
  rw [Image.restate_of_find h] at hmin ⊢
  rw [← hmin]
  rfl

theorem Image.confirm_grows (i : Image) (k : Nat) : i.Grows (i.confirm k) := by
  cases h : i.find .trial with
  | none => simpa only [Image.confirm, h] using (Image.Evolves.refl i).grows
  | some b =>
    have hslots : i.Evolves ((i.restate .trial .active).restate .fallback .valid) :=
      .trans (.restate i fun _ => rfl) (.restate _ nofun)
    rw [Image.confirm_of_trial h]
    refine ⟨?_, hslots.single⟩
    simp only
    split <;> omega

/-- Confirming images in turn. -/
theorem Fw.confirm_grows (f : Fw) (ks : List Nat) (n : Nat) :
    (f.image n).Grows ((ks.foldl (fun (f : Fw) k => f.updImage k fun i => i.confirm k) f).image n) := by
  refine List.foldlRecOn (motive := fun g : Fw => (f.image n).Grows (g.image n)) ks _ (Image.Evolves.refl _).grows
    fun g hg k _ => hg.trans ?_
  rw [Fw.image_updImage]
  split
  · next h =>
    subst h
    exact Image.confirm_grows _ _
  · exact (Image.Evolves.refl _).grows

/-- FW_CONFIRM grows images, and moves nothing else of what is fixed. -/
theorem execFwConfirm_grows (c : Cmd) (s : State) :
    Next (fun t => (∀ k, (s.fw.image k).Grows (t.fw.image k)) ∧ t.fixed = s.fixed) (execFwConfirm c s) := by
  refine State.command_next ⟨fun _ => (Image.Evolves.refl _).grows, rfl⟩ (fun t k ht => ht) fun e => .bind fun _ => ?_
  split
  · exact .error _
  · have hconfirm (u : State) (hu : u.fw.images = ((maskKinds (e.word 0)).foldl (fun (f : Fw) k =>
        f.updImage k fun i => i.confirm k) s.fw).images) (k : Nat) : (s.fw.image k).Grows (u.fw.image k) := by
      have := Fw.confirm_grows s.fw (maskKinds (e.word 0)) k
      simpa only [Fw.image, hu] using this
    refine .ok ?_
    split
    · exact ⟨hconfirm _ rfl, rfl⟩
    · unfold State.fwBit
      split
      · exact ⟨hconfirm _ rfl, rfl⟩
      · exact ⟨hconfirm _ rfl, rfl⟩

/-! ### The end of BOOT -/

/-- READY begins with tick 0, whose start carries an edge (R115, R434, R461). -/
theorem execBootEnd_starts {s : State} (hboot : s.core.mstate = .boot) (hstarted : s.mod.started = true) (v : Nat) :
    execBootEnd s v = .next { s with
      core := s.core.draw.2.setM .ready
      tick := { s.tick with count := 0, outEdges := s.tick.outEdges + 1 }
      led := s.led.first s.core.draw.1 s.tick.period v
      dram := { s.dram with phase := Config.freeNat s.core.draw.1 0 % 3904 } } := by
  simp [execBootEnd, hboot, hstarted]

/-- The end of BOOT touches neither firmware, straps nor THERMTRIP#. -/
theorem execBootEnd_keeps (s : State) (v : Nat) : Next (fun t => t.fw = s.fw ∧ t.link = s.link ∧ t.mod = s.mod ∧
    t.led.strap = s.led.strap) (execBootEnd s v) := by
  obtain ⟨b, p, d, hfirst⟩ := s.led.first_eq s.core.draw.1 s.tick.period v
  refine .ite ⟨rfl, rfl, rfl, rfl⟩ ⟨rfl, rfl, rfl, ?_⟩
  simp only [hfirst]
  rfl

/-! ### Images at a start -/

section
variable {i : Image}

/-- Where at most one slot is in force, the one that does not count as the slot in force is not. -/
theorem Image.Single.other_inB (h : i.Single) : (i.slot !i.inB).state.inForce = false := by
  cases hb : i.inB with
  | true => exact h.other (b := true) hb
  | false => exact hb

/-- A slot in TRIAL and one in FALLBACK are the two slots. -/
theorem Image.find_apart {b c : Bool} {st st' : SState} (hne : st ≠ st') (hb : i.find st = some b) (hc : i.find st' = some c) :
    c = !b := by
  have hb := Image.find_some hb
  have hc := Image.find_some hc
  cases b <;> cases c <;> simp_all

/-- A start: an image begins its trial, or gives way to its fall-back; at most one slot stays in force (R462). -/
theorem Image.atStart_evolves (k : Nat) (i : Image) : i.Evolves (i.atStart k) := by
  unfold Image.atStart
  simp only
  split
  · split
    · next b _ _ =>
      refine Image.Evolves.same (j := (i.setSlot (!b) { (i.slot !b) with state := .fallback }).setSlot b
        { ((i.setSlot (!b) { (i.slot !b) with state := .fallback }).slot b) with state := .trial }) ⟨by simp, fun _ => ?_⟩ (by rfl)
      exact Image.single_setSlot (by simp [SState.inForce])
    · refine Image.Evolves.same (j := i.setSlot i.inB { (i.slot i.inB) with state := .trial }) ⟨by simp, fun h => ?_⟩ (by rfl)
      exact Image.single_setSlot h.other_inB
  · split
    · next t f ht hf =>
      split
      · exact (Image.Evolves.refl i).same (by rfl)
      · refine .trans (.setSlot (b := t) (v := { (i.slot t) with state := .valid }) i nofun) ⟨by simp, fun _ => ?_⟩
        rw [Image.find_apart (by decide) ht hf]
        exact Image.single_setSlot (by simp [SState.inForce])
    · exact (Image.Evolves.refl i).same (by rfl)
    · exact .refl i

/-- The slot that gives way is INVALID before the other one is in force (R462). -/
theorem Image.choose_evolves {j : Image} {k : Nat} {owners : Tab Owner} (h : i.choose k owners = some j) : i.Evolves j := by
  unfold Image.choose at h
  simp only at h
  split at h
  · cases h
    exact .refl i
  · split at h
    · cases h
    · split at h
      · cases h
        refine ⟨by simp, fun _ => Image.single_setSlot ?_⟩
        simp [SState.inForce]
      · cases h

end

/-- The images to run are those that were there, evolved. -/
theorem Fw.chooseAll_evolves (f : Fw) : f.Evolves f.chooseAll.1 := by
  unfold Fw.chooseAll
  refine List.foldlRecOn (motive := fun r : Fw × Option Nat => f.Evolves r.1) _ _ (.refl f) fun r hr k _ => ?_
  split
  · exact hr
  · next i _ h => exact hr.trans (.putImage _ (Image.choose_evolves h))
  · exact hr

/-- Guards and measurements leave the slots alone. -/
theorem State.Evolves.seal {s t : State} (h : s.Evolves t) : s.Evolves t.seal := by
  refine h.trans ⟨.mapAll (u := fun _ i => { i with startedB := t.fw.dirUsable && i.inB }) rfl fun _ _ => rfl, rfl⟩

/-! ### A module reset -/

/-- Slots and minimum SVNs outlive a module reset (R483). -/
theorem State.cleared_flash (s : State) (k : Nat) : (s.cleared.fw.image k).flash = (s.fw.image k).flash :=
  Tab.get_mapAll_of_keeps (d := ({} : Image)) (f := fun _ i => i.afterReset) (g := Image.flash) (fun _ _ => rfl) s.fw.images k

/-- So does the darning map, but for a test that was under way (R208). -/
theorem State.cleared_arr (s : State) (n p : Nat) : s.cleared.mend.arr n p = (s.mend.arr n p).afterReset :=
  Tab.get_mapAll (d := ({} : Arr)) (f := fun _ a => a.afterReset) (fun _ => rfl) s.mend.arrs (arrKey n p)

theorem State.outlives_cleared (s : State) : Outlives s s.cleared := by
  refine ⟨rfl, rfl, fun k => Image.flash_eq.1 (s.cleared_flash k), fun n p => ?_⟩
  rw [State.cleared_arr]
  exact ⟨rfl, rfl, rfl, by simp [Arr.afterReset]⟩

/-- A module reset evolves the images. -/
theorem State.cleared_evolves (s : State) : s.fw.Evolves s.cleared.fw := .mapAll (u := fun _ i => i.afterReset) rfl fun _ _ => rfl

end Sys2Proof.Machine
end

section
/-! SUPPORT. All rows against the images, the edges of TICK_OUT, the straps and THERMTRIP#. -/

namespace Sys2Proof.Machine

/-- The rows that can begin a module reset (R481, R482, R484). -/
def beginsReset : Instr → Bool
  | .undervoltage | .resetNAssert _ | .thermalTrip => true
  | _ => false

/-- A module reset has begun (R483). -/
structure State.Resets (s t : State) : Prop where
  fw : s.fw.Evolves t.fw
  edges : t.tick.outEdges = 0
  inReset : t.mod.inReset = true

/-- Such a row resets a module that is not off, or leaves all but the core as it was. -/
theorem exec_reset {i : Instr} (hi : beginsReset i = true) (s : State) :
    Next (fun t => t = { s with core := t.core } ∨ s.core.mstate ≠ .off ∧ s.Resets t) (exec i s) := by
  cases i with
  | undervoltage | thermalTrip =>
    unfold Next
    simp only [exec, execUndervoltage, execThermalTrip]
    split
    · exact .inl rfl
    · next h => exact .inr ⟨by simpa using h, s.cleared_evolves, rfl, rfl⟩
  | resetNAssert ns =>
    unfold Next
    simp only [exec, execResetNAssert]
    split
    · exact .inl rfl
    · split
      · exact .inl rfl
      · next h _ => exact .inr ⟨by simpa using h, State.cleared_evolves { s with core := { s.core with free := s.core.free + 1 } }, rfl, rfl⟩
  | _ => cases hi

/-- The end of a module reset evolves the images; TICK_OUT and THERMTRIP# it leaves alone (R461, R462). -/
theorem execModuleResetEnd_keeps (st : Straps) (ok : Bool) (s : State) :
    Next (fun t => s.fw.Evolves t.fw ∧ t.tick.outEdges = s.tick.outEdges ∧ t.mod.thermtrip = s.mod.thermtrip)
      (execModuleResetEnd st ok s) := by
  refine .ite ⟨.refl _, rfl, rfl⟩ ?_
  have hseal {u : State} (hu : s.fw.Evolves u.fw) : s.fw.Evolves u.seal.fw := hu.trans (State.Evolves.seal (.refl u)).fw
  have hread : s.fw.Evolves (s.readStraps st).fw := .refl _
  have hedges : (s.readStraps st).tick.outEdges = s.tick.outEdges := rfl
  have htrip : (s.readStraps st).mod.thermtrip = s.mod.thermtrip := rfl
  have hstart (f : Fw) : f.Evolves (([1, 2, 3, 4, 5, 6].foldl (fun (f : Fw) k => f.updImage k (Image.atStart k)) f).chooseAll).1 :=
    .trans (.foldl _ (fun f k => .updImage f (Image.atStart_evolves ..)) f) (Fw.chooseAll_evolves _)
  generalize s.readStraps st = u at hread hedges htrip ⊢
  have hchosen := hread.trans (hstart u.fw)
  simp only
  generalize ([1, 2, 3, 4, 5, 6].foldl (fun (f : Fw) k => f.updImage k (Image.atStart k)) u.fw).chooseAll = r at hchosen ⊢
  split
  · exact ⟨(hseal hread).same (by rfl), hedges, htrip⟩
  · split
    · exact ⟨(hseal hread).same (by rfl), hedges, htrip⟩
    · have hrun : s.fw.Evolves ({ u with fw := r.1 } : State).seal.fw := hseal hchosen
      split
      · exact ⟨hrun.same (by rfl), hedges, htrip⟩
      · split
        · exact ⟨hrun.same (by rfl), hedges, htrip⟩
        · exact ⟨hrun.same (by rfl), hedges, htrip⟩

/-- Every row but FW_CONFIRM evolves the images (R459, R463). -/
theorem exec_fw {i : Instr} (hi : ∀ c, i ≠ .fwConfirm c) (s : State) : Next (fun t => s.fw.Evolves t.fw) (exec i s) := by
  cases hmoves : movesFixed i with
  | false => exact (exec_evolves hmoves s).mono fun _ h => h.fw
  | true =>
    have hreset (i : Instr) (hi : beginsReset i = true) : Next (fun t => s.fw.Evolves t.fw) (exec i s) :=
      (exec_reset hi s).mono fun t h => by
        rcases h with h | ⟨-, h⟩
        · rw [h]
          exact .refl _
        · exact h.fw
    cases i with
    | fwConfirm c => exact absurd rfl (hi c)
    | tickBoundary m =>
      cases hcomes : (!mlive s.core.mstate || (s.tick.waits && !s.tick.due)) with
      | true =>
        simp only [exec, execTickBoundary_idle hcomes]
        exact .refl _
      | false => exact (execTickBoundary_turns hcomes).mono fun _ h => h.fw
    | bootEnd v => exact .ite (.refl _) (.refl _)
    | undervoltage => exact hreset _ rfl
    | resetNAssert ns => exact hreset _ rfl
    | thermalTrip => exact hreset _ rfl
    | moduleResetEnd st ok => exact (execModuleResetEnd_keeps st ok s).mono fun _ ⟨h, _⟩ => h
    | thermtripRelease => exact .ite (.refl _) (.refl _)
    | _ => cases hmoves

/-- No row lowers a minimum SVN, or puts a second slot of an image in force (R459, R463). -/
theorem exec_grows (i : Instr) (s : State) : Next (fun t => ∀ k, (s.fw.image k).Grows (t.fw.image k)) (exec i s) := by
  by_cases hi : ∃ c, i = .fwConfirm c
  · obtain ⟨c, rfl⟩ := hi
    exact (execFwConfirm_grows c s).mono fun _ ⟨h, _⟩ => h
  · exact (exec_fw (fun c h => hi ⟨c, h⟩) s).mono fun _ h k => (h.image k).grows

/-- Every row that is no boundary, no start and no reset leaves the edges of TICK_OUT, the straps of link and module, and, but for its
release, THERMTRIP#. -/
theorem exec_fixed {i : Instr} (hturn : ∀ m, i ≠ .tickBoundary m) (hboot : ∀ v, i ≠ .bootEnd v) (hreset : beginsReset i = false)
    (hend : ∀ st ok, i ≠ .moduleResetEnd st ok) (hrel : i ≠ .thermtripRelease) (s : State) :
    Next (fun t => t.fixed = s.fixed) (exec i s) := by
  cases hmoves : movesFixed i with
  | false => exact (exec_evolves hmoves s).mono fun _ h => h.fixed
  | true =>
    cases i with
    | fwConfirm c => exact (execFwConfirm_grows c s).mono fun _ ⟨_, h⟩ => h
    | tickBoundary m => exact absurd rfl (hturn m)
    | bootEnd v => exact absurd rfl (hboot v)
    | undervoltage | resetNAssert | thermalTrip => cases hreset
    | moduleResetEnd st ok => exact absurd rfl (hend st ok)
    | thermtripRelease => exact absurd rfl hrel
    | _ => cases hmoves

end Sys2Proof.Machine

open Sys2Proof Sys2Proof.Machine

/-- Settles O57: no row puts a second slot of an image in force. -/
theorem atMostOneSlotInForce : Obligations.AtMostOneSlotInForce := by
  intro s t hs h
  rw [Fw.oneInForce_iff] at hs ⊢
  intro k
  unfold step at h
  split at h
  · cases h
    exact hs k
  · next i rest _ => exact ((exec_grows i { s with pending := rest }).of_eq h k).single (hs k)

/-- Settles O58: every row but FW_CONFIRM leaves the minimum SVNs, and FW_CONFIRM takes the larger one. -/
theorem minimumSvnNeverFalls : Obligations.MinimumSvnNeverFalls := by
  intro i s t k h
  exact ⟨((exec_grows i s).of_eq h k).svnMin, fun hi => (((exec_fw hi s).of_eq h).image k).svnMin⟩
end

section
/-! SUPPORT. The strap of the ledger (R53, R479), and a start by its straps (R461, R479). -/

namespace Sys2Proof.Machine

/-- No move of a ledger changes its strap. -/
theorem Ledger.Move.strap {l m : Ledger} (h : l.Move m) : m.strap = l.strap := by
  cases h with
  | schedule | calibrate | switch | raise | lower | rest => rfl
  | change tick =>
    unfold Ledger.changeAt
    split
    · split <;> rfl
    · rfl
  | other h =>
    obtain ⟨⟨hstrap, -⟩, -⟩ := Ledger.bounded_eq.1 h
    exact hstrap

theorem Ledger.Moves.strap {l m : Ledger} (h : l.Moves m) : m.strap = l.strap :=
  h.keeps (P := fun m => m.strap = l.strap) (fun hmove hl => hmove.strap.trans hl) rfl

theorem execTickBoundary_straps (m : Boundary) (s : State) :
    Next (fun t => t.link.strap = s.link.strap ∧ t.mod.straps = s.mod.straps) (execTickBoundary m s) := by
  cases hcomes : (!mlive s.core.mstate || (s.tick.waits && !s.tick.due)) with
  | true =>
    rw [execTickBoundary_idle hcomes]
    exact ⟨rfl, rfl⟩
  | false =>
    refine (execTickBoundary_turns hcomes).mono fun t h => ?_
    obtain ⟨-, hlink, hmod, -⟩ := h.fixed_eq
    exact ⟨hlink, hmod⟩

/-- Straps of ledger, link and module stay, or the module is in reset (R479). -/
theorem exec_straps {i : Instr} (hi : ∀ st ok, i ≠ .moduleResetEnd st ok) (s : State) :
    Next (fun t => (t.led.strap = s.led.strap ∧ t.link.strap = s.link.strap ∧ t.mod.straps = s.mod.straps) ∨ t.mod.inReset = true)
      (exec i s) := by
  cases hreset : beginsReset i with
  | true =>
    refine (exec_reset hreset s).mono fun t h => ?_
    rcases h with h | ⟨-, h⟩
    · rw [h]
      exact .inl ⟨rfl, rfl, rfl⟩
    · exact .inr h.inReset
  | false =>
    have hrenews : renewsLedger i = false := by
      cases i with
      | undervoltage | resetNAssert | thermalTrip => cases hreset
      | moduleResetEnd st ok => exact absurd rfl (hi st ok)
      | _ => rfl
    have hled := exec_moves hrenews s
    have hrest : Next (fun t => t.link.strap = s.link.strap ∧ t.mod.straps = s.mod.straps) (exec i s) := by
      have hfixed (t : State) (h : t.fixed = s.fixed) : t.link.strap = s.link.strap ∧ t.mod.straps = s.mod.straps := by
        obtain ⟨-, hlink, hmod, -⟩ := State.fixed_eq.1 h
        exact ⟨hlink, hmod⟩
      by_cases hturn : ∃ m, i = .tickBoundary m
      · obtain ⟨m, rfl⟩ := hturn
        exact execTickBoundary_straps m s
      by_cases hboot : ∃ v, i = .bootEnd v
      · obtain ⟨v, rfl⟩ := hboot
        exact (execBootEnd_keeps s v).mono fun t ⟨_, hlink, hmod, _⟩ => ⟨hlink ▸ rfl, hmod ▸ rfl⟩
      by_cases hrel : i = .thermtripRelease
      · subst hrel
        exact .ite ⟨rfl, rfl⟩ ⟨rfl, rfl⟩
      exact (exec_fixed (fun m h => hturn ⟨m, h⟩) (fun v h => hboot ⟨v, h⟩) hreset hi hrel s).mono hfixed
    cases hexec : exec i s with
    | next t =>
      rw [hexec] at hled hrest
      obtain ⟨hlink, hmod⟩ := hrest
      exact .inl ⟨hled.strap, hlink, hmod⟩
    | fault | refused => trivial

/-- A start by its straps (R53, R461, R479). -/
theorem execModuleResetEnd_straps {s : State} (hboot : s.core.mstate = .boot) (hin : s.mod.inReset = true)
    (hpow : s.mod.pwrgd = true) (st : Straps) (ok : Bool) : ∃ t, execModuleResetEnd st ok s = .next t ∧
      (t.led.strap = st.pwrSel % 4 ∧ t.led.contract = strapW (st.pwrSel % 4) ∧ t.link.strap = st.tickMaster ∧
        t.mod.straps = st ∧ t.mod.inReset = false) ∧
      (st.recovery = true → t.core.mstate = .recovery ∧ t.fw.reason = 1) ∧
      (st.recovery = false → s.fw.dirUsable = false → t.core.mstate = .recovery ∧ t.fw.reason = 2) := by
  have hu : (s.readStraps st).led.strap = st.pwrSel % 4 ∧ (s.readStraps st).led.contract = strapW (st.pwrSel % 4) ∧
      (s.readStraps st).link.strap = st.tickMaster ∧ (s.readStraps st).mod.straps = st ∧
      (s.readStraps st).mod.inReset = false := ⟨rfl, rfl, rfl, rfl, rfl⟩
  have hdir : (s.readStraps st).fw.dirUsable = s.fw.dirUsable := rfl
  simp only [execModuleResetEnd, hboot, hin, hpow]
  generalize s.readStraps st = u at hu hdir ⊢
  refine ⟨_, rfl, ?_⟩
  simp only [bne_self_eq_false, Bool.not_true, Bool.or_false, Bool.false_eq_true, if_false]
  cases hrec : st.recovery with
  | true => exact ⟨hu, fun _ => ⟨Core.setM_mstate .., rfl⟩, nofun⟩
  | false =>
    cases husable : u.fw.dirUsable with
    | false => exact ⟨hu, nofun, fun _ _ => ⟨Core.setM_mstate .., rfl⟩⟩
    | true =>
      generalize ([1, 2, 3, 4, 5, 6].foldl (fun (f : Fw) k => f.updImage k (Image.atStart k)) u.fw).chooseAll = r
      refine ⟨?_, nofun, fun _ h => absurd h (by simp [← hdir, husable])⟩
      simp only [Bool.false_eq_true, if_false, Bool.not_true]
      split
      · exact hu
      · split
        · exact hu
        · exact hu

end Sys2Proof.Machine

open Sys2Proof Sys2Proof.Machine

/-- Settles O37: a boundary begins a tick with one more edge; every other row leaves the edges, or resets the module. -/
theorem eachBoundaryCarriesOneEdge : Obligations.EachBoundaryCarriesOneEdge := by
  refine ⟨fun m s hlive hdue => ?_, fun m s t h => ?_, fun s hboot hstarted v => ?_, fun i s t hturn hboot h => ?_⟩
  · have hcomes : (!mlive s.core.mstate || (s.tick.waits && !s.tick.due)) = false := by
      cases hw : s.tick.waits <;> simp_all
    obtain ⟨hedges, -⟩ := ((execTickBoundary_turns hcomes).of_eq rfl).fixed_eq
    exact ⟨_, rfl, hedges⟩
  · cases hcomes : (!mlive s.core.mstate || (s.tick.waits && !s.tick.due)) with
    | true =>
      have hidle := (execTickBoundary_idle (m := m) hcomes).symm.trans h
      cases hidle
      exact .inl rfl
    | false =>
      obtain ⟨hedges, -⟩ := ((execTickBoundary_turns hcomes).of_eq h).fixed_eq
      exact .inr hedges
  · refine ⟨_, execBootEnd_starts hboot hstarted v, ?_⟩
    simp [Core.draw, Core.setM, hboot]
  · by_cases hend : ∃ st ok, i = .moduleResetEnd st ok
    · obtain ⟨st, ok, rfl⟩ := hend
      obtain ⟨-, hedges, -⟩ := (execModuleResetEnd_keeps st ok s).of_eq h
      exact .inl hedges
    cases hreset : beginsReset i with
    | true =>
      rcases (exec_reset hreset s).of_eq h with ht | ⟨-, hreset⟩
      · rw [ht]
        exact .inl rfl
      · exact .inr ⟨hreset.edges, hreset.inReset⟩
    | false =>
      by_cases hrel : i = .thermtripRelease
      · subst hrel
        have hedges : Next (fun t => t.tick.outEdges = s.tick.outEdges) (execThermtripRelease s) := .ite rfl rfl
        exact .inl (hedges.of_eq h)
      · obtain ⟨hedges, -⟩ := State.fixed_eq.1
          ((exec_fixed hturn hboot hreset (fun st ok h => hend ⟨st, ok, h⟩) hrel s).of_eq h)
        exact .inl hedges

/-- Settles O32: the end of a module reset reads the straps; no other row changes them, but the beginning of one. -/
theorem strapsAreSampledAtReset : Obligations.StrapsAreSampledAtReset := by
  refine ⟨by decide, fun st ok s hboot hin hpow => ?_, fun i s t hi h => ?_⟩
  · obtain ⟨t, ht, ⟨hstrap, hcontract, hlink, hmod, hout⟩, hrec, hdir⟩ := execModuleResetEnd_straps hboot hin hpow st ok
    exact ⟨t, ht, hstrap, hcontract, hlink, hmod, hout, hrec, hdir⟩
  · exact (exec_straps hi s).of_eq h
end

section
/-! SUPPORT. The supply: what each of its rows does, and THERMTRIP# of a module that is off (R481 to R484). -/

namespace Sys2Proof.Machine

/-- While the module is off, no row but its release, on the removal of VIN, takes THERMTRIP# back. -/
theorem exec_thermtrip {i : Instr} (hi : i ≠ .thermtripRelease) {s : State} (hoff : s.core.mstate = .off) :
    Next (fun t => t.mod.thermtrip = s.mod.thermtrip) (exec i s) := by
  cases hreset : beginsReset i with
  | true =>
    refine (exec_reset hreset s).mono fun t h => ?_
    rcases h with ht | ⟨hon, -⟩
    · rw [ht]
    · exact absurd hoff hon
  | false =>
    by_cases hturn : ∃ m, i = .tickBoundary m
    · obtain ⟨m, rfl⟩ := hturn
      have hidle : execTickBoundary m s = .next s := execTickBoundary_idle (by simp [hoff, mlive])
      simp only [exec, hidle]
      rfl
    by_cases hboot : ∃ v, i = .bootEnd v
    · obtain ⟨v, rfl⟩ := hboot
      exact (execBootEnd_keeps s v).mono fun t ⟨_, _, hmod, _⟩ => hmod ▸ rfl
    by_cases hend : ∃ st ok, i = .moduleResetEnd st ok
    · obtain ⟨st, ok, rfl⟩ := hend
      exact (execModuleResetEnd_keeps st ok s).mono fun t ⟨_, _, htrip⟩ => htrip
    refine (exec_fixed (fun m h => hturn ⟨m, h⟩) (fun v h => hboot ⟨v, h⟩) hreset (fun st ok h => hend ⟨st, ok, h⟩) hi s).mono
      fun t h => ?_
    obtain ⟨-, -, -, htrip⟩ := State.fixed_eq.1 h
    exact htrip

section
variable {s : State} (hon : s.core.mstate ≠ .off)
include hon

/-- RESET_N held for 10 µs resets the module and keeps its SMBus address (R482, R483). -/
theorem execResetNAssert_long {ns : Nat} (hns : 10000 ≤ ns) : execResetNAssert ns s = .next
    { State.cleared { s with core := { s.core with free := s.core.free + 1 } } with
      mod := { (State.cleared { s with core := { s.core with free := s.core.free + 1 } }).mod with smbus := s.mod.smbus } } := by
  simp [execResetNAssert, hon, Nat.not_lt.2 hns]

/-- An undervoltage turns the rails off; VIN has to rise again (R481). -/
theorem execUndervoltage_on : execUndervoltage s = .next { s.unpowered with mod := { s.unpowered.mod with vin := false } } := by
  simp [execUndervoltage, hon]

/-- A thermal trip turns the rails off and holds THERMTRIP# (R484). -/
theorem execThermalTrip_on : execThermalTrip s = .next { s.unpowered with mod := { s.unpowered.mod with thermtrip := true } } := by
  simp [execThermalTrip, hon]

end

end Sys2Proof.Machine

open Sys2Proof Sys2Proof.Machine

/-- Settles O36: the supply rows write out what they leave; what outlives them is what a module reset does not clear. -/
theorem supplyAndReset : Obligations.SupplyAndReset := by
  refine ⟨fun mv s hoff htrip hmv => ?_, fun mv s htrip => ?_, fun i s t hi hoff htrip h => ?_, fun s hon => ⟨?_, fun ns hns => ?_, ?_, ?_⟩,
    fun s htrip => ?_⟩
  · simp [exec, execVinRise, hoff, htrip, Nat.not_lt.2 hmv]
  · simp [exec, execVinRise, htrip]
  · exact ((exec_thermtrip hi hoff).of_eq h).trans htrip
  · simp [exec, execPwrgdRelease, hon]
  · exact ⟨_, execResetNAssert_long hon hns, rfl, rfl, rfl, rfl, rfl, rfl, rfl, rfl, State.outlives_cleared _⟩
  · exact ⟨_, execUndervoltage_on hon, rfl, rfl, rfl, rfl, rfl, rfl, s.outlives_cleared⟩
  · exact ⟨_, execThermalTrip_on hon, rfl, rfl, rfl, rfl, rfl, s.outlives_cleared⟩
  · simp [exec, execThermtripRelease, htrip]
end

section
/-! SUPPORT. Sorting by a total order: the first of what is sorted goes before all of it. -/

namespace Sys2Proof.Machine

section
variable {α : Type} {le : α → α → Bool}

theorem mem_insertBy {x z : α} {l : List α} : z ∈ insertBy le x l ↔ z = x ∨ z ∈ l := by
  induction l with
  | nil => simp [insertBy]
  | cons y r ih =>
    unfold insertBy
    split
    · simp only [List.mem_cons, ih]
      exact or_left_comm
    · simp only [List.mem_cons]

/-- The first of a list goes before all of it. -/
def Leads (le : α → α → Bool) (l : List α) : Prop := ∀ h, l.head? = some h → ∀ x ∈ l, le h x = true

theorem Leads.insertBy (htotal : ∀ a b, le a b = true ∨ le b a = true) (htrans : ∀ a b c, le a b = true → le b c = true → le a c = true)
    {x : α} {l : List α} (h : Leads le l) : Leads le (insertBy le x l) := by
  cases l with
  | nil =>
    rintro _ ⟨⟩ y hy
    obtain rfl := List.mem_singleton.1 hy
    exact (htotal _ _).elim id id
  | cons y r =>
    have hy := h y rfl
    unfold Machine.insertBy
    split
    · next hle =>
      rintro _ ⟨⟩ z hz
      rcases List.mem_cons.1 hz with rfl | hz
      · exact hy _ List.mem_cons_self
      · rcases mem_insertBy.1 hz with rfl | hz
        · exact hle
        · exact hy z (List.mem_cons_of_mem _ hz)
    · next hle =>
      have hxy : le x y = true := (htotal x y).resolve_right hle
      rintro _ ⟨⟩ z hz
      rcases List.mem_cons.1 hz with rfl | hz
      · exact (htotal _ _).elim id id
      · exact htrans _ _ _ hxy (hy z hz)

theorem mem_sortBy {z : α} {l : List α} : z ∈ sortBy le l ↔ z ∈ l := by
  have h (r : List α) : z ∈ l.foldl (fun r x => insertBy le x r) r ↔ z ∈ r ∨ z ∈ l := by
    induction l generalizing r with
    | nil => simp
    | cons x l ih =>
      rw [List.foldl_cons, ih, mem_insertBy, List.mem_cons, or_comm (a := z = x), or_assoc]
  unfold sortBy
  simpa using h []

theorem leads_sortBy (htotal : ∀ a b, le a b = true ∨ le b a = true)
    (htrans : ∀ a b c, le a b = true → le b c = true → le a c = true) (l : List α) : Leads le (sortBy le l) :=
  List.foldlRecOn (motive := Leads le) l _ nofun fun _ hr _ _ => hr.insertBy htotal htrans

end

end Sys2Proof.Machine
end

section
/-! SUPPORT. The DRAM controllers: one of them, and the order in which a bank issues (R405). -/

namespace Sys2Proof.Machine

/-! ### One controller -/

theorem Dram.drc_updDrc (d : Dram) (ch j : Nat) (f : Drc → Drc) :
    (d.updDrc ch f).drc j = if j = ch then f (d.drc ch) else d.drc j := Tab.get_upd ..

@[simp] theorem Dram.drc_updDrc_self (d : Dram) (ch : Nat) (f : Drc → Drc) : (d.updDrc ch f).drc ch = f (d.drc ch) := by
  rw [Dram.drc_updDrc, if_pos rfl]

theorem Dram.drc_updDrc_ne (d : Dram) {ch j : Nat} (f : Drc → Drc) (h : j ≠ ch) : (d.updDrc ch f).drc j = d.drc j := by
  rw [Dram.drc_updDrc, if_neg h]

/-! ### The order of a bank -/

/-- A deadline among others: none goes last. -/
def deadlineRank : Option Nat → WithTop ℕ
  | some x => x
  | none => ⊤

/-- The place of an entry in the order of R405. -/
def Drc.rank (d : Drc) (t : Nat) (r : DramReq) : ℕᵒᵈ ×ₗ WithTop ℕ ×ₗ ℕ ×ₗ ℕ :=
  toLex (OrderDual.toDual (d.urgency r t), toLex (deadlineRank r.deadline, toLex (r.at_, r.port)))

theorem Drc.before_iff (d : Drc) (t : Nat) (a b : DramReq) : d.before t a b = true ↔ d.rank t a ≤ d.rank t b := by
  unfold Drc.before Drc.rank
  simp only [Prod.Lex.toLex_le_toLex, OrderDual.toDual_lt_toDual, OrderDual.toDual_inj]
  cases a.deadline <;> cases b.deadline <;> simp [deadlineRank] <;> grind

theorem Drc.before_total (d : Drc) (t : Nat) (a b : DramReq) : d.before t a b = true ∨ d.before t b a = true := by
  simp only [Drc.before_iff]
  exact le_total ..

theorem Drc.before_trans (d : Drc) (t : Nat) (a b c : DramReq) (hab : d.before t a b = true) (hbc : d.before t b c = true) :
    d.before t a c = true := by
  simp only [Drc.before_iff] at *
  exact hab.trans hbc

/-- What a bank issues next can be served, and nothing that it can serve goes before it. -/
theorem Drc.pick_leads {d : Drc} {bank t : Nat} {r : DramReq} (h : d.pick bank t = some r) :
    r ∈ d.served bank ∧ ∀ x ∈ d.served bank, d.before t r x = true := by
  have hlead := leads_sortBy (d.before_total t) (d.before_trans t) (d.served bank) r h
  exact ⟨mem_sortBy.1 (List.mem_of_head? h), fun x hx => hlead x (mem_sortBy.2 hx)⟩

end Sys2Proof.Machine
end

section
/-! SUPPORT. A stream that stops, and its resynchronisation: what they keep of shared copies, and that they only end work (R108, R310,
R402). -/

namespace Sys2Proof.Machine

namespace Core.Keeps

variable {c k : Core}

theorem foldl {α : Type} (h : c.Keeps k) (l : List α) {f : Core → α → Core} (hf : ∀ d x, c.Keeps d → c.Keeps (f d x)) :
    c.Keeps (l.foldl f k) :=
  List.foldlRecOn (motive := c.Keeps) l f h fun d hd x _ => hf d x hd

theorem updCtx (h : c.Keeps k) (j : Nat) (f : Ctx → Ctx) : c.Keeps (k.updCtx j f) := h.of_eq rfl rfl

theorem dropDecodes (h : c.Keeps k) (j : Nat) (p : Run → Bool) : c.Keeps (k.dropDecodes j p) := h.of_eq rfl rfl

theorem draw (h : c.Keeps k) : c.Keeps k.draw.2 := h.of_eq rfl rfl

theorem clips (h : c.Keeps k) (x : List Clip) : c.Keeps { k with clips := x } := h.of_eq rfl rfl

theorem updQ (h : c.Keeps k) (q : Nat) (f : Queue → Queue) : c.Keeps (k.updQ q f) := h.of_eq rfl rfl

theorem dropClipRuns (h : c.Keeps k) (binding : Nat) : c.Keeps (k.dropClipRuns binding) := h.of_eq rfl rfl

theorem updRun (h : c.Keeps k) (n : Nat) (f : Run → Run) : c.Keeps (k.updRun n f) := h.of_eq rfl rfl

theorem chaff (h : c.Keeps k) (now cause : Nat) (i : Inst) : c.Keeps (k.chaff now cause i) := by
  unfold Core.chaff
  exact h.of_eq (Core.putRec_parts ..) (Core.putRec_copies ..)

theorem completeLate (h : c.Keeps k) (q op : Nat) (want : Bool) (x : Cpl) : c.Keeps (k.completeLate q op want x) :=
  h.of_eq (Core.completeLate_parts ..) (Core.completeLate_copies ..)

theorem finishClips (h : c.Keeps k) (now reason : Nat) (p : Clip → Bool) : c.Keeps (k.finishClips now reason p) := by
  unfold Core.finishClips
  exact h.foldl _ fun d x hd => .ite (hd.clips _) (.endClip (hd.dropClipRuns _) ..)

theorem failFeed (h : c.Keeps k) (now j : Nat) : c.Keeps (k.failFeed now j) := by
  unfold Core.failFeed
  simp only
  split
  · exact h
  · exact .complete (.updQ (h.updCtx ..) ..) ..

theorem stopStream (h : c.Keeps k) (now j reason pic : Nat) (off : Option Nat) : c.Keeps (k.stopStream now j reason pic off) := by
  unfold Core.stopStream
  simp only
  generalize hdrop : (Core.updCtx _ j _).dropDecodes j _ = d
  have hd : c.Keeps d := hdrop ▸ (h.draw.updCtx j _).dropDecodes ..
  exact .failFeed (.finishClips (.clips (.foldl hd _ fun _ i hd => hd.endInst ..) _) ..) ..

theorem failInst (h : c.Keeps k) (now : Nat) (i : Inst) (st : Status) : c.Keeps (k.failInst now i st) := by
  unfold Core.failInst
  split
  · exact h.endInst ..
  · exact h.draw.endInst ..

theorem abandon (h : c.Keeps k) (now cause : Nat) (i : Inst) : c.Keeps (k.abandon now cause i) := by
  unfold Core.abandon
  refine .failInst (.chaff (.foldl h _ fun d r hd => ?_) ..) ..
  obtain ⟨n, m, hdrawn⟩ := d.drawn_cases r
  have hfree : c.Keeps { d with free := n } := hd.of_eq rfl rfl
  simp only [hdrawn]
  exact hfree.updRun ..

theorem reopen (h : c.Keeps k) (j : Nat) : c.Keeps (k.reopen j) := by
  unfold Core.reopen Core.prunePics
  exact .updCtx (h.updCtx ..) ..

theorem finishResync (h : c.Keeps k) (now j : Nat) : c.Keeps (k.finishResync now j) := by
  unfold Core.finishResync
  simp only
  split
  · exact h
  · have hgone : c.Keeps ((k.abandonPics now (k.undecoded j)).dropDecodes j fun _ => true) :=
      .dropDecodes (.foldl h _ fun _ i hd => hd.abandon ..) ..
    exact .completeLate (.ite (hgone.updCtx ..) (.reopen (hgone.updCtx ..) _)) ..

end Core.Keeps

theorem Core.Ends.reopen {c k : Core} (h : c.Ends k) (j : Nat) : c.Ends (k.reopen j) := by
  unfold Core.reopen Core.prunePics
  exact .updCtx (h.updCtx ..) ..

theorem Core.Ends.finishResync {c k : Core} (h : c.Ends k) (now j : Nat) : c.Ends (k.finishResync now j) := by
  unfold Core.finishResync
  simp only
  split
  · exact h
  · have hgone : c.Ends ((k.abandonPics now (k.undecoded j)).dropDecodes j fun _ => true) :=
      .dropDecodes (.foldl h _ fun hd i => hd.abandon ..) ..
    exact .completeLate (.ite (hgone.updCtx ..) (.reopen (hgone.updCtx ..) _)) ..

/-- Where a word is lost, a command that reads it ends without a commit; a stream that stops with it commits nothing either (R169,
R402). -/
theorem State.lostAt_ends {s : State} {k : Nat} {x : Run} (hx : s.core.run? k = some x) (hpost : x.post = .none) (dram : Bool) :
    (s.lostAt x dram none).core.run? k = none ∧ s.core.Keeps (s.lostAt x dram none).core ∧
      (s.lostAt x dram none).mend = s.mend ∧ (s.lostAt x dram none).dram = s.dram := by
  have hid : x.id = k := Core.run?_id hx
  have hfail (p : Run → Bool) (hp : p x = true) : s.failAt k .dataLost p =
      { s with core := s.core.failRun s.tick.count (s.owed x) .dataLost } := by
    simp [State.failAt, hx, hpost, hp]
  have hgone : (s.core.failRun s.tick.count (s.owed x) .dataLost).run? k = none :=
    hid ▸ (s.core.failRun_over _ (s.owed x) rfl).2
  have hkeeps : s.core.Keeps (s.core.failRun s.tick.count (s.owed x) .dataLost) := s.core.failRun_keeps _ hpost rfl
  have hfailed (p : Run → Bool) (hp : p x = true) : (s.failAt k .dataLost p).core.run? k = none ∧
      s.core.Keeps (s.failAt k .dataLost p).core ∧ (s.failAt k .dataLost p).mend = s.mend ∧
      (s.failAt k .dataLost p).dram = s.dram := by
    rw [hfail p hp]
    exact ⟨hgone, hkeeps, rfl, rfl⟩
  unfold State.lostAt
  simp only [hpost, hid]
  generalize hu : s.failAt k .dataLost _ = u
  have hu : u.core.run? k = none ∧ s.core.Keeps u.core ∧ u.mend = s.mend ∧ u.dram = s.dram := hu ▸ hfailed _ rfl
  split
  · exact hu
  · split
    · exact hu
    · split
      · obtain ⟨hgone, hkeeps, hrest⟩ := hu
        exact ⟨(((Core.Ends.refl _).stopStream ..).finishResync ..).gone _ hgone, (hkeeps.stopStream ..).finishResync .., hrest⟩
      · exact hu

end Sys2Proof.Machine
end

section
/-! SUPPORT. The rows of the DRAM controllers (R402 to R408). -/

namespace Sys2Proof.Machine

/-! ### Entry -/

/-- The first of those that are set is what it is set to. -/
theorem find?_listSet {α : Type} {l : List α} {p : α → Bool} {w v : α} (h : l.find? p = some w) (hv : p v = true) :
    (listSet l p fun _ => v).find? p = some v := by
  induction l with
  | nil => cases h
  | cons x l ih =>
    unfold listSet at ih ⊢
    cases hx : p x with
    | true => simp [hx, hv]
    | false =>
      rw [List.find?_cons_of_neg (by simp [hx])] at h
      simpa [hx] using ih h

section
variable {ch : Nat} {s : State}

theorem execDramRequestEntry_ready (h : s.dram.ready ch = true) (r : DramReq) : execDramRequestEntry ch r s = .next { s with
    dram := s.dram.updDrc ch fun d => if r.write then d.enterWrite (DramReq.planned r) else d.enterRead (DramReq.planned r) } := by
  simp [execDramRequestEntry, h]

theorem execDramBankIssue_ready (h : s.dram.ready ch = true) (hr : s.dram.refresh = false) (bank t : Nat) :
    execDramBankIssue ch bank t s = .next { s with dram := s.dram.updDrc ch fun d => d.issue bank t } := by
  simp [execDramBankIssue, h, hr]

end

section
variable {d : Drc} {r : DramReq}

theorem Drc.enterRead_full (h : 128 ≤ d.readQ.length) : d.enterRead r = d := by simp [Drc.enterRead, h]

theorem Drc.enterRead_forwarded (h : d.readQ.length < 128) (hw : ∃ w ∈ d.writeQ, w.line = r.line) :
    d.enterRead r = { d with fwd := min 0xFFFFFFFF (d.fwd + 1) } := by
  have hany : d.writeQ.any (·.line == r.line) = true := by simpa using hw
  simp [Drc.enterRead, Nat.not_le.2 h, hany, satAdd]

theorem Drc.enterRead_queued (h : d.readQ.length < 128) (hw : ∀ w ∈ d.writeQ, w.line ≠ r.line) :
    d.enterRead r = { d with readQ := d.readQ ++ [r] } := by
  have hany : d.writeQ.any (·.line == r.line) = false := by simpa using hw
  simp [Drc.enterRead, Nat.not_le.2 h, hany]

/-- A write joins the bytes of one to its line (R406). -/
theorem Drc.enterWrite_merged {w : DramReq} (h : d.writeQ.find? (·.line == r.line) = some w) :
    ∃ w', (d.enterWrite r).writeQ.find? (·.line == r.line) = some w' ∧ w'.id = w.id ∧ w'.be = w.be ||| r.be ∧
      (d.enterWrite r).writeQ.length = d.writeQ.length := by
  have hline : w.line = r.line := by simpa using List.find?_some h
  simp only [Drc.enterWrite, h]
  exact ⟨_, find?_listSet h (by simp [hline]), rfl, rfl, by simp [listSet]⟩

theorem Drc.enterWrite_queued (h : d.writeQ.length < 64) (hw : ∀ w ∈ d.writeQ, w.line ≠ r.line) :
    (d.enterWrite r).writeQ = d.writeQ ++ [r] := by
  have hnone : d.writeQ.find? (·.line == r.line) = none := by simpa using hw
  simp [Drc.enterWrite, hnone, Nat.not_le.2 h]

/-! ### Issue -/

@[simp] theorem Drc.lateAt_writeQ (t : Nat) : (d.lateAt r t).writeQ = d.writeQ := by unfold Drc.lateAt; split <;> rfl
@[simp] theorem Drc.lateAt_issued (t : Nat) : (d.lateAt r t).issued = d.issued := by unfold Drc.lateAt; split <;> rfl
@[simp] theorem Drc.lateAt_ue (t : Nat) : (d.lateAt r t).ue = d.ue := by unfold Drc.lateAt; split <;> rfl

theorem Drc.issue_read {bank t : Nat} (h : d.pick bank t = some r) (hr : r.write = false) :
    (d.issue bank t).issued = d.issued ++ [r] ∧ (d.issue bank t).readQ = d.readQ.filter (·.id != r.id) := by
  simp [Drc.issue, h, hr]

theorem Drc.issue_write {bank t : Nat} (h : d.pick bank t = some r) (hr : r.write = true) (hfill : r.id ∉ d.fills) :
    (d.issue bank t).writeQ = d.writeQ.filter (·.id != r.id) := by
  simp [Drc.issue, h, hr, hfill]

theorem Drc.retire_read {t : Nat} {bad : Bool} (hr : r.write = false) :
    (d.retire r t bad).issued = d.issued.filter (·.id != r.id) ∧ (d.retire r t bad).ue = d.ue := by
  simp [Drc.retire, hr]

theorem DramReq.found_read (hr : r.write = false) (half : Nat) (e : Ecc) : DramReq.found r half e = e := by
  simp [DramReq.found, hr]

theorem Drc.badReturn_read (hr : r.write = false) (e0 e1 : Ecc) : d.badReturn r e0 e1 = (Ecc.bad e0 || Ecc.bad e1) := by
  have hnone : d.writeQ.find? (fun x => r.write && x.id == r.id) = none := by simp [hr]
  simp only [Drc.badReturn, hnone, Option.getD_none, DramReq.found_read hr]

end

/-! ### The mending log -/

section
variable (s : State) (b : Nat) (e : LogEntry)

@[simp] theorem State.mendBit_dram : (s.mendBit b).dram = s.dram := by unfold State.mendBit; split <;> rfl
@[simp] theorem State.mendBit_logCount : (s.mendBit b).mend.logCount = s.mend.logCount := by unfold State.mendBit; split <;> rfl
@[simp] theorem State.mendBit_runs : (s.mendBit b).core.runs = s.core.runs := by unfold State.mendBit; split <;> simp
@[simp] theorem State.mendBit_copies : (s.mendBit b).core.copies = s.core.copies := by unfold State.mendBit; split <;> simp

@[simp] theorem State.mendLog_dram : (s.mendLog e).dram = s.dram := by
  unfold State.mendLog
  simp only [State.mendBit_dram]
  split <;> simp

@[simp] theorem State.mendLog_logCount : (s.mendLog e).mend.logCount = s.mend.logCount + 1 := by
  unfold State.mendLog
  simp only [State.mendBit_logCount]
  split <;> simp

@[simp] theorem State.mendLog_runs : (s.mendLog e).core.runs = s.core.runs := by
  unfold State.mendLog
  simp only [State.mendBit_runs]
  split <;> simp

@[simp] theorem State.mendLog_copies : (s.mendLog e).core.copies = s.core.copies := by
  unfold State.mendLog
  simp only [State.mendBit_copies]
  split <;> simp

end

/-! ### Return -/

section
variable {ch id t : Nat} {s : State} {r : DramReq}

theorem execDramReadReturn_clean (hr : (s.dram.drc ch).issued.find? (·.id == id) = some r) (hw : r.write = false) :
    execDramReadReturn ch id t .clean .clean none s = .next { s with dram := s.dram.updDrc ch fun d => d.retire r t false } := by
  have hclean (d : Drc) : d.count .clean = d := rfl
  simp [execDramReadReturn, hr, DramReq.found_read hw, Drc.badReturn_read hw, Ecc.bad, hclean]

/-- The state in which an uncorrectable read has returned, is counted and logged (R402). -/
def State.readLost (s : State) (ch t : Nat) (r : DramReq) : State :=
  State.mendLog { s with dram := s.dram.updDrc ch fun d => (d.count .uncorrectable).retire r t true } { kind := 1, tier := 2, unit := ch }

theorem execDramReadReturn_lost {k : Nat} {x : Run} (hr : (s.dram.drc ch).issued.find? (·.id == id) = some r) (hw : r.write = false)
    (hk : r.run = some k) (hx : s.core.run? k = some x) :
    execDramReadReturn ch id t .clean .uncorrectable none s = .next ((s.readLost ch t r).lostAt x true none) := by
  have hruns : (s.readLost ch t r).core.run? k = some x := (Core.run?_of_runs (State.mendLog_runs ..) k).trans hx
  have hlost : State.logError { s with dram := s.dram.updDrc ch fun d => (d.count .uncorrectable).retire r t true } 2 ch none =
      s.readLost ch t r := rfl
  have hclean (d : Drc) : d.count .clean = d := rfl
  simp [execDramReadReturn, hr, DramReq.found_read hw, Drc.badReturn_read hw, Ecc.bad, hclean, hk, hlost, hruns]

end

end Sys2Proof.Machine

open Sys2Proof Sys2Proof.Machine

/-- Settles O49: each row is the operation of its controller, and a bank issues the first of what it can serve in a total order. -/
theorem dramRowsFollowTheOrder : Obligations.DramRowsFollowTheOrder := by
  refine ⟨fun ch r s hready => ?_, fun ch id t s r hr => ?_, fun ch bank t s r hready hrefresh hpick => ?_,
    fun ch bank t s hrefresh => ?_, fun ch id t s r hr hw => ⟨?_, fun k x hk hx hpost => ?_⟩, fun s => ⟨fun hup hsr => ?_, rfl⟩⟩
  · refine ⟨_, execDramRequestEntry_ready hready r, rfl, fun j hj => Dram.drc_updDrc_ne _ _ hj, fun hw => ?_, fun hw => ?_⟩
    · simp only [Dram.drc_updDrc_self, hw, Bool.false_eq_true, if_false]
      exact ⟨fun h => Drc.enterRead_full h, fun h hline => Drc.enterRead_forwarded (r := DramReq.planned r) h hline,
        fun h hline => Drc.enterRead_queued (r := DramReq.planned r) h hline⟩
    · simp only [Dram.drc_updDrc_self, hw, if_true]
      exact ⟨fun w h => Drc.enterWrite_merged (r := DramReq.planned r) h,
        fun h hline => Drc.enterWrite_queued (r := DramReq.planned r) h hline⟩
  · have hexec : execDramUrgencyRise ch id t s = .next { s with
        dram := s.dram.updDrc ch fun d => { d with urg := Tab.upd 0 d.urg id fun u => max u (urgencyAt r t) } } := by
      simp only [execDramUrgencyRise, hr]
    exact ⟨_, hexec, rfl, by simp⟩
  · obtain ⟨hserved, hfirst⟩ := Drc.pick_leads hpick
    refine ⟨hserved, hfirst, _, execDramBankIssue_ready hready hrefresh bank t, rfl, fun hw => ?_, fun hw hfill => ?_⟩
    · simp only [Dram.drc_updDrc_self]
      exact Drc.issue_read hpick hw
    · simp only [Dram.drc_updDrc_self]
      exact Drc.issue_write hpick hw hfill
  · simp [exec, execDramBankIssue, hrefresh]
  · have hid : r.id = id := by simpa using List.find?_some hr
    refine ⟨_, execDramReadReturn_clean hr hw, rfl, ?_⟩
    simp only [Dram.drc_updDrc_self, (Drc.retire_read hw).1, hid]
  · have hruns : (s.readLost ch t r).core.run? k = some x := (Core.run?_of_runs (State.mendLog_runs ..) k).trans hx
    obtain ⟨hgone, hkeeps, hmend, hdram⟩ := State.lostAt_ends hruns hpost true
    refine ⟨_, execDramReadReturn_lost hr hw hk hx, hgone, fun p b => (hkeeps.shared p b).trans ?_, ?_, ?_⟩
    · simp [Core.copy, State.readLost]
    · rw [hmend]
      exact State.mendLog_logCount ..
    · rw [hdram]
      simp [State.readLost, (Drc.retire_read hw).2, Drc.count, satAdd]
  · simp [exec, execRefreshWindowStart, hup, hsr]
end

section
/-! SUPPORT. Ports and flits: what a flit that leaves does to a port, and what one that arrives leaves of its port (R417, R418, R425,
R429). -/

namespace Sys2Proof.Machine

/-! ### Tables and ports -/

theorem Tab.del_put {α : Type} (t : Tab α) (k : Nat) (v : α) : Tab.del k (Tab.put k v t) = Tab.del k t := by
  induction t with
  | nil => simp [Tab.put, Tab.del]
  | cons e r ih =>
    obtain ⟨j, w⟩ := e
    unfold Tab.put
    split
    · simp [Tab.del]
    · simp only [Tab.del, ih]

theorem Tab.del_del {α : Type} (t : Tab α) (k : Nat) : Tab.del k (Tab.del k t) = Tab.del k t := by
  induction t with
  | nil => rfl
  | cons e r ih =>
    obtain ⟨j, w⟩ := e
    simp only [Tab.del]
    split
    · exact ih
    · next h => simp only [Tab.del, h, if_false, ih]

theorem Tab.set_set {α : Type} [DecidableEq α] (d : α) (t : Tab α) (k : Nat) (v w : α) :
    Tab.set d (Tab.set d t k v) k w = Tab.set d t k w := by
  have hdel : Tab.del k (Tab.set d t k v) = Tab.del k t := by
    unfold Tab.set
    split
    · exact Tab.del_del ..
    · rw [Tab.del_put, Tab.del_del]
  unfold Tab.set at hdel ⊢
  simp only [hdel]

/-- Two changes of an entry are one. -/
theorem Tab.upd_upd {α : Type} [DecidableEq α] (d : α) (t : Tab α) (k : Nat) (f g : α → α) :
    Tab.upd d (Tab.upd d t k f) k g = Tab.upd d t k fun x => g (f x) := by
  unfold Tab.upd
  rw [Tab.get_set_self, Tab.set_set]

theorem State.updPort_updPort (s : State) (p : Nat) (f g : Port → Port) :
    (s.updPort p f).updPort p g = s.updPort p fun x => g (f x) := by
  simp only [State.updPort, State.updLink, Link.updPort, Tab.upd_upd]

theorem State.updPort_congr {s : State} {p : Nat} {f g : Port → Port} (h : f (s.link.port p) = g (s.link.port p)) :
    s.updPort p f = s.updPort p g := by
  unfold Link.port at h
  simp only [State.updPort, State.updLink, Link.updPort, Tab.upd, h]

theorem Link.port_updPort (l : Link) (p j : Nat) (f : Port → Port) :
    (l.updPort p f).port j = if j = p then f (l.port p) else l.port j := Tab.get_upd ..

@[simp] theorem Link.port_updPort_self (l : Link) (p : Nat) (f : Port → Port) : (l.updPort p f).port p = f (l.port p) := by
  rw [Link.port_updPort, if_pos rfl]

@[simp] theorem State.port_updPort_self (s : State) (p : Nat) (f : Port → Port) :
    (s.updPort p f).link.port p = f (s.link.port p) := Link.port_updPort_self ..

/-! ### A flit that leaves -/

/-- What a port has of its neighbour and of what arrives: a flit that leaves changes none of it. -/
def Port.inbound (x : Port) : Nat × Bool × Nat × Nat × Nat × Nat := (x.state, x.frozen, x.neigh, x.delay, x.expSeq, x.fails)

theorem Port.inbound_eq {x y : Port} : y.inbound = x.inbound ↔ y.state = x.state ∧ y.frozen = x.frozen ∧ y.neigh = x.neigh ∧
    y.delay = x.delay ∧ y.expSeq = x.expSeq ∧ y.fails = x.fails := by
  simp [Port.inbound]

@[simp] theorem Port.send_inbound (x : Port) (f : Flit) : (x.send f).inbound = x.inbound := by
  unfold Port.send
  split
  · rfl
  · split <;> rfl

@[simp] theorem Link.launch_port_inbound (l : Link) (from_ : Option Nat) (f : Flit) (p : Nat) :
    ((l.launch from_ f).port p).inbound = (l.port p).inbound := by
  have hsend (m : Link) (q : Nat) : ((m.updPort q fun x => x.send f).port p).inbound = (m.port p).inbound := by
    rw [Link.port_updPort]
    split
    · next h => rw [Port.send_inbound, h]
    · rfl
  unfold Link.launch
  split
  · exact List.foldlRecOn (motive := fun m : Link => (m.port p).inbound = (l.port p).inbound) _ _ rfl fun m hm q _ =>
      (hsend m q).trans hm
  · split
    · exact hsend ..
    · rfl

/-- A broadcast leaves by the ports that are up (R436). -/
theorem Link.launch_port_of_down {l : Link} {p : Nat} (h : (l.port p).state ≠ 2) (from_ : Option Nat) {f : Flit}
    (hf : f.dest = 0xFFFF) : (l.launch from_ f).port p = l.port p := by
  unfold Link.launch
  rw [if_pos (by simp [hf])]
  refine List.foldlRecOn (motive := fun m : Link => m.port p = l.port p) _ _ rfl fun m hm q hq => ?_
  have hup : (l.port q).state = 2 := by
    obtain ⟨hq, -⟩ := List.mem_filter.1 hq
    simpa [Link.upPorts] using (List.mem_filter.1 hq).2
  rw [Link.port_updPort, if_neg (by rintro rfl; exact h hup), hm]

@[simp] theorem Link.launch_store (l : Link) (from_ : Option Nat) (f : Flit) : (l.launch from_ f).store = l.store := by
  obtain ⟨ports, n, h⟩ := l.launch_eq from_ f
  rw [h]
@[simp] theorem Link.launch_notices (l : Link) (from_ : Option Nat) (f : Flit) : (l.launch from_ f).notices = l.notices := by
  obtain ⟨ports, n, h⟩ := l.launch_eq from_ f
  rw [h]
@[simp] theorem Link.launch_strapped (l : Link) (from_ : Option Nat) (f : Flit) : (l.launch from_ f).strapped = l.strapped := by
  obtain ⟨ports, n, h⟩ := l.launch_eq from_ f
  rw [h]
@[simp] theorem Link.launch_seenTicks (l : Link) (from_ : Option Nat) (f : Flit) : (l.launch from_ f).seenTicks = l.seenTicks := by
  obtain ⟨ports, n, h⟩ := l.launch_eq from_ f
  rw [h]
@[simp] theorem Link.launch_master (l : Link) (from_ : Option Nat) (f : Flit) : (l.launch from_ f).master = l.master := by
  obtain ⟨ports, n, h⟩ := l.launch_eq from_ f
  rw [h]

/-! ### A flit that has arrived -/

/-- What the delivery or the passing on of a flit leaves: what its port has received, the store, the tick. -/
structure State.Received (p : Nat) (s t : State) : Prop where
  expSeq : (t.link.port p).expSeq = (s.link.port p).expSeq
  fails : (t.link.port p).fails = (s.link.port p).fails
  store : t.link.store = s.link.store
  tick : t.tick = s.tick

namespace State.Received

variable {p : Nat} {s t u : State}

theorem refl (s : State) : s.Received p s := ⟨rfl, rfl, rfl, rfl⟩

theorem trans (h : State.Received p s t) (h' : State.Received p t u) : State.Received p s u :=
  ⟨h'.expSeq.trans h.expSeq, h'.fails.trans h.fails, h'.store.trans h.store, h'.tick.trans h.tick⟩

theorem ite {q : Prop} [Decidable q] (ht : State.Received p s t) (hu : State.Received p s u) :
    State.Received p s (if q then t else u) := by
  split
  · exact ht
  · exact hu

/-- A flit that leaves. -/
theorem launch (from_ : Option Nat) (f : Flit) (hp : u.link.ports = (s.link.launch from_ f).ports)
    (hs : u.link.store = s.link.store) (ht : u.tick = s.tick) : State.Received p s u := by
  have hport : u.link.port p = (s.link.launch from_ f).port p := by simp only [Link.port, hp]
  obtain ⟨-, -, -, -, hexp, hfails⟩ := Port.inbound_eq.1 (s.link.launch_port_inbound from_ f p)
  exact ⟨hport ▸ hexp, hport ▸ hfails, hs, ht⟩

/-- A change of the port itself. -/
theorem updPort (s : State) {f : Port → Port} (hexp : ∀ x, (f x).expSeq = x.expSeq) (hfails : ∀ x, (f x).fails = x.fails) :
    State.Received p s (s.updPort p f) := ⟨by simp [hexp], by simp [hfails], rfl, rfl⟩

theorem freezePort (s : State) (src unit window : Nat) : State.Received p s (s.freezePort p src unit window) := by
  have hfrozen : State.Received p s (s.updPort p fun x => { x with frozen := true }) := .updPort s (fun _ => rfl) fun _ => rfl
  exact hfrozen.trans ⟨rfl, rfl, rfl, rfl⟩

theorem reply (s : State) (dest id : Nat) (r : Reply) : State.Received p s (s.reply dest id r) :=
  .launch none (s.mgmtFlit dest 0x20) rfl (Link.launch_store ..) rfl

theorem deadLetter (s : State) (src id : Nat) : State.Received p s (s.deadLetter src id) := by
  have hcount : State.Received p s (s.updLink fun l => { l with dead := satAdd 0xFFFFFFFF l.dead 1 }) := ⟨rfl, rfl, rfl, rfl⟩
  exact hcount.trans (.reply ..)

theorem deliverFlit (s : State) (f : Flit) : State.Received p s (s.deliverFlit p f) := by
  unfold State.deliverFlit
  refine .ite (.refl s) (.ite (.ite (.freezePort ..) (.ite (.deadLetter ..) (.refl s))) ?_)
  split
  · exact .freezePort ..
  · exact .refl s

/-- Wherever a flit goes, its port has received what it had (R425, R429). -/
theorem routeFlit (s : State) (f : Flit) : State.Received p s (s.routeFlit p f) := by
  have hlaunch : State.Received p s (s.updLink fun l => l.launch (some p) f) :=
    .launch (some p) f rfl (Link.launch_store ..) rfl
  have hseen : State.Received p s (s.updLink fun l => { l.launch (some p) f with seen := l.seen ++ [{ f with seq := 0 }] }) :=
    .launch (some p) f rfl (Link.launch_store ..) rfl
  unfold State.routeFlit
  exact .ite (.refl s) (.ite (.updPort s (fun _ => rfl) fun _ => rfl) (.ite (.refl s) (.ite (.ite (.refl s)
    (hseen.trans (.deliverFlit ..))) (.ite (.deliverFlit ..) hlaunch))))

end State.Received

end Sys2Proof.Machine
end

section
/-! SUPPORT. Ports that come up and go down (R415, R417, R426, R436). -/

namespace Sys2Proof.Machine

/-- The neighbour of a port is known, and the port is up (R426). -/
def State.greeted (s : State) (p : Nat) (h : Hello) : State :=
  State.updPort { s with core := { s.core with free := s.core.free + 1 } } p fun x => { x with
    state := 2, neigh := h.id % 65536, neighStrap := h.strap, neighEpoch := h.epoch % 65536, delay := h.delay % 2 ^ 24
    neighCount := h.count, upTicks := 0 }

/-- A strapped neighbour is known as one (R430). -/
def State.strapKnown (s : State) (h : Hello) : State :=
  if h.strap && h.id % 65536 != 0 then s.updLink fun l => { l with strapped := (l.strapped ++ [h.id % 65536]).dedup } else s

section
variable (s : State) (p : Nat) (h : Hello)

theorem State.strapKnown_keeps : (s.strapKnown h).link.port p = s.link.port p ∧ (s.strapKnown h).tick = s.tick ∧
    (s.strapKnown h).led = s.led ∧ (s.strapKnown h).fw = s.fw := by
  unfold State.strapKnown
  split
  · exact ⟨rfl, rfl, rfl, rfl⟩
  · exact ⟨rfl, rfl, rfl, rfl⟩

theorem State.strapKnown_strapped (hs : h.strap = true) (hid : h.id % 65536 ≠ 0) :
    h.id % 65536 ∈ (s.strapKnown h).link.strapped := by
  simp [State.strapKnown, State.updLink, hs, hid]

variable {s p h}

theorem execHello_trained (hlive : s.linkLive p = true) (hstate : (s.link.port p).state = 1) (hlanes : (s.link.port p).lanes = 0xFF) :
    execHello p h s = .next (((s.greeted p h).strapKnown h).updPort p fun x => x.send s.helloFlit) := by
  simp only [execHello, hlive, hstate, hlanes]
  rfl

/-- A HELLO brings the port up; this module's own HELLO leaves by it (R426). -/
theorem State.greeted_up (f : Flit) : ((((s.greeted p h).strapKnown h).updPort p fun x => x.send f).link.port p).state = 2 ∧
    ((((s.greeted p h).strapKnown h).updPort p fun x => x.send f).link.port p).neigh = h.id % 65536 ∧
    ((((s.greeted p h).strapKnown h).updPort p fun x => x.send f).link.port p).delay = h.delay % 2 ^ 24 := by
  obtain ⟨hport, -⟩ := (s.greeted p h).strapKnown_keeps p h
  have hsend := Port.send_inbound (((s.greeted p h).strapKnown h).link.port p) f
  obtain ⟨hstate, -, hneigh, hdelay, -⟩ := Port.inbound_eq.1 hsend
  rw [State.port_updPort_self, hstate, hneigh, hdelay, hport]
  simp [State.greeted]

end

section
variable {p : Nat} {s : State}

theorem State.broadcast_port_of_down (h : (s.link.port p).state ≠ 2) : s.broadcast.link.port p = s.link.port p :=
  Link.launch_port_of_down h none rfl

/-- A port that has gone down, before the chain hears of it. -/
def State.fallen (s : State) (p : Nat) : State := s.updPort p fun x => { x with
  state := 3, lanes := 0, held := [], upTicks := 0, downDrop := satAdd 0xFFFFFFFF x.downDrop x.held.length }

theorem State.portDown_of_up (hup : (s.link.port p).state = 2) : s.portDown p =
    if s.link.formed then ((s.fallen p).updLink fun l => { l with
      notices := l.notices ++ [((s.link.table.ends p).1, (s.link.table.ends p).2, true)] }).broadcast
    else s.fallen p := by
  unfold State.portDown
  simp only [hup]
  cases hf : s.link.formed with
  | true => simp [State.fallen, State.updPort, State.updLink, Link.updPort, hf]
  | false => simp [State.fallen, State.updPort, State.updLink, Link.updPort, hf]

/-- A port that goes down (R417, R436). -/
theorem State.portDown_down (hup : (s.link.port p).state = 2) : ((s.portDown p).link.port p).state = 3 ∧
    ((s.portDown p).link.port p).held = [] ∧
    ((s.portDown p).link.port p).downDrop = min 0xFFFFFFFF ((s.link.port p).downDrop + (s.link.port p).held.length) ∧
    (s.link.formed = true → (s.portDown p).link.notices =
      s.link.notices ++ [((s.link.table.ends p).1, (s.link.table.ends p).2, true)]) ∧ (s.portDown p).tick = s.tick := by
  have hport : (s.fallen p).link.port p = { s.link.port p with
      state := 3, lanes := 0, held := [], upTicks := 0
      downDrop := satAdd 0xFFFFFFFF (s.link.port p).downDrop (s.link.port p).held.length } := State.port_updPort_self ..
  have hfallen : ((s.fallen p).link.port p).state ≠ 2 := by simp [hport]
  rw [State.portDown_of_up hup]
  cases hf : s.link.formed with
  | true =>
    have hleft := State.broadcast_port_of_down (p := p) (s := (s.fallen p).updLink fun l => { l with
      notices := l.notices ++ [((s.link.table.ends p).1, (s.link.table.ends p).2, true)] }) hfallen
    rw [if_pos rfl, hleft.trans hport]
    exact ⟨rfl, rfl, rfl, fun _ => Link.launch_notices .., rfl⟩
  | false =>
    rw [if_neg (by decide), hport]
    exact ⟨rfl, rfl, rfl, nofun, rfl⟩

end

end Sys2Proof.Machine

open Sys2Proof Sys2Proof.Machine

/-- Settles O50: each row is the change of its port; a broadcast does not leave by a port that is down. -/
theorem portsTrainAndFail : Obligations.PortsTrainAndFail := by
  intro p s hlive
  refine ⟨fun lanes hstate => ⟨?_, ?_⟩, fun h hstate hlanes => ?_, fun hup i hi => ?_, fun hfails => ?_⟩
  · simp [exec, execPortTraining, hlive, hstate]
  · simp [exec, execPortTraining, hlive, hstate]
  · obtain ⟨hup, hneigh, hdelay⟩ := State.greeted_up (s := s) (p := p) (h := h) s.helloFlit
    obtain ⟨-, htick, hled, hfw⟩ := (s.greeted p h).strapKnown_keeps p h
    exact ⟨_, execHello_trained hlive hstate hlanes, hup, hneigh, hdelay, State.strapKnown_strapped _ h, htick, hled, hfw⟩
  · have hup' : s.portUp p = true := by simp [State.portUp, hlive, hup]
    have hexec : exec i s = .next (s.portDown p) := by
      rcases hi with rfl | rfl | ⟨rfl, hfails⟩
      · simp [exec, execLaneLockLoss, hlive, hup]
      · simp [exec, execControlWordTimeout, hup']
      · simp [exec, execReplayLimit, hup', hfails]
    exact ⟨_, hexec, State.portDown_down hup⟩
  · simp [exec, execReplayLimit, Nat.not_le.2 hfails]
end

section
/-! SUPPORT. Flits and messages that arrive (R417, R418, R422, R424). -/

namespace Sys2Proof.Machine

section
variable {p fec : Nat} {f : Flit} {s : State}

/-- A flit whose CRC fails asks for a replay and goes no further (R417). -/
theorem execFlitReceive_bad (hup : s.portUp p = true) : execFlitReceive p f false fec s = .next (s.updPort p fun x => { x with
    fec := min 0xFFFFFFFF (x.fec + fec), replays := min 0xFFFFFFFF (x.replays + 1), fails := x.fails + 1 }) := by
  simp only [execFlitReceive, hup, Bool.not_true, Bool.false_eq_true, if_false, Bool.not_false, if_true, State.updPort_updPort, satAdd]

/-- One out of order is dropped. -/
theorem execFlitReceive_dropped (hup : s.portUp p = true) (hseq : f.seq ≠ (s.link.port p).expSeq) :
    execFlitReceive p f true fec s = .next (s.updPort p fun x => { x with fec := min 0xFFFFFFFF (x.fec + fec) }) := by
  simp [execFlitReceive, hup, hseq, satAdd]

/-- The port once a flit has come whole and in order (R418). -/
def State.consumed (s : State) (p fec : Nat) (f : Flit) : State :=
  (s.updPort p fun x => { x with fec := satAdd 0xFFFFFFFF x.fec fec }).updPort p fun x => { x with
    expSeq := (x.expSeq + 1) % 65536, fails := 0, returned := x.returned.set f.cls (x.returned.getD f.cls 0 + 1) }

theorem execFlitReceive_inOrder (hup : s.portUp p = true) (hseq : f.seq = (s.link.port p).expSeq) (hcls : f.cls ≤ 3) :
    execFlitReceive p f true fec s = .next ((s.consumed p fec f).routeFlit p f) := by
  simp [execFlitReceive, hup, hseq, Nat.not_lt.2 hcls, State.consumed]

/-- Credits and acknowledgements at a port that holds nothing (R418). -/
theorem execControlWordReceive_empty (hup : s.portUp p = true) (hheld : (s.link.port p).held = []) (credits : List Nat) (ack : Nat) :
    execControlWordReceive p credits ack s = .next (s.updPort p fun x => { x with
      credits := (List.range 4).map fun k => min (fullCredits.getD k 0) (x.credits.getD k 0 + credits.getD k 0)
      replay := ackReplay ack x.replay }) := by
  simp only [execControlWordReceive, hup, Bool.not_true, Bool.false_eq_true, if_false]
  exact congrArg _ (State.updPort_congr (by simp only [hheld, List.length_nil, Port.drain]))

end

/-! ### Messages at their windows -/

section
variable {p cls : Nat} {m : Msg} {s : State}

/-- A message within its window and of its epoch writes its bytes and is answered (R422, R424). -/
theorem State.deliver_within {w : LWin} (hreach : s.link.reach s.tick.count cls m.src m.unit m.window m.offset m.data.length = .within w)
    (hepoch : m.epoch = s.link.unitEpoch m.unit w) : s.deliver p cls m = (s.updLink fun l => { l with
      store := Tab.upd [] l.store m.unit fun x => Memory.write x (w.base + 8 * m.offset) m.data }).reply m.src m.id .done := by
  simp [State.deliver, hreach, hepoch]

/-- One to a role that has changed is a dead letter (R422). -/
theorem State.deliver_stale {w : LWin} (hreach : s.link.reach s.tick.count cls m.src m.unit m.window m.offset m.data.length = .within w)
    (hepoch : m.epoch ≠ s.link.unitEpoch m.unit w) : s.deliver p cls m = s.deadLetter m.src m.id := by
  simp [State.deliver, hreach, hepoch]

/-- One outside its grant freezes the port (R424). -/
theorem State.deliver_violation (hreach : s.link.reach s.tick.count cls m.src m.unit m.window m.offset m.data.length = .violation) :
    s.deliver p cls m = s.freezePort p m.src m.unit m.window := by
  simp [State.deliver, hreach]

@[simp] theorem State.reply_store (dest id : Nat) (r : Reply) : (s.reply dest id r).link.store = s.link.store := Link.launch_store ..
@[simp] theorem State.reply_dead (dest id : Nat) (r : Reply) : (s.reply dest id r).link.dead = s.link.dead := by
  obtain ⟨ports, n, h⟩ := s.reply_link dest id r
  rw [h]

end

/-- A freeze record counts, and its error bit is set (R379). -/
theorem Core.logFreeze_counts (c : Core) (r : List Byte) : (c.logFreeze r).host.frzCount = c.host.frzCount + 1 ∧
    bitAt 0 (c.logFreeze r).host.errCause = true := by
  refine ⟨?_, Core.errBit_set _ 0⟩
  have hbit (k : Core) (b : Nat) : (k.errBit b).host.frzCount = k.host.frzCount := by
    obtain ⟨x, e, h, -⟩ := k.errBit_host b
    rw [h]
  unfold Core.logFreeze
  simp only [hbit]
  split
  · simp only [hbit]
    rfl
  · rfl

end Sys2Proof.Machine

open Sys2Proof Sys2Proof.Machine

/-- Settles O51: an in-order flit leaves what its port has received, and a message is delivered, dead or a violation. -/
theorem flitsAndMessages : Obligations.FlitsAndMessages := by
  refine ⟨fun p fec f s hup => ⟨execFlitReceive_bad hup, execFlitReceive_dropped hup, fun hseq hcls => ?_⟩,
    fun p ack credits s hup hheld => execControlWordReceive_empty hup hheld credits ack, fun p cls m i s hopen hi => ?_⟩
  · obtain ⟨hexp, hfails, hstore, htick⟩ := State.Received.routeFlit (p := p) (s.consumed p fec f) f
    refine ⟨_, execFlitReceive_inOrder hup hseq hcls, hexp.trans ?_, hfails.trans ?_, hstore, htick⟩
    · simp [State.consumed]
    · simp [State.consumed]
  · have hexec : exec i s = .next (s.deliver p cls m) := by
      rcases hi with ⟨rfl, rfl⟩ | ⟨rfl, rfl⟩
      · simp [exec, execSeamMessage, hopen]
      · simp [exec, execBulkMessage, hopen]
    refine ⟨fun w hreach hepoch => ⟨_, hexec, ?_⟩, fun w hreach hepoch => ⟨_, hexec, ?_⟩, fun hreach => ⟨_, hexec, ?_⟩⟩
    · rw [State.deliver_within hreach hepoch]
      refine ⟨State.reply_replies .., State.reply_dead .., fun u x => ?_⟩
      rw [State.reply_store]
      simp only [State.updLink, Tab.get_upd]
      split
      · next h =>
        subst h
        simp [Memory.byte_write]
      · next h => simp [h]
    · rw [State.deliver_stale hreach hepoch]
      refine ⟨State.reply_replies .., ?_, State.reply_store ..⟩
      simp [State.deadLetter, State.updLink, satAdd]
    · rw [State.deliver_violation hreach]
      obtain ⟨hcount, hbit⟩ := Core.logFreeze_counts s.core
        (freezeBytes 4 p 0 0xFF s.tick.count (m.src % 65536 * 2 ^ 32 + m.unit % 256 * 2 ^ 16 + m.window % 256) 0)
      refine ⟨?_, rfl, hcount, hbit⟩
      have hfrozen := State.port_updPort_self s p fun x => { x with frozen := true }
      exact congrArg Port.frozen hfrozen
end

section
/-! SUPPORT. The lowest module ID (R430, R433). -/

namespace Sys2Proof.Machine

section
variable {l : List Nat} {m : Nat}

theorem lowest_head (h : l ≠ []) : (sortBy (fun a b => decide (a ≤ b)) l).head? = some (lowest l) := by
  unfold lowest
  cases hs : sortBy (fun a b => decide (a ≤ b)) l with
  | nil =>
    obtain ⟨x, hx⟩ := List.exists_mem_of_ne_nil l h
    have := mem_sortBy (le := fun a b => decide (a ≤ b)).2 hx
    simp [hs] at this
  | cons x r => rfl

theorem lowest_mem (h : l ≠ []) : lowest l ∈ l := mem_sortBy.1 (List.mem_of_head? (lowest_head h))

theorem lowest_le (h : m ∈ l) : lowest l ≤ m := by
  have hlead := leads_sortBy (le := fun a b => decide (a ≤ b)) (by simpa using Nat.le_total)
    (by simpa using fun a b c => Nat.le_trans) l (lowest l) (lowest_head (List.ne_nil_of_mem h)) m (mem_sortBy.2 h)
  simpa using hlead

end

/-- The lost master is no candidate. -/
theorem Link.not_mem_candidates (l : Link) (m : Nat) : m ∉ l.candidates (some m) := by simp [Link.candidates]

/-- A new master is not the one that is lost, where there was one (R433). -/
theorem Link.lowest_candidates_ne {l : Link} {m : Nat} (h : m ≠ 0) : lowest (l.candidates (some m)) ≠ m := by
  by_cases hnil : l.candidates (some m) = []
  · rw [hnil]
    exact h.symm
  · have hmem := lowest_mem hnil
    exact fun heq => l.not_mem_candidates m (by rwa [heq] at hmem)

/-! ### TICK flits -/

section
variable {p x : Nat} {k : TickPay} {s : State}

/-- What a TICK flit leaves alone, copy or not (R431). -/
theorem execTickFlit_hears (hup : s.portUp p = true) : ∃ t, execTickFlit p k x s = .next t ∧ k.tick ∈ t.link.seenTicks ∧
    (k.tick ∈ s.link.seenTicks → t.tick = s.tick) ∧
    (k.tick ∉ s.link.seenTicks → (s.link.master = 0 ∨ k.master ≤ s.link.master) →
      t.tick.heard = some k ∧ t.tick.heardNow = true ∧ k.master ∈ t.link.strapped) ∧
    t.tick.count = s.tick.count ∧ t.led = s.led ∧ t.link.master = s.link.master := by
  simp only [execTickFlit, hup, Bool.not_true, Bool.false_eq_true, if_false]
  by_cases hseen : k.tick ∈ s.link.seenTicks
  · rw [if_pos (by simpa [State.updPort, State.updLink, Link.updPort] using hseen)]
    exact ⟨_, rfl, hseen, fun _ => rfl, fun h => absurd hseen h, rfl, rfl, rfl⟩
  · rw [if_neg (by simpa [State.updPort, State.updLink, Link.updPort] using hseen)]
    refine ⟨_, rfl, ?_, fun h => absurd h hseen, fun _ hmaster => ?_, rfl, rfl, Link.launch_master ..⟩
    · simp [State.sendTick, State.updLink]
    · rcases hmaster with h | h
      · simp [State.sendTick, State.updLink, State.updPort, Link.updPort, h]
      · simp [State.sendTick, State.updLink, State.updPort, Link.updPort, h]

end

end Sys2Proof.Machine

open Sys2Proof Sys2Proof.Machine

/-- Settles O52: a TICK flit is heard once, and the lowest of the other candidates takes the place of a lost master. -/
theorem ticksOverLinks : Obligations.TicksOverLinks := by
  refine ⟨fun p x k s hup => execTickFlit_hears hup, fun s hlive hfollow hhold => ⟨fun hre => ?_, fun hre => ?_⟩,
    fun p a b s hopen => ⟨?_, ?_⟩⟩
  · simp [exec, execMasterLost, hlive, hfollow, Nat.not_lt.2 hhold, hre, State.updLink]
  · have hexec : execMasterLost s = .next (s.chooseMaster (some s.link.master)) := by
      simp [execMasterLost, hlive, hfollow, Nat.not_lt.2 hhold, hre]
    refine ⟨_, hexec, rfl, rfl, rfl, fun hm => Link.lowest_candidates_ne hm, fun hm => ?_, fun m hm => lowest_le hm⟩
    simp only [State.chooseMaster] at hm ⊢
    rcases hm with hm | hm
    · simp [hm, hfollow]
    · simp [hm, hfollow]
  · simp [exec, execLinkDownNotice, State.note, hopen, State.updLink]
  · simp [exec, execLinkUpNotice, State.note, hopen, State.updLink]
end

section
/-! SUPPORT. The telemetry payload of Table 21-4 (R488). -/

namespace Sys2Proof.Machine

/-- A number at the front of a list of bytes. -/
theorem leAt_leBytes_append (n v : Nat) (l : List Byte) : leAt (leBytes n v ++ l) 0 n = v % 256 ^ n := by
  rw [leAt, List.drop_zero, List.take_left' (leBytes_length n v), leNat_leBytes]

/-- A number behind the front of a list of bytes. -/
theorem leAt_append_right {pre l : List Byte} {a n : Nat} (h : pre.length ≤ a) : leAt (pre ++ l) a n = leAt l (a - pre.length) n := by
  rw [leAt, leAt, List.drop_append, List.drop_eq_nil_of_le h, List.nil_append]

theorem mstateCode_lt (m : MState) : mstateCode m < 256 := by cases m <;> decide

section
variable (s : State) (vin iin tj td : Nat)

theorem State.telemetry_length : (s.telemetry vin iin tj td).length = 32 := by
  simp [State.telemetry, leBytes_length, zeros]

theorem State.telemetry_mstate : leAt (s.telemetry vin iin tj td) 0 1 = mstateCode s.core.mstate := by
  simp only [State.telemetry, List.append_assoc, leAt_leBytes_append]
  exact Nat.mod_eq_of_lt (mstateCode_lt _)

theorem State.telemetry_vin : leAt (s.telemetry vin iin tj td) 4 2 = vin % 2 ^ 16 := by
  simp [State.telemetry, leAt_append_right, leAt_leBytes_append, leBytes_length]

theorem State.telemetry_iin : leAt (s.telemetry vin iin tj td) 6 2 = iin % 2 ^ 16 := by
  simp [State.telemetry, leAt_append_right, leAt_leBytes_append, leBytes_length]

end

/-- TEMP_ALERT# after a reading (R484). -/
theorem execTemperatureReading_on {s : State} (hon : s.core.mstate ≠ .off) (tj td : Nat) :
    ∃ t, execTemperatureReading tj td s = .next t ∧
      t.mod.tempAlert = ((decide (100 < tj) || decide (85 < td)) || (s.mod.tempAlert &&
        decide ((if decide (tj ≤ 95) && decide (td ≤ 82) then s.mod.coolTicks + 1 else 0) < 2))) ∧
      t.dram.over85 = (s.dram.over85 || decide (85 < td)) ∧ t.dram.temp = td ∧ t.tick = s.tick ∧ t.led = s.led ∧
      t.core = { s.core with alert := t.core.alert } := by
  simp only [execTemperatureReading, beq_false_of_ne hon, Bool.false_eq_true, if_false]
  exact ⟨_, rfl, rfl, rfl, rfl, rfl, rfl, rfl⟩

end Sys2Proof.Machine

open Sys2Proof Sys2Proof.Machine

/-- Settles O38: TEMP_ALERT# is what a hot reading sets and a second cool one in a row releases. -/
theorem temperatureAndManagementBus : Obligations.TemperatureAndManagementBus := by
  refine ⟨fun tj td s hon => ?_, fun s hon => ⟨fun a ha => ?_, ?_, fun b vin iin tj td hup => ?_⟩⟩
  · obtain ⟨t, hexec, halert, hover, htemp, htick, hled, hcore⟩ := execTemperatureReading_on hon tj td
    refine ⟨t, hexec, fun hhot => ?_, fun hoff hj hd => ?_, fun hj hd hcool => ?_, fun hj hset => ?_, hover, htemp, htick, hled, hcore⟩
    · rcases hhot with h | h
      · simp [halert, h]
      · simp [halert, h]
    · simp [halert, hoff, Nat.not_lt.2 hj, Nat.not_lt.2 hd]
    · simp [halert, hj, hd, hcool]
      omega
    · simp [halert, hset, Nat.not_le.2 hj]
  · simp [exec, execSmbusArp, hon, Nat.mod_eq_of_lt ha]
  · simp [exec, execAlertResponse, hon]
  · have hexec : execTelemetryRequest b vin iin tj td s = .next ({ s with
        mod := { s.mod with tj := tj, iinMa := iin }
        led := { s.led with vb := vin } }.mctpSend b (s.telemetry vin iin tj td)) := by
      simp [execTelemetryRequest, hup]
    exact ⟨_, s.telemetry vin iin tj td, hexec, rfl, s.telemetry_length .., s.telemetry_mstate .., s.telemetry_vin ..,
      s.telemetry_iin .., rfl, rfl⟩
end

section
/-! SUPPORT. Trials that fail, traps and watchdogs (R469 to R471). -/

namespace Sys2Proof.Machine

/-! ### The slots of a trial that fails -/

section
variable {i : Image} {b : Bool}

/-- The slot in TRIAL is REJECTED, its fall-back ACTIVE (R469). -/
theorem Image.fallBack_slots (ht : (i.slot b).state = .trial) (hf : (i.slot !b).state = .fallback) :
    (i.fallBack.slot b).state = .rejected ∧ (i.fallBack.slot !b).state = .active := by
  have hrej : i.restate .trial .rejected = i.setSlot b { (i.slot b) with state := .rejected } :=
    Image.restate_of_find (Image.find_eq ht (by simp [hf]))
  have hact : i.fallBack = (i.setSlot b { (i.slot b) with state := .rejected }).setSlot (!b) { (i.slot !b) with state := .active } := by
    rw [Image.fallBack, hrej, Image.restate_of_find (b := !b) (Image.find_eq (by simpa using hf) (by simp))]
    simp
  rw [hact]
  simp

end

/-! ### Causes -/

section
variable {s : State} {k : Nat}

@[simp] theorem State.fwBit_mstate (b : Nat) : (s.fwBit b).core.mstate = s.core.mstate := by
  unfold State.fwBit
  split
  · rfl
  · exact Core.msg_mstate ..

@[simp] theorem State.fwBit_image (b k : Nat) : (s.fwBit b).fw.image k = s.fw.image k := by
  unfold State.fwBit
  split
  · rfl
  · rfl

/-- A cause that is set (R476). -/
theorem State.fwBit_cause (b : Nat) : bitAt b (s.fwBit b).fw.cause = true := by
  unfold State.fwBit
  split
  · assumption
  · next h =>
    simp only [bitAt_eq_testBit] at h ⊢
    simp [testBit_add_two_pow (by simpa using h)]

/-! ### A trial that fails -/

/-- An image of a live kind falls back, and the cause is reported (R469). -/
theorem State.failTrial_back (h1 : k ≠ 1) (h6 : k ≠ 6) : ∃ l, s.failTrial k = { s with
    fw := (s.fw.updImage k fun _ => { (s.fw.image k).fallBack with left := 0, failed := false }).measureKind k
    led := l }.fwBit 0 := by
  unfold State.failTrial
  rw [if_neg (by simpa using h1), if_neg (by simpa using h6)]
  simp only
  split
  · exact ⟨_, rfl⟩
  · exact ⟨_, rfl⟩

/-- A STEWARD or DRAMTAB that fails sends the module to RECOVERY (R469, R471). -/
theorem State.failTrial_recover (h : k = 1 ∨ k = 6) : s.failTrial k = s.recover (if k = 1 then 6 else 7) := by
  rcases h with rfl | rfl
  · rfl
  · rfl

@[simp] theorem Fw.measureKind_image (f : Fw) (k j : Nat) : (f.measureKind k).image j = f.image j := rfl

theorem State.failTrial_slots {b : Bool} (h1 : k ≠ 1) (h6 : k ≠ 6) (ht : ((s.fw.image k).slot b).state = .trial)
    (hf : ((s.fw.image k).slot !b).state = .fallback) : (((s.failTrial k).fw.image k).slot b).state = .rejected ∧
      (((s.failTrial k).fw.image k).slot !b).state = .active := by
  obtain ⟨l, h⟩ := s.failTrial_back h1 h6
  rw [h, State.fwBit_image, Fw.measureKind_image, Fw.image_updImage_self]
  exact Image.fallBack_slots ht hf

end

/-! ### Traps and watchdogs -/

/-- A trap of an image is noted until the tick ends (R468). -/
def State.trap (s : State) (k : Nat) : State := { s with fw := { s.fw with trapped := (s.fw.trapped ++ [k]).dedup } }

section
variable {s : State} {k cpu : Nat} (hk : cpuKind cpu = some k) (hlive : mlive s.core.mstate = true)
include hk hlive

/-- A trap in a trial fails it, one of a confirmed STEWARD sends the module to RECOVERY, any other asks for a reload
(R469, R470). -/
theorem execProcessorTrap_of : execProcessorTrap cpu s = .next (
    if (s.fw.image k).inTrial then { s.trap k with fw := (s.trap k).fw.updImage k fun i => { i with failed := true } }
    else if k == 1 then (s.trap k).recover 6
    else { s.trap k with fw := { (s.trap k).fw with reload := (s.fw.reload ++ [k]).dedup } }) := by
  simp only [execProcessorTrap, hk, hlive, Bool.not_true, Bool.false_eq_true, if_false]
  rfl

theorem execWatchdogExpiry_of : execWatchdogExpiry cpu s = .next (if (s.fw.image k).inTrial then
    { s with fw := s.fw.updImage k fun i => { i with failed := true } } else s) := by
  simp only [execWatchdogExpiry, hk, hlive, Bool.true_and]

end

end Sys2Proof.Machine

open Sys2Proof Sys2Proof.Machine

/-- Settles O55: the window's end fails the trial, and a trap or a watchdog marks it failed. -/
theorem trialsEndOrFallBack : Obligations.TrialsEndOrFallBack := by
  refine ⟨fun k b s hlive hleft htrial hfall => ?_, fun cpu k s hk hlive => ⟨fun ht => ⟨?_, ?_⟩, fun ht => ⟨?_, fun h1 => ?_, fun h1 => ?_⟩⟩⟩
  · have hexec : exec (.trialWindowExpiry k) s = .next (s.failTrial k) := by
      have ht : (s.fw.image k).inTrial = true := Image.inTrial_iff.2 ⟨b, htrial⟩
      simp [exec, execTrialWindowExpiry, ht, hleft, hlive]
    refine ⟨fun h1 h6 => ?_, fun hrec => ?_⟩
    · obtain ⟨hrej, hact⟩ := State.failTrial_slots h1 h6 htrial hfall
      obtain ⟨l, h⟩ := s.failTrial_back h1 h6
      refine ⟨_, hexec, hrej, hact, ?_, ?_⟩
      · rw [h]
        exact State.fwBit_cause 0
      · rw [h]
        exact State.fwBit_mstate 0
    · refine ⟨_, hexec, ?_⟩
      rw [State.failTrial_recover hrec]
      exact ⟨Core.setM_mstate .., rfl, rfl⟩
  · refine ⟨_, execProcessorTrap_of hk hlive, ?_⟩
    rw [if_pos ht]
    exact ⟨by simp, rfl⟩
  · refine ⟨_, execWatchdogExpiry_of hk hlive, ?_⟩
    rw [if_pos ht]
    exact ⟨by simp, rfl⟩
  · exact (execWatchdogExpiry_of hk hlive).trans (by rw [if_neg (by simp [ht])])
  · refine ⟨_, execProcessorTrap_of hk hlive, ?_⟩
    rw [if_neg (by simp [ht]), if_pos (by simp [h1])]
    exact ⟨Core.setM_mstate .., rfl⟩
  · refine ⟨_, execProcessorTrap_of hk hlive, ?_⟩
    rw [if_neg (by simp [ht]), if_neg (by simpa using h1)]
    exact ⟨by simp, rfl, rfl⟩
end

section
/-! SUPPORT. The recovery mailbox: what each operation answers when it is granted (R464, R472). -/

namespace Sys2Proof.Machine

/-! ### Blocks that are programmed -/

/-- Blocks that match their CRCs are all programmed, one behind another (R464). -/
theorem programBlocks_good {bs : List (List Byte × Nat)} (hcrc : ∀ x ∈ bs, crc32c x.1 = x.2) (t : Tab (List Byte × Nat)) (first : Nat) :
    (programBlocks t first bs).2 = none ∧ ∀ i, Tab.get ([], 0) (programBlocks t first bs).1 i =
      if first ≤ i ∧ i < first + bs.length then bs.getD (i - first) ([], 0) else Tab.get ([], 0) t i := by
  induction bs generalizing t first with
  | nil => exact ⟨rfl, fun i => by rw [if_neg (by simp)]; rfl⟩
  | cons x r ih =>
    obtain ⟨hnone, hget⟩ := ih (fun y hy => hcrc y (List.mem_cons_of_mem x hy)) (Tab.set ([], 0) t first x) (first + 1)
    have hstep : programBlocks t first (x :: r) = programBlocks (Tab.set ([], 0) t first x) (first + 1) r :=
      if_pos (by simpa using hcrc x List.mem_cons_self)
    rw [hstep]
    refine ⟨hnone, fun i => ?_⟩
    rw [hget i, Tab.get_set, List.length_cons]
    rcases Nat.lt_trichotomy i first with h | rfl | h
    · rw [if_neg (by omega), if_neg (by omega), if_neg (by omega)]
    · rw [if_neg (by omega), if_pos rfl, if_pos (by omega), Nat.sub_self]
      rfl
    · obtain ⟨d, rfl⟩ := Nat.exists_eq_add_of_lt h
      rw [show first + d + 1 - first = d + 1 by omega, show first + d + 1 - (first + 1) = d by omega,
        List.getD_cons_succ, if_neg (show ¬ first + d + 1 = first by omega)]
      exact if_congr (by omega) rfl rfl

@[simp] theorem Fw.windowBlocks_length (f : Fw) (n : Nat) : (f.windowBlocks n).length = n := by simp [Fw.windowBlocks]

theorem Fw.windowBlocks_getD (f : Fw) {n i : Nat} (h : i < n) :
    (f.windowBlocks n).getD i ([], 0) = (Memory.read f.window (4096 * i) 4096, Tab.get 0 f.crcs i) := by
  simp [Fw.windowBlocks, h]

/-! ### What an operation that is granted answers -/

section
variable {f : Fw} {kind : Nat} {b : Bool}

theorem Fw.stageBegin_granted (h7 : kind ≠ 7) (hs : (f.image kind).sched = none) (inB : Bool) :
    f.stageBegin kind inB true = (f.updImage kind fun i => i.setSlot inB { state := .staging }, .ok, 0) := by
  simp [Fw.stageBegin, h7, hs]

theorem stageRoom_slot (h7 : kind ≠ 7) : stageRoom kind = slotBlocks kind := if_neg (by simpa using h7)

theorem Fw.rcvWrite_granted (h7 : kind ≠ 7) (hb : (f.image kind).staging = some b) {first : Nat} {bs : List (List Byte × Nat)}
    (hroom : first + bs.length ≤ slotBlocks kind) (hcrc : ∀ x ∈ bs, crc32c x.1 = x.2) :
    f.rcvWrite kind first bs = ({ f with images := Tab.upd {} f.images kind fun i => i.setSlot b { (i.slot b) with
      blocks := (programBlocks ((f.image kind).slot b).blocks first bs).1 } }, .ok, 0) := by
  obtain ⟨hnone, -⟩ := programBlocks_good hcrc ((f.image kind).slot b).blocks first
  rw [Fw.rcvWrite, stageRoom_slot h7, if_neg (Nat.not_lt.2 hroom), Fw.stageWrite]
  simp only [beq_false_of_ne h7, Bool.false_eq_true, if_false, hb, hnone]

theorem Fw.stageVerify_good (h7 : kind ≠ 7) (hb : (f.image kind).staging = some b)
    (hgood : ((f.image kind).slot b).verify kind (f.image kind).svnMin f.owners = .good) (num : Nat) :
    f.stageVerify kind num = (f.updImage kind fun i => i.setSlot b { (i.slot b) with state := .valid, num := num }, .ok, 0) := by
  simp only [Fw.stageVerify, beq_false_of_ne h7, Bool.false_eq_true, if_false, hb, hgood, beq_self_eq_true, if_true]
  rfl

theorem Fw.stageCommit_none (h : (f.image kind).find .valid = none) : f.stageCommit kind = (f, .state, 0x62) := by
  simp only [Fw.stageCommit, h]

theorem Fw.stageCommit_valid (h : (f.image kind).find .valid = some b) : f.stageCommit kind =
    (f.updImage kind fun _ => { (f.image kind).onCommit b with
      left := 0, failed := false, window := 600, nextStart := kind == 1 || kind == 6 }, .ok, 0) := by
  simp only [Fw.stageCommit, h, Image.onCommit]

/-- The slot that is committed is ACTIVE, and alone in force (R472). -/
theorem Image.onCommit_slots (i : Image) (b : Bool) :
    ((i.onCommit b).slot b).state = .active ∧ ((i.onCommit b).slot !b).state.inForce = false := by
  simp only [Image.onCommit]
  split
  · simp [SState.inForce]
  · next h =>
    simp only [Bool.or_eq_true, not_or] at h
    exact ⟨by simp, by simpa using h.1⟩

end

/-! ### The mailbox -/

/-- What an operation leaves of the firmware, and its result and detail (Table 20-11). -/
def State.reports (s : State) (r : Fw × Status × Nat) : State :=
  { s with fw := { r.1 with result := statusCode r.2.1, detail := r.2.2 } }

section
variable (s : State) (f : Fw) (st : Status) (d : Nat)

@[simp] theorem State.reports_image (k : Nat) : (s.reports (f, st, d)).fw.image k = f.image k := rfl
@[simp] theorem State.reports_images : (s.reports (f, st, d)).fw.images = f.images := rfl
@[simp] theorem State.reports_result : (s.reports (f, st, d)).fw.result = statusCode st := rfl
@[simp] theorem State.reports_detail : (s.reports (f, st, d)).fw.detail = d := rfl
@[simp] theorem State.reports_core : (s.reports (f, st, d)).core = s.core := rfl

end

section
variable {s : State} {v : Word} (hrec : s.core.mstate = .recovery)
include hrec

/-- An operation in RECOVERY runs on the firmware and reports its result (R472). -/
theorem State.rcvRun_reports {op : Nat} (h1 : 1 ≤ rcvKind v) (h6 : rcvKind v ≤ 6) (hop : rcvOp v = op) (f : Fw → Fw × Status × Nat) :
    s.rcvRun op v f = s.reports (f s.fw) := by
  simp [State.rcvRun, hrec, hop, h1, h6, State.reports]

/-- A message that commits runs the commit, and is answered with its result. -/
theorem execRecoveryDownloadMessage_commit {bus : Bus} {off : Nat} {data : List Byte} (hop : rcvOp v = 4) (hbus : bus ≠ .doe)
    (hlen : data.length ≤ 496) (h1 : 1 ≤ rcvKind v) (h6 : rcvKind v ≤ 6) :
    ∃ t, execRecoveryDownloadMessage bus v off data s = .next t ∧
      t.fw = (s.reports (s.fw.stageCommit (rcvKind v))).fw ∧
      t.mod.mctpOut = s.mod.mctpOut ++ [(bus, leBytes 4 t.fw.result)] := by
  have hrun := State.rcvRun_reports (s := { s with mod := { s.mod with rcvBytes := Memory.write s.mod.rcvBytes off data } })
    hrec h1 h6 hop fun f => f.stageCommit (rcvKind v)
  simp only [execRecoveryDownloadMessage, hrec, bne_self_eq_false, beq_false_of_ne hbus, decide_eq_false (Nat.not_lt.2 hlen),
    Bool.or_false, Bool.false_eq_true, if_false, hop]
  rw [hrun]
  exact ⟨_, rfl, rfl, rfl⟩

end

end Sys2Proof.Machine

open Sys2Proof Sys2Proof.Machine

/-- Settles O56: in RECOVERY every operation of the mailbox is the staging operation of its name, and reports its result. -/
theorem recoveryMailbox : Obligations.RecoveryMailbox := by
  intro v s hrec h1 h6
  have h7 : rcvKind v ≠ 7 := by omega
  refine ⟨fun hop hsched => ?_, fun hop b hb hroom hcrc => ?_, fun hop b hb hgood => ?_, fun hop b hb => ⟨?_, ?_⟩, fun hop hb => ?_⟩
  · refine ⟨_, s.rcvSlot (rcvKind v), rfl, ?_⟩
    rw [State.rcvRun_reports hrec h1 h6 hop, Fw.stageBegin_granted h7 hsched]
    simp [hrec, statusCode]
  · refine ⟨_, congrArg Host.Outcome.next (State.rcvRun_reports hrec h1 h6 hop _), ?_⟩
    rw [Fw.rcvWrite_granted h7 hb (by simpa using hroom) hcrc]
    refine ⟨State.reports_result .., State.reports_core .., fun i => ?_⟩
    have hget := (programBlocks_good hcrc ((s.fw.image (rcvKind v)).slot b).blocks (rcvFirst v)).2 i
    rw [State.reports_image]
    simp only [Fw.image, Tab.get_upd_self, Image.slot_setSlot_self, ISlot.block] at hget ⊢
    rw [hget, Fw.windowBlocks_length]
    split
    · next h => exact s.fw.windowBlocks_getD (by omega)
    · rfl
  · refine ⟨_, rfl, ?_⟩
    rw [State.rcvRun_reports hrec h1 h6 hop, Fw.stageVerify_good h7 hb hgood]
    simp [statusCode]
  · obtain ⟨hslot, hother⟩ := Image.onCommit_slots (s.fw.image (rcvKind v)) b
    refine ⟨_, congrArg Host.Outcome.next (State.rcvRun_reports hrec h1 h6 hop _), ?_⟩
    rw [Fw.stageCommit_valid hb, State.reports_image, Fw.image_updImage_self]
    exact ⟨hslot, hother, State.reports_result .., State.reports_core .., by simp⟩
  · intro bus off data hbus hlen
    obtain ⟨t, hexec, hfw, hout⟩ := execRecoveryDownloadMessage_commit hrec (off := off) hop hbus hlen h1 h6
    obtain ⟨hslot, -⟩ := Image.onCommit_slots (s.fw.image (rcvKind v)) b
    rw [Fw.stageCommit_valid hb] at hfw
    have hresult : t.fw.result = 0 := congrArg Fw.result hfw
    refine ⟨t, hexec, ?_, hresult, by rw [hout, hresult]⟩
    rw [hfw, State.reports_image, Fw.image_updImage_self]
    exact hslot
  · refine ⟨_, congrArg Host.Outcome.next (State.rcvRun_reports hrec h1 h6 hop _), ?_⟩
    rw [Fw.stageCommit_none hb]
    exact ⟨State.reports_images .., State.reports_result .., State.reports_detail ..⟩
end

section
/-! SUPPORT. Activations, their notices and withdrawal, and confirmations (R465 to R468). -/

namespace Sys2Proof.Machine

/-! ### Images that change in turn -/

/-- Changes of different images in turn. -/
theorem Fw.foldl_updImage_image {ks : List Nat} (hks : ks.Nodup) (u : Nat → Image → Image) (f : Fw) (j : Nat) :
    (ks.foldl (fun f k => f.updImage k (u k)) f).image j = if j ∈ ks then u j (f.image j) else f.image j := by
  induction ks generalizing f with
  | nil => simp
  | cons k r ih =>
    obtain ⟨hk, hr⟩ := List.nodup_cons.1 hks
    rw [List.foldl_cons, ih hr, Fw.image_updImage]
    by_cases hj : j = k
    · subst hj
      rw [if_neg hk, if_pos rfl, if_pos List.mem_cons_self]
    · simp [hj]

theorem Fw.foldl_updImage_acts (ks : List Nat) (u : Nat → Image → Image) (f : Fw) :
    (ks.foldl (fun f k => f.updImage k (u k)) f).acts = f.acts := by
  refine List.foldlRecOn (motive := fun g : Fw => g.acts = f.acts) ks _ rfl fun g hg k _ => ?_
  obtain ⟨a, b, h⟩ := g.updImage_eq k (u k)
  rw [h]
  exact hg

theorem maskKinds_nodup (mask : Nat) : (maskKinds mask).Nodup := List.Nodup.filter _ (by decide)

/-! ### Activations -/

section
variable (f : Fw) (a : Activate)

/-- An activation names its images (R465). -/
theorem Fw.schedule_image (k : Nat) : (f.schedule a).image k = if k ∈ maskKinds a.mask then
    { f.image k with sched := some (a.effTick, a.window), tick := a.effTick % 2 ^ 32, window := a.window } else f.image k :=
  Fw.foldl_updImage_image (maskKinds_nodup a.mask)
    (fun _ i => { i with sched := some (a.effTick, a.window), tick := a.effTick % 2 ^ 32, window := a.window }) f k

theorem Fw.schedule_acts : (f.schedule a).acts = f.acts ++ [a] :=
  congrArg (· ++ [a]) (Fw.foldl_updImage_acts (maskKinds a.mask)
    (fun _ i => { i with sched := some (a.effTick, a.window), tick := a.effTick % 2 ^ 32, window := a.window }) f)

theorem Fw.withdraw_acts : (f.withdraw a).acts = f.acts.erase a :=
  congrArg (·.erase a) (Fw.foldl_updImage_acts (maskKinds a.mask) (fun _ i => { i with sched := none }) f)

/-- An activation leaves the slots alone. -/
theorem Fw.schedule_slots (k : Nat) : ((f.schedule a).image k).a = (f.image k).a ∧ ((f.schedule a).image k).b = (f.image k).b := by
  rw [Fw.schedule_image]
  split
  · exact ⟨rfl, rfl⟩
  · exact ⟨rfl, rfl⟩

end

/-- FW_ACTIVATE schedules one activation and, as a chain form, asks the other modules (R465, R467). -/
theorem fwActivate_ok {s t : State} {e : Env} {r : Option Run} (h : fwActivate s e = .ok (t, r)) : r = none ∧
    ∃ a : Activate, a.mask = e.word 0 ∧ a.effTick = max (e.long 1) (e.now + if e.sub = 1 then 4 else 2) ∧
      t.fw = s.fw.schedule a ∧ t.tick = s.tick := by
  unfold fwActivate at h
  split at h
  · cases h
  · split at h
    · cases h
    · obtain ⟨rfl, rfl⟩ := Prod.mk.inj (Except.ok.inj h)
      refine ⟨rfl, ?_⟩
      have hsent (u : State) (l : List Nat) (mask : Nat) :
          (l.foldl (fun s d => s.sendMgmt d 0x20 (.activate d mask)) u).fw = u.fw ∧
          (l.foldl (fun s d => s.sendMgmt d 0x20 (.activate d mask)) u).tick = u.tick := by
        obtain ⟨n, k, h⟩ := State.foldl_sendMgmt_eq u l fun s d => s.sendMgmt_eq d 0x20 (.activate d mask)
        rw [h]
        exact ⟨rfl, rfl⟩
      refine ⟨_, ?_, ?_, (hsent _ _ _).1, (hsent _ _ _).2⟩
      · rfl
      · simp

/-! ### Notices, cancels and missing answers -/

section
variable {s : State} {p : Nat}

/-- A notice is read at an open port (R467). -/
theorem execActivateNotice_open (hopen : s.portOpen p = true) (n : ActNotice) : execActivateNotice p n s = .next (
    if (s.fw.refuses n.mask).isNone && (maskKinds n.mask).all fun k => n.digests.any fun d =>
        d.1 == k && d.2 == beNat (s.fw.validDigest k) then
      { s with fw := s.fw.schedule { cmd := none, origin := n.origin, mask := n.mask, effTick := n.effTick, window := n.window
                                     chain := true, accepted := [] } }.reply n.origin n.id .granted
    else s.reply n.origin n.id .refused) := by
  simp only [State.portOpen, State.portUp, State.linkLive, Bool.and_eq_true, Bool.not_eq_true', beq_iff_eq] at hopen
  obtain ⟨⟨hlive, hstate⟩, hfrozen⟩ := hopen
  simp [execActivateNotice, hlive, hstate, hfrozen]

/-- A cancel withdraws the activation that it names (R467). -/
theorem execActivateCancel_open (hopen : s.portOpen p = true) {origin mask : Nat} {a : Activate}
    (ha : (s.fw.acts.find? fun x => x.origin == origin && origin != 0 && x.mask == mask) = some a) :
    execActivateCancel p origin mask s = .next { s with fw := s.fw.withdraw a } := by
  simp only [State.portOpen, State.portUp, State.linkLive, Bool.and_eq_true, Bool.not_eq_true', beq_iff_eq] at hopen
  obtain ⟨⟨hlive, hstate⟩, hfrozen⟩ := hopen
  simp only [execActivateCancel, hlive, hstate, hfrozen, ha]
  rfl

/-- An activation that fails is withdrawn (R467). -/
theorem State.activateFail_fw (a : Activate) (id : Nat) : (s.activateFail (some a) id).fw = s.fw.withdraw a := by
  simp only [State.activateFail]
  split
  · rfl
  · rfl

end

/-! ### Confirmations -/

/-- A slot in another state stays where it is. -/
theorem Image.slot_restate_ne {i : Image} {b : Bool} {old new : SState} (h : (i.slot b).state ≠ old) :
    (i.restate old new).slot b = i.slot b := by
  cases hfind : i.find old with
  | none => rw [Image.restate_of_none hfind]
  | some c =>
    have hc : c = !b := by
      have := Image.find_some hfind
      cases b <;> cases c <;> simp_all
    rw [Image.restate_of_find hfind, hc, Image.slot_setSlot_not]

/-- A trial that is confirmed is ACTIVE (R468). -/
theorem Image.confirm_active {i : Image} {b : Bool} (h : i.find .trial = some b) (k : Nat) : ((i.confirm k).slot b).state = .active := by
  have hactive : ((i.restate .trial .active).slot b).state = .active := by simp [Image.restate_of_find h]
  have hslot : (i.confirm k).slot b = (i.restate .trial .active).slot b := by
    rw [Image.confirm_of_trial h]
    exact Image.slot_restate_ne (by simp [hactive])
  rw [hslot, hactive]

theorem Image.confirm_svnMin {i : Image} {b : Bool} (h : i.find .trial = some b) (k : Nat) : (i.confirm k).svnMin =
    if mfRaise ((i.slot b).manifest k) = true then max i.svnMin (mfSvn ((i.slot b).manifest k)) else i.svnMin := by
  rw [Image.confirm_of_trial h]

/-- FW_CONFIRM confirms healthy trials alone, all of them (R468). -/
theorem fwConfirm_ok {s t : State} {e : Env} {r : Option Run} (h : fwConfirm s e = .ok (t, r)) : r = some (quick 0) ∧
    (∀ k ∈ maskKinds (e.word 0), (s.fw.image k).onTrial = true ∧ (s.fw.image k).isHealthy = true) ∧
    ∀ k, t.fw.image k = if k ∈ maskKinds (e.word 0) then (s.fw.image k).confirm k else s.fw.image k := by
  obtain ⟨_, htrial, h⟩ := bind_eq_ok.1 h
  rw [need_eq_ok, List.all_eq_true] at htrial
  split at h
  · cases h
  · next hhealthy =>
    simp only [List.find?_eq_none, Bool.not_eq_true', Bool.not_eq_false] at hhealthy
    obtain ⟨rfl, rfl⟩ := Prod.mk.inj (Except.ok.inj h)
    refine ⟨rfl, fun k hk => ⟨htrial k hk, hhealthy k hk⟩, fun k => ?_⟩
    have himage := Fw.foldl_updImage_image (maskKinds_nodup (e.word 0)) (fun k i => i.confirm k) s.fw k
    split
    · exact himage
    · exact (State.fwBit_image 1 k).trans himage

end Sys2Proof.Machine

open Sys2Proof Sys2Proof.Machine

/-- Settles O54: an activation is scheduled or withdrawn as one, and a confirmation confirms each of its images once. -/
theorem activationAndConfirmation : Obligations.ActivationAndConfirmation := by
  refine ⟨fun s t e r h => ?_, fun p n s hopen => ?_, fun p origin mask a s hopen _ ha => execActivateCancel_open hopen ha,
    fun s => ⟨fun hnone => ?_, fun a ha => ?_⟩, fun s t e r h => ?_⟩
  · obtain ⟨hr, a, hmask, htick, hfw, hsame⟩ := fwActivate_ok h
    rw [hfw]
    refine ⟨hr, hsame, fun k hk => ?_, s.fw.schedule_slots a, by simp [Fw.schedule_acts]⟩
    rw [Fw.schedule_image, hmask, if_pos hk, ← htick]
    rfl
  · have hgood : ((s.fw.refuses n.mask).isNone && (maskKinds n.mask).all fun k => n.digests.any fun d =>
        d.1 == k && d.2 == beNat (s.fw.validDigest k)) = true ↔ (s.fw.refuses n.mask).isNone = true ∧
        ∀ k ∈ maskKinds n.mask, ∃ d ∈ n.digests, d.1 = k ∧ d.2 = beNat (s.fw.validDigest k) := by simp
    refine ⟨fun h => ⟨_, execActivateNotice_open hopen n, ?_⟩, fun h => ⟨_, execActivateNotice_open hopen n, ?_⟩⟩
    · rw [if_pos (hgood.2 h)]
      refine ⟨State.reply_replies .., ?_⟩
      exact (congrArg List.length (Fw.schedule_acts ..)).trans (by simp)
    · rw [if_neg (mt hgood.1 h)]
      exact ⟨State.reply_replies .., rfl⟩
  · simp [exec, execActivateTimeout, hnone]
  · have hexec : execActivateTimeout s = .next ({ s with core := s.core.draw.2 }.activateFail (some a)
        (Config.freeNat s.core.draw.1 0 % 65536)) := by simp [execActivateTimeout, ha]
    have hfw := State.activateFail_fw (s := { s with core := s.core.draw.2 }) a (Config.freeNat s.core.draw.1 0 % 65536)
    exact ⟨_, hexec, hfw, (congrArg Fw.acts hfw).trans (Fw.withdraw_acts ..)⟩
  · obtain ⟨hr, hall, himage⟩ := fwConfirm_ok h
    refine ⟨hr, fun k hk => ?_, fun k hk => by rw [himage, if_neg hk]⟩
    obtain ⟨htrial, hhealthy⟩ := hall k hk
    refine ⟨htrial, hhealthy, fun b hb => ?_⟩
    rw [himage, if_pos hk]
    exact ⟨Image.confirm_active hb k, Image.confirm_svnMin hb k⟩
end

section
open Sys2Proof Sys2Proof.Machine

/-- Settles O1: both clauses are the two cases of the queue. -/
theorem stepRunsFrontCommand : Obligations.StepRunsFrontCommand := by
  refine ⟨fun _ _ _ => rfl, fun s hs => ?_⟩
  simp only [step, hs]

end
